-- ==== Sys2Proof/Word.lean ====
section
/-! DEFINITION. The word types of the part and nothing more: bytes, register words and lists of bytes.
Multi-byte fields are little-endian (R10). -/

set_option Elab.async false

namespace Sys2Proof

/-- One byte. -/
abbrev Byte := BitVec 8
/-- One 4-byte register word (R500). -/
abbrev Reg := BitVec 32
/-- Bytes in address order; byte 0 is the lowest address (R10). -/
abbrev Bytes := List (BitVec 8)

end Sys2Proof
end

