-- ==== Sys2Proof/Types.lean ====
section
/-! DEFINITION. The operands of the commands: senders, readers, fabric packets and cells, readings that the
environment supplies. Plain data; what a command does with them is in Machine/. -/

set_option Elab.async false

namespace Sys2Proof

/-- Who writes a command packet: the host through BAR2, or a fabric endpoint with the transaction and the context of its write (R26,
R30, R292, R537). -/
inductive Sender where
  | bar2
  | fabric (ep txn ctx : Nat)
  deriving DecidableEq, Repr

/-- The readers of BAR0, each with a shadow of its own (R503). -/
inductive Reader where
  | host | cuA | cuB | cuC | jtag
  deriving DecidableEq, Repr

/-- The messages of Table 9.9. -/
inductive MsgOp where
  | rdShared | rdOwn | upgrade | rdCur | wb | evict | wrInv | wrPart | accLine
  | writeFill | readDrain | readFull | addSat | fence
  | gntS | gntE | gntM | dataNc | rspData | syncVal
  | recall | downgrade | inv | rspAck | rspNone | gntUp | cmp | err | pending
  deriving DecidableEq, Repr

/-- One fabric packet: the header fields of Table 9.8, the payload and tag of a 128-byte cell (Table 9.4), and the
end-to-end check it carries (R285). `opcode` is the byte on the wire, which need not be defined (R286). -/
structure Packet where
  opcode : Nat := 0
  routeEpoch : Bool := false
  encrypted : Bool := false
  resend : Bool := false
  hops : Nat := 0
  src : Nat := 0
  dst : Nat := 0
  ctx : Nat := 0
  txn : Nat := 0
  addr : Nat := 0
  reason : Nat := 0
  aux : Nat := 0
  payload : Bytes := []
  tag : Bytes := []
  check : Reg := 0
  deriving DecidableEq, Repr

/-- One sequenced cell as received: the link header of Table 9.3, the packet, the piggybacked ack of Table 9.4.
`creditVc` 3: no credits returned. -/
structure Cell where
  seq : Nat := 0
  vc : Nat := 0
  credits : Nat := 0
  creditVc : Nat := 3
  pkt : Packet := {}
  ackValid : Bool := false
  ackCum : Nat := 0
  ackBitmap : Nat := 0
  deriving DecidableEq, Repr

/-- What one end states in its training cells (R268, R419): speed asked for (1 S1, 2 S2, 3 S3), width asked for
(1 x1, 2 x2, 3 x4), the physical lanes it receives without fault (4 is LS), its endpoint ID and port number. -/
structure TrainInfo where
  speed : Nat := 1
  width : Nat := 3
  lanes : List Nat := []
  endpoint : Nat := 0
  port : Nat := 0
  deriving DecidableEq, Repr

/-- One lane's counts over the 10 ms error-rate test (R420). -/
structure LaneResult where
  lane : Nat := 0
  symbols : Nat := 0
  corrected : Nat := 0
  worstCodeword : Nat := 0
  uncorrectable : Nat := 0
  deriving DecidableEq, Repr

/-- Body of a TIME cell (Table 10.1) with the local arrival time; times as a pair of whole ns and a 2^-16 ns fraction. -/
structure TimeBody where
  seq : Nat := 0
  echo : Nat := 0
  tTx : Nat := 0
  tTxFrac : Nat := 0
  tRx : Nat := 0
  tRxFrac : Nat := 0
  locked : Bool := false
  distance : Nat := 15
  arrival : Nat := 0
  arrivalFrac : Nat := 0
  deriving DecidableEq, Repr

/-- What one 1 ms step of bellows reads (R437, R439). Temperatures in 1/16 degree; `none`: the I3C read failed. -/
structure SensorReads where
  inlet : Option Int := some 320
  outlet : Option Int := some 320
  die : List Int := []
  deriving DecidableEq, Repr

/-- A private key of the security engine: the fused identity key, or the attestation key of a boot, by the draw that made it (Table 11.1). -/
inductive SignKey where
  | identity
  | attest (draw : Nat)
  deriving DecidableEq, Repr

/-- The result of Kindling's checks of one image in flash (R339): which checks hold, and what the image declares and measures. -/
structure ImageCheck where
  keyOk : Bool := true
  sigOk : Bool := true
  svn : Nat := 0
  stateFormat : Nat := 0
  digest : Bytes := []
  tables : Bytes := []
  deriving DecidableEq, Repr

/-- A CXL.mem request of the host (R178, R388). -/
inductive HostMemOp where
  | readShared | readOwn | readCur
  | writeLine (data : Bytes)
  | writePart (off : Nat) (data : Bytes)
  | writeBack (data : Bytes)
  deriving DecidableEq, Repr

/-- The host's answer to a back-invalidate snoop, or its BIConflict for one that meets a request of its own (R178). -/
inductive SnoopRsp where
  | biRspI | biRspS | biConflict
  | dirty (data : Bytes)
  deriving DecidableEq, Repr

/-- The windows that act on a write beside the normal one (Table 17.1). -/
inductive AliasWindow where
  | set | clear | toggle
  deriving DecidableEq, Repr

/-- The causes of Table 3.5's due tasks. -/
inductive CalTask where
  | zq | retrain
  deriving DecidableEq, Repr

/-- One regulator as the PMBus poll reads it (Table 18.6). -/
structure Regulator where
  vout : Nat := 0
  iout : Nat := 0
  temp : Nat := 0
  status : Nat := 0
  deriving DecidableEq, Repr

/-- An extent of Dynamic Capacity as the mailbox names it: capacity address and length in bytes (R385, R386). -/
structure Extent where
  base : Nat
  len : Nat
  deriving DecidableEq, Repr

end Sys2Proof
end

