-- ==== Sys2Proof/Syntax.lean ====
section
/-! DEFINITION. The commands of the block: one constructor per row of spec/opcode_table.json, in the table's order.
The table gives no operands; each constructor has those its rule needs (log 3). `ctx tag` names a command taken by the
control complex, whose packet bytes hold its parameters; `n` numbers an item of a queue of State. -/

set_option Elab.async false

namespace Sys2Proof

inductive Instr where
  /-- COMMAND_WRITE (R34). -/
  | commandWrite (via : Sender) (offset : Nat) (bytes : Bytes)
  /-- COMMAND_DISPATCH (R36). -/
  | commandDispatch
  /-- CU_OUTPUT (R368). -/
  | cuOutput (n : Nat)
  /-- REPLY_WRITE_ERROR (R46). -/
  | replyWriteError (n : Nat)
  /-- NOP (R460). -/
  | nop (ctx tag : Nat)
  /-- CTX_CREATE (R461). -/
  | ctxCreate (ctx tag : Nat)
  /-- CTX_DESTROY (R52). -/
  | ctxDestroy (ctx tag : Nat)
  /-- CTX_DESTROY_COMPLETE (R355). -/
  | ctxDestroyComplete (c : Nat)
  /-- CTX_QUERY (R463). -/
  | ctxQuery (ctx tag : Nat)
  /-- CTX_SET_CLASS (R464). -/
  | ctxSetClass (ctx tag : Nat)
  /-- CTX_ATTEST (R348). -/
  | ctxAttest (ctx tag : Nat)
  /-- CTX_BIND_KEY (R351). -/
  | ctxBindKey (ctx tag : Nat)
  /-- CORD_ALLOC (R104). -/
  | cordAlloc (ctx tag : Nat) (hostOk : Bool)
  /-- CORD_FREE (R105). -/
  | cordFree (ctx tag : Nat) (hostData : Option Bytes)
  /-- REGION_DEFINE (R108). -/
  | regionDefine (ctx tag : Nat) (hostData : Option Bytes)
  /-- REGION_SHARE (R111). -/
  | regionShare (ctx tag : Nat)
  /-- REGION_REVOKE (R112). -/
  | regionRevoke (ctx tag : Nat)
  /-- LEASE_RENEW (R118). -/
  | leaseRenew (ctx tag : Nat)
  /-- REGION_MIGRATE (R473). -/
  | regionMigrate (ctx tag : Nat)
  /-- SCRUB_RANGE (R92). -/
  | scrubRange (ctx tag : Nat)
  /-- ZERO_RANGE (R475). -/
  | zeroRange (ctx tag : Nat)
  /-- REGION_TRIPLE (R374). -/
  | regionTriple (ctx tag : Nat)
  /-- PT_BIND (R141). -/
  | ptBind (ctx tag : Nat)
  /-- PT_SYNC (R144). -/
  | ptSync (ctx tag : Nat)
  /-- FAULT_RESUME (R154). -/
  | faultResume (ctx tag : Nat)
  /-- PLAN_LOAD (R205). -/
  | planLoad (ctx tag : Nat)
  /-- PLAN_RUN (R208). -/
  | planRun (ctx tag : Nat)
  /-- PLAN_ARM (R209). -/
  | planArm (ctx tag : Nat)
  /-- PLAN_CANCEL (R216). -/
  | planCancel (ctx tag : Nat)
  /-- WEIGHT_INGEST (R352). -/
  | weightIngest (ctx tag : Nat)
  /-- WEIGHT_INGEST_DONE (R352). -/
  | weightIngestDone (ctx tag : Nat)
  /-- SYNC_INIT (R189). -/
  | syncInit (ctx tag : Nat)
  /-- GATE_INSTALL (R313). -/
  | gateInstall (ctx tag : Nat) (hostData : Option Bytes)
  /-- ROUTE_INSTALL (R295). -/
  | routeInstall (ctx tag : Nat) (hostImage hostTopology : Option Bytes)
  /-- EPOCH_SWITCH (R314). -/
  | epochSwitch (ctx tag : Nat)
  /-- EPOCH_SWITCH_AT_T (R295). -/
  | epochSwitchAtT
  /-- SHAPER_SET (R321). -/
  | shaperSet (ctx tag : Nat)
  /-- POLICER_SET (R324). -/
  | policerSet (ctx tag : Nat)
  /-- SELFTEST (R490). -/
  | selftest (ctx tag : Nat)
  /-- SELFTEST_COMPLETE (R490). -/
  | selftestComplete (ctx tag : Nat) (pass : Bool)
  /-- CALIBRATE (R71). -/
  | calibrate (ctx tag : Nat)
  /-- RETIRE (R492). -/
  | retire (ctx tag : Nat)
  /-- RETIRE_COMPLETE (R97). -/
  | retireComplete (ctx tag : Nat)
  /-- FW_UPDATE (R341). -/
  | fwUpdate (ctx tag : Nat) (hostData : Option Bytes)
  /-- TRIPLEX_MODE (R494). -/
  | triplexMode (ctx tag : Nat)
  /-- TELEM_READ (R495). -/
  | telemRead (ctx tag : Nat) (hostOk : Bool)
  /-- LOG_READ (R497). -/
  | logRead (ctx tag : Nat) (hostOk : Bool)
  /-- REQUEST_STAMP (R114). -/
  | requestStamp (point n : Nat)
  /-- GRANT_FILL (R113). -/
  | grantFill (point holder region : Nat)
  /-- COMPLETION_PASSES_STAMP (R114). -/
  | completionPassesStamp (n : Nat)
  /-- EPOCH_STEP (R120). -/
  | epochStep (region : Nat)
  /-- REVOKE_PHASE2_END (R121). -/
  | revokePhase2End (region : Nat)
  /-- LEASE_EXAMINATION (R119). -/
  | leaseExamination
  /-- ZEROISE_SWEEP (R536). -/
  | zeroiseSweep (slice : Nat)
  /-- CORD_ZEROISED (R127). -/
  | cordZeroised (cord : Nat)
  /-- CORD_COPY_BLOCK (R129). -/
  | cordCopyBlock (cord : Nat)
  /-- CORD_CUTOVER (R130). -/
  | cordCutover (cord : Nat)
  /-- RD_SHARED (R166). -/
  | rdShared (n : Nat)
  /-- RD_OWN (R166). -/
  | rdOwn (n : Nat)
  /-- UPGRADE (R166). -/
  | upgrade (n : Nat)
  /-- RD_CUR (R166). -/
  | rdCur (n : Nat)
  /-- WB (R172). -/
  | wb (n : Nat)
  /-- EVICT (R172). -/
  | evict (n : Nat)
  /-- WR_INV (R177). -/
  | wrInv (n : Nat)
  /-- WR_PART (R166). -/
  | wrPart (n : Nat)
  /-- ACC_LINE (R256). -/
  | accLine (n : Nat)
  /-- WRITE_FILL (R183). -/
  | writeFill (n : Nat)
  /-- READ_DRAIN (R183). -/
  | readDrain (n : Nat)
  /-- READ_FULL (R183). -/
  | readFull (n : Nat)
  /-- ADD_SAT (R183). -/
  | addSat (n : Nat)
  /-- FENCE (R187). -/
  | fence (n : Nat)
  /-- RSP_DATA (R166). -/
  | rspData (n : Nat)
  /-- RSP_ACK (R165). -/
  | rspAck (n : Nat)
  /-- RSP_NONE (R172). -/
  | rspNone (n : Nat)
  /-- HOST_SNOOP_RESPONSE (R178). -/
  | hostSnoopResponse (line : Nat) (rsp : SnoopRsp)
  /-- ANSWER_POOL_ADMIT (R169). -/
  | answerPoolAdmit (slice : Nat)
  /-- MIN_HOLD_EXPIRY (R170). -/
  | minHoldExpiry (line : Nat)
  /-- RECALL_TIMEOUT (R171). -/
  | recallTimeout (line : Nat)
  /-- SYNC_WAIT_TIMEOUT (R185). -/
  | syncWaitTimeout (n : Nat)
  /-- PROBE_RESEND (R287). -/
  | probeResend (line : Nat)
  /-- RESEND_ENTRY_EXPIRY (R290). -/
  | resendEntryExpiry (n : Nat)
  /-- TRIPLET_WRITE_ISSUE (R376). -/
  | tripletWriteIssue (n : Nat)
  /-- TRIPLET_READ_VOTE (R377). -/
  | tripletReadVote (n : Nat)
  /-- SCHEDULER_ISSUE (R65). -/
  | schedulerIssue (g : Nat)
  /-- STOKE_LEVEL_CHANGE (R65). -/
  | stokeLevelChange (g n : Nat)
  /-- READ_DECODE (R77). -/
  | readDecode (g : Nat) (noise : List (Nat × Byte))
  /-- PARTIAL_WRITE_ENTRY (R79). -/
  | partialWriteEntry (g : Nat)
  /-- MERGE_ENTRY_AGE_OUT (R80). -/
  | mergeEntryAgeOut (g line : Nat)
  /-- MERGE_RMW_COMPLETE (R81). -/
  | mergeRmwComplete (g : Nat)
  /-- BITMAP_LINE_FETCH (R85). -/
  | bitmapLineFetch (g idx : Nat) (noiseA noiseB : List (Nat × Byte))
  /-- BLOCK_FILL_DONE (R83). -/
  | blockFillDone (g : Nat)
  /-- REFRESH_DEBT_TICK (R67). -/
  | refreshDebtTick (g : Nat)
  /-- CALIBRATION_DUE (R70). -/
  | calibrationDue (g : Nat) (task : CalTask)
  /-- FREQUENCY_CHANGE (R73). -/
  | frequencyChange (stack : Nat)
  /-- CHANNEL_EDGE_GUARD (R66). -/
  | channelEdgeGuard (g : Nat)
  /-- MEM_INJ_CTRL (R101). -/
  | memInjCtrl (rd : Reader) (g : Nat) (v : Reg)
  /-- TB_MISS_WALK_DONE (R150). -/
  | tbMissWalkDone (tile : Nat)
  /-- FAULT_QUEUE_POST (R152). -/
  | faultQueuePost (h : Nat)
  /-- STALL_LIST_REWALK (R153). -/
  | stallListRewalk (h : Nat)
  /-- XLAT_FQ_MARK (R157). -/
  | xlatFqMark (rd : Reader) (h : Nat) (v : Reg)
  /-- PLAN_START (R212). -/
  | planStart (n : Nat)
  /-- GEMV_STREAM (R250). -/
  | gemvStream (tile : Nat)
  /-- ATTN_DECODE (R253). -/
  | attnDecode (tile : Nat)
  /-- SOFTMAX_MERGE (R255). -/
  | softmaxMerge (tile : Nat)
  /-- REDUCE_ADD (R256). -/
  | reduceAdd (tile : Nat)
  /-- GATHER (R257). -/
  | gather (tile : Nat)
  /-- SCATTER_ACC (R258). -/
  | scatterAcc (tile : Nat)
  /-- CONVERT (R259). -/
  | convert (tile : Nat)
  /-- TOPK (R260). -/
  | topk (tile : Nat)
  /-- WAIT (R203). -/
  | wait (tile : Nat)
  /-- WAIT_LIMIT_EXPIRY (R203). -/
  | waitLimitExpiry (tile : Nat)
  /-- SIGNAL (R202). -/
  | signal (tile : Nat)
  /-- REPEAT (R204). -/
  | repeatRange (tile : Nat)
  /-- END (R214). -/
  | endPlan (tile : Nat)
  /-- EMBER_ERROR (R222). -/
  | emberError (tile : Nat) (parity : Bool)
  /-- END_NOTICE (R214). -/
  | endNotice (n : Nat)
  /-- EMBER_QUANTUM_EXPIRY (R217). -/
  | emberQuantumExpiry (tile : Nat)
  /-- EMBER_EDGE_GUARD (R219). -/
  | emberEdgeGuard (tile : Nat)
  /-- EMBER_FAULT_FENCE (R226). -/
  | emberFaultFence (tile : Nat)
  /-- EMB_INJ_CTRL (R231). -/
  | embInjCtrl (rd : Reader) (tile : Nat) (v : Reg)
  /-- LINK_SIGNAL_DETECT (R267). -/
  | linkSignalDetect (p : Nat) (lanes : List Nat)
  /-- DETECT_RETRY (R267). -/
  | detectRetry (p : Nat)
  /-- TRAINING_END (R268). -/
  | trainingEnd (p : Nat) (received : List Nat) (partner : Option TrainInfo)
  /-- TRAIN (R270). -/
  | train (p purpose : Nat) (partner : TrainInfo)
  /-- ERROR_RATE_TEST_END (R420). -/
  | errorRateTestEnd (p : Nat) (lanes : List LaneResult)
  /-- RETRAIN_THRESHOLD (R270). -/
  | retrainThreshold (p lane corrected : Nat)
  /-- RETRAIN_END (R267). -/
  | retrainEnd (p : Nat)
  /-- RETRAIN_TIMEOUT (R281). -/
  | retrainTimeout (p : Nat)
  /-- LINK_SILENCE_TIMEOUT (R281). -/
  | linkSilenceTimeout (p : Nat)
  /-- SEQUENCED_CELL (R278). -/
  | sequencedCell (p : Nat) (cell : Cell)
  /-- CELL_CRC_FAIL (R273). -/
  | cellCrcFail (p : Nat) (raw : Bytes)
  /-- ACK (R280). -/
  | ack (p cum bitmap : Nat)
  /-- ACK_SEND (R279). -/
  | ackSend (p : Nat)
  /-- REPLAY_TIMER (R280). -/
  | replayTimer (p seq : Nat)
  /-- CREDIT (R275). -/
  | credit (p vc units : Nat)
  /-- HOLD (R274). -/
  | hold (p cause : Nat)
  /-- IDLE (R271). -/
  | idle (p : Nat) (received : Bool)
  /-- PACKET_ROUTE (R291). -/
  | packetRoute (p : Nat)
  /-- PACKET_DELIVER (R285). -/
  | packetDeliver (p : Nat)
  /-- PENDING (R287). -/
  | pending (n : Nat)
  /-- PENDING_TIMER (R288). -/
  | pendingTimer (n : Nat)
  /-- REQUEST_RESEND_TIMER (R287). -/
  | requestResendTimer (n : Nat)
  /-- REQUEST_COMPLETION (R222). -/
  | requestCompletion (n : Nat)
  /-- MESH_FLIT (R515). -/
  | meshFlit (tile output : Nat) (ctx : Nat) (parityBad : Bool)
  /-- FAB_CTRL_RESET (R269). -/
  | fabCtrlReset (rd : Reader) (p : Nat)
  /-- FAB_CTRL_RETRAIN (R270). -/
  | fabCtrlRetrain (rd : Reader) (p : Nat)
  /-- FAB_CTRL_DISABLE (R267). -/
  | fabCtrlDisable (rd : Reader) (p : Nat) (on : Bool)
  /-- FAB_INJ_CTRL (R302). -/
  | fabInjCtrl (rd : Reader) (p : Nat) (v : Reg)
  /-- TIME (R305). -/
  | time (p : Nat) (body : TimeBody)
  /-- TIME_CELL_SEND (R305). -/
  | timeCellSend (p : Nat)
  /-- PARENT_SILENCE_TIMEOUT (R307). -/
  | parentSilenceTimeout
  /-- HOLDOVER_EXPIRY (R307). -/
  | holdoverExpiry
  /-- GATE_SLOT_EDGE (R309). -/
  | gateSlotEdge (list : Nat)
  /-- PORT_EDGE_GUARD (R319). -/
  | portEdgeGuard (p : Nat)
  /-- USABLE_SHARE_END (R327). -/
  | usableShareEnd (list : Nat)
  /-- SHAPER_REFILL (R322). -/
  | shaperRefill
  /-- THROTTLE_CAUSE (R326). -/
  | throttleCause (power : Nat)
  /-- THROTTLE_LEVEL_TICK (R326). -/
  | throttleLevelTick (power : Nat)
  /-- TOKEN_RENEWAL (R367). -/
  | tokenRenewal
  /-- TOKEN_LEASE_EXPIRY (R367). -/
  | tokenLeaseExpiry
  /-- STALE_CLAIM_NOTICE (R368). -/
  | staleClaimNotice (unit : Nat)
  /-- LOCKSTEP_VOTE (R365). -/
  | lockstepVote (a b c : Nat)
  /-- HOT_STANDBY_DELTA (R366). -/
  | hotStandbyDelta
  /-- CU_PARITY_ERROR (R367). -/
  | cuParityError (unit : Nat)
  /-- UNIT_REJOIN (R371). -/
  | unitRejoin (unit : Nat)
  /-- HEARTH_LOST (R23). -/
  | hearthLost (h : Nat)
  /-- JTAG_UNLOCK (R357). -/
  | jtagUnlock (level : Nat) (key sig : Bytes)
  /-- SEC_DEBUG_RELOCK (R358). -/
  | secDebugRelock (rd : Reader)
  /-- SEC_DEBUG_DISABLE (R358). -/
  | secDebugDisable (rd : Reader)
  /-- SESSION_KEY_RETIRE (R353). -/
  | sessionKeyRetire (ctx peer : Nat)
  /-- POWER_ON_RESET (R404). -/
  | powerOnReset
  /-- EXTERNAL_RESET (R404). -/
  | externalReset
  /-- SUPPLY_RESET (R428). -/
  | supplyReset
  /-- CLKRST_RESET (R404). -/
  | clkrstReset (rd : Reader) (v : Reg)
  /-- KINDLING_VERIFY (R339). -/
  | kindlingVerify (unit : Nat)
  /-- TILE_WAVE (R413). -/
  | tileWave (w : Nat)
  /-- TILE_POWER_GOOD_TIMEOUT (R413). -/
  | tilePowerGoodTimeout (tile : Nat)
  /-- DECODE_TABLE_BROADCAST (R414). -/
  | decodeTableBroadcast (first second : List Nat)
  /-- STACK_TRAINING_DONE (R415). -/
  | stackTrainingDone (stack : Nat) (failed : List Nat)
  /-- FIRMWARE_READY (R409). -/
  | firmwareReady
  /-- CLKRST_HRESET (R425). -/
  | clkrstHreset (rd : Reader) (v : Reg)
  /-- PARTIAL_RESET_COMPLETE (R426). -/
  | partialResetComplete
  /-- CLKRST_ENVELOPE (R423). -/
  | clkrstEnvelope (rd : Reader) (v : Reg)
  /-- ENVELOPE_BURN_DONE (R423). -/
  | envelopeBurnDone
  /-- SUPPLY_WARNING_DETECT (R428). -/
  | supplyWarningDetect (h mv : Nat)
  /-- SUPPLY_BANK_TIMER (R430). -/
  | supplyBankTimer
  /-- SUPPLY_RELEASE (R431). -/
  | supplyRelease
  /-- SUPPLY_EPISODE_END (R432). -/
  | supplyEpisodeEnd
  /-- PERST_HOT_RESET (R395). -/
  | perstHotReset
  /-- FLR (R395). -/
  | flr
  /-- CXL_MEM_REQUEST (R388). -/
  | cxlMemRequest (hpa : Nat) (op : HostMemOp)
  /-- GET_EVENT_RECORDS (R392). -/
  | getEventRecords (log : Nat)
  /-- CLEAR_EVENT_RECORDS (R392). -/
  | clearEventRecords (log : Nat) (handles : List Nat)
  /-- GET_EVENT_INTERRUPT_POLICY (R390). -/
  | getEventInterruptPolicy
  /-- SET_EVENT_INTERRUPT_POLICY (R390). -/
  | setEventInterruptPolicy (policy : List Nat)
  /-- GET_FW_INFO (R390). -/
  | getFwInfo
  /-- GET_TIMESTAMP (R449). -/
  | getTimestamp
  /-- SET_TIMESTAMP (R449). -/
  | setTimestamp (stamp : Nat)
  /-- GET_SUPPORTED_LOGS (R390). -/
  | getSupportedLogs
  /-- GET_LOG (R390). -/
  | getLog
  /-- IDENTIFY_MEMORY_DEVICE (R390). -/
  | identifyMemoryDevice
  /-- GET_HEALTH_INFO (R390). -/
  | getHealthInfo
  /-- GET_POISON_LIST (R390). -/
  | getPoisonList
  /-- GET_DC_CONFIGURATION (R386). -/
  | getDcConfiguration
  /-- GET_DC_EXTENT_LIST (R390). -/
  | getDcExtentList
  /-- ADD_DC_RESPONSE (R391). -/
  | addDcResponse (extents : List Extent)
  /-- RELEASE_DYNAMIC_CAPACITY (R133). -/
  | releaseDynamicCapacity (extents : List Extent)
  /-- RELEASE_DC_COMPLETE (R390). -/
  | releaseDcComplete
  /-- MAILBOX_UNSUPPORTED (R390). -/
  | mailboxUnsupported (opcode : Nat)
  /-- DC_OFFER_TIMEOUT (R391). -/
  | dcOfferTimeout
  /-- DOE_DISCOVERY (R393). -/
  | doeDiscovery (index : Nat)
  /-- CDAT_TABLE_ACCESS (R393). -/
  | cdatTableAccess (entry : Nat)
  -- `req` in the seven SPDM rows: the message as it came through the DOE mailbox
  /-- GET_VERSION (R349). -/
  | getVersion (req : Bytes)
  /-- GET_CAPABILITIES (R349). -/
  | getCapabilities (req : Bytes)
  /-- NEGOTIATE_ALGORITHMS (R349). -/
  | negotiateAlgorithms (req : Bytes)
  /-- GET_DIGESTS (R349). -/
  | getDigests (req : Bytes)
  /-- GET_CERTIFICATE (R349). -/
  | getCertificate (req : Bytes)
  /-- CHALLENGE (R349). -/
  | challenge (req : Bytes)
  /-- GET_MEASUREMENTS (R349). -/
  | getMeasurements (req : Bytes)
  /-- INTC_CLAIM (R399). -/
  | intcClaim (rd : Reader) (target : Nat)
  /-- INTC_COMPLETE (R400). -/
  | intcComplete (rd : Reader) (target : Nat) (v : Reg)
  /-- INTC_TEST (R397). -/
  | intcTest (rd : Reader) (v : Reg)
  /-- INTC_SRC_WRITE (R397). -/
  | intcSrcWrite (rd : Reader) (src : Nat) (v : Reg)
  /-- BELLOWS_CONTROL_TICK (R439). -/
  | bellowsControlTick (reads : SensorReads)
  /-- BELL_CLEAR_FAILSAFE (R443). -/
  | bellClearFailsafe (rd : Reader)
  /-- BELL_INJ_CTRL (R516). -/
  | bellInjCtrl (rd : Reader) (v : Reg)
  /-- BELL_INJ_EXPIRY (R516). -/
  | bellInjExpiry
  /-- LIFETIME_SECOND_TICK (R448). -/
  | lifetimeSecondTick
  /-- CHECKPOINT_WRITE_DONE (R452). -/
  | checkpointWriteDone (ok : Bool)
  /-- PMBUS_POLL (R527). -/
  | pmbusPoll (regs : List Regulator)
  /-- PMB_ALERT (R533). -/
  | pmbAlert (statusWord : Nat)
  /-- ERR_SEL (R510). -/
  | errSel (rd : Reader) (v : Reg)
  /-- ERR_ENTRY_ADVANCE (R510). -/
  | errEntryAdvance (rd : Reader)
  /-- ERR_INJ_CTRL (R513). -/
  | errInjCtrl (rd : Reader) (v : Reg)
  /-- TELEM_CAPTURE (R517). -/
  | telemCapture (rd : Reader)
  /-- TELEM_CAPTURE_DONE (R517). -/
  | telemCaptureDone
  /-- COUNTER_READ_CLEAR (R12). -/
  | counterReadClear (rd : Reader) (off : Nat)
  /-- LOW_WORD_LATCH_READ (R503). -/
  | lowWordLatchRead (rd : Reader) (off : Nat)
  /-- HIGH_WORD_WRITE (R504). -/
  | highWordWrite (rd : Reader) (off : Nat) (v : Reg)
  /-- REGISTER_ALIAS_WRITE (R501). -/
  | registerAliasWrite (rd : Reader) (win : AliasWindow) (off : Nat) (v : Reg)
  /-- REGISTER_WRITE (R12). -/
  | registerWrite (rd : Reader) (off : Nat) (v : Reg)
  /-- TRST_N_ASSERT (R533). -/
  | trstNAssert
  /-- JTAG_CHALLENGE_READ (R357). -/
  | jtagChallengeRead
  /-- CXL_LINK_TRAINED (R382). -/
  | cxlLinkTrained (rate width : Nat) (flit256 : Bool)
  /-- CXL_LINK_DOWN (R389). -/
  | cxlLinkDown
  /-- COOLANT_PULSE (R437). -/
  | coolantPulse (tach : Bool)
  /-- VDD_AON_LOSS (R448). -/
  | vddAonLoss
  /-- CLOCK_PRESENCE_CHANGE (R535). -/
  | clockPresenceChange (domain : Nat) (running : Bool)
  /-- CONTROLLER_FAULT (R96). -/
  | controllerFault (g : Nat)
  /-- INTERNAL_RESET_RELEASE (R406). -/
  | internalResetRelease
  /-- REPORT_SIGNING_DONE (R348). -/
  | reportSigningDone (ctx tag : Nat) (hostOk : Bool)
  /-- FW_UPDATE_WRITE_DONE (R341). -/
  | fwUpdateWriteDone (ctx tag : Nat)
  deriving DecidableEq, Repr

end Sys2Proof
end

