-- ==== Sys2Proof/Decode.lean ====
section
/-! DEFINITION. Table words. spec/opcode_table.json gives no row any bits: a command reaches the block as a command, not as
a word, so no word spells one. -/

set_option Elab.async false

namespace Sys2Proof

/-- The command that a word spells by the table's bits: none, as the table gives bits to no row. -/
def decodeTableWord (_nbits _w : Nat) : Option Instr := none

end Sys2Proof
end

