-- ==== Sys2Proof/Config.lean ====
section
/-! DEFINITION. What a unit or an implementation fixes and the values the manual leaves open. Every constant
here is opaque: no proof and no evaluation can see a value, so a claim holds whatever it is. Each is named in the
assumption log. -/

set_option Elab.async false

namespace Sys2Proof.Config

/-- The serial number as fused (R336); `serial` below is never 0. Log 20. -/
opaque serialRaw : BitVec 64
/-- The serial number, never 0 on a shipped unit (Table 11.1). -/
def serial : BitVec 64 := if serialRaw = 0 then 1 else serialRaw
/-- Spare rows in use in a channel, as the fuse map gives them (R538): 0 to 1,024. Log 20. -/
opaque rowSparesRaw : Nat → Nat
/-- Row spares of a channel, within the range of Table 3.16. -/
def rowSpares (g : Nat) : Nat := rowSparesRaw g % 1025
/-- Physical lanes of a port listed as bad in the fuse map (R265). Log 20. -/
opaque badLanes : Nat → List Nat
/-- SM3 digest of the three fuse maps (R411). Log 20. -/
opaque fuseDigest : Bytes
/-- Kindling as it lies in mask ROM, fixed by the stepping (R339, R508). Log 20. -/
opaque kindlingRom : Bytes
/-- Fused digests of the vendor firmware key and of the debug authority (R339, R357). Log 20. -/
opaque vendorKeyDigest : Bytes
opaque debugAuthority : Bytes
/-- The certificates of the vendor CA and of the unit's identity key, the latter in flash (R336). Log 21. -/
opaque vendorCert : Bytes
opaque identityCert : Bytes
/-- The firmware images that the unit has in the two areas of flash at test (Table 18.7). Log 152. -/
opaque flashImage : (area : Nat) → Bytes

/-! What an image declares, in a header and a body that the manual does not lay out (R339, R372, R493). Log 152. -/

/-- The public key that signs it, its security version, its state-format number, its control firmware and its Ember decode tables. -/
opaque imageKey : Bytes → Bytes
opaque imageSvnRaw : Bytes → Nat
opaque imageFormatRaw : Bytes → Nat
opaque imageFirmware : Bytes → Bytes
opaque imageTables : Bytes → Bytes
/-- The security version, of 16 bits (Table 11.13). -/
def imageSvn (b : Bytes) : Nat := imageSvnRaw b % 2 ^ 16
/-- The state format, of 16 bits (Table 17.4). -/
def imageFormat (b : Bytes) : Nat := imageFormatRaw b % 2 ^ 16

/-! Cryptographic functions, which the manual names by their standards only (chapter 11). Log 21. -/

/-- SM3. -/
opaque sm3 : Bytes → Bytes
/-- The parameters a, b, xG and yG of the SM2 P-256 curve, 32 bytes each, as the Z value takes them (R338). -/
opaque sm2Curve : Bytes
/-- Public half, x then y, of a key of the security engine. -/
opaque signPublic : SignKey → Bytes
/-- The numbers r and s of an SM2 signature by a key over the hash `e`; `draw`: the signer's random value. -/
opaque sm2Raw : SignKey → (draw : Nat) → (e : Bytes) → Nat × Nat
/-- SM2 verification of r and s over the hash `e` under a public key. -/
opaque sm2Check : (key e : Bytes) → (r s : Nat) → Bool
/-- The signed part of the X.509 attestation certificate over a public key, which names serial number and boot count, and the certificate
made of it and a signature (R337). -/
opaque certBody : (key : Bytes) → (serial boot : Nat) → Bytes
opaque certificate : (body sig : Bytes) → Bytes
/-- SM2 decryption with the private half of a context's ephemeral key pair: the plaintext, or none where it fails. -/
opaque sm2Open : (ephemeral : Nat) → Bytes → Option Bytes
/-- Public half of the ephemeral key pair of draw `n`. -/
opaque ephemeralPublic : Nat → Bytes
/-- SM4-GCM: the other text and the tag for key, IV, associated data and text. -/
opaque sm4Gcm : (key iv aad text : Bytes) → Bytes × Bytes

/-! Values the manual leaves open. -/

/-- The 64-bit counter of the IV of an arriving packet, by source and transaction: the sender's, in no field of the packet
(R298). Log 50. -/
opaque peerCounter : (src txn : Nat) → Nat

/-- A 16-bit draw of stochastic rounding (R242). Log 30. -/
opaque stochastic : (draw : Nat) → Nat
/-- A 32-byte random value (JTAG challenge, SPDM nonce: R357, R349). Log 31. -/
opaque random32 : (draw : Nat) → Bytes
/-- The key by which the k-th group sum is ordered in an accumulation (R244). Log 32. -/
opaque accKey : (draw k : Nat) → Nat
/-- The vector unit's exp before the bound of R239 is applied. Log 33. -/
opaque expDraw : Reg → Reg
/-- Which outcome a codeword with 2 symbols in error or more has, where R77 leaves it open: by its address symbols (R76), the
symbols in error and the address symbol in error. Log 34. -/
opaque multiErrorClass : (address : Nat) → List (Nat × Byte) → Byte → Nat
/-- The line of the service area that holds copy 0 or 1 of a bitmap line, which R82 does not place. Log 133. -/
opaque serviceLine : (g idx copy : Nat) → Nat
/-- The fixed 8-byte cinder pattern (R78), the same in every unit. Log 134. -/
opaque cinderPatternRaw : Nat
/-- The cinder pattern: 64 bits, never zero, since a zero pattern is the syndrome of no error. -/
def cinderPattern : Nat := if cinderPatternRaw % 2 ^ 64 = 0 then 1 else cinderPatternRaw % 2 ^ 64
/-- The ERRLOG offset at which the cinder pattern is read, which Table 17.9 does not give: in the block's unlisted part. Log 134. -/
opaque cinderOffsetRaw : Nat
/-- That offset: a multiple of 8 in 0x118 to 0x910. -/
def cinderOffset : Nat := 0x118 + 8 * (cinderOffsetRaw % 256)
/-- A state the manual does not fix after a line could not be read, and other free bytes. Log 35. -/
opaque freeByte : (draw : Nat) → Byte
/-- The failure code of a self-test that fails (R490). Log 36. -/
opaque failCode : (draw : Nat) → Nat
/-- The window over which flow pulses are counted, which R454 does not give, and the flow shown while BELL_FLOW_K is 0. Log 61. -/
opaque flowWindowRaw : Nat
opaque flowWithoutK : Nat
/-- The window in ns: within a minute, never 0. -/
def flowWindow : Nat := flowWindowRaw % 60000000000 + 1
/-- An erased key reads back as zero (R355). Log 93. -/
opaque readBackZero : (draw : Nat) → Bool
/-- CTExponent of the SPDM capabilities, and the measurement blocks that belong to the trusted computing base, which the manual leaves
open (R349). Log 153. -/
opaque spdmCtRaw : Nat
opaque tcbBlock : Nat → Bool
/-- Contents of the CXL replies that the manual names and does not lay out (R390, R393, R349). Log 37. -/
opaque cxlPayload : (opcode draw : Nat) → Bytes

end Sys2Proof.Config
end

