-- ==== Sys2Proof/Machine/State.lean ====
section
/-! DEFINITION. The state of the DZP-1536 as plain data. Each field names the rule that gives it; the value after `:=`
is its value at reset. Sparse tables (`Tab`) list only what differs from the default of their records. -/

set_option Elab.async false

namespace Sys2Proof.Machine

/-! ## Time (R303-R307, R429) -/

/-- The clocks. `nt`, `frac`: network time; `steer`: what each tick adds to `frac` besides its 2 ns (R303). `elapsed`: nanoseconds since power-on, which no step of network
time moves. `timer`: the same without supply episodes, in which the timers of Table 14.9 stop. -/
structure Clock where
  nt : Nat := 0
  frac : Nat := 0
  steer : Int := 0
  elapsed : Nat := 0
  timer : Nat := 0
  deriving DecidableEq, Repr

/-- Network-time state (Tables 10.2, 10.14). `state`: 0 free, 1 locked, 2 holdover. `stepped`: the one step of this stay in `free`
has been made (R306). -/
structure NetTime where
  state : Nat := 0
  parent : Nat := 0
  grandmaster : Bool := false
  distance : Nat := 15
  theta : Int := 0
  everLocked : Bool := false
  goodExchanges : Nat := 0
  lastParentCell : Nat := 0
  backupLocked : Bool := false
  lastBackupCell : Nat := 0
  holdoverSince : Nat := 0
  stepped : Bool := false
  deriving DecidableEq, Repr

/-! ## Command transport (chapter 2) -/

/-- How far an accepted command has come (Table 2.9): waiting at its stage, taken by the control complex, running
after its first step, or ended with its final reply on the way to the stage. -/
inductive CmdPhase where
  | waiting | taken | running | ended
  deriving DecidableEq, Repr

/-- An accepted command in flight (R37). `bytes`: the 64 bytes of the packet (Table 2.1). `acceptedAt`: network time. `awaits`: the accesses
that a PT_SYNC or PT_BIND waits for (R144 step 4), once it has invalidated: transactions of requests to other devices, and reads waiting
at a home of this one, each by its Ember and its deadline. -/
structure Cmd where
  ctx : Nat := 0
  tag : Nat := 0
  via : Sender := .bar2
  bytes : Bytes := []
  acceptedAt : Nat := 0
  order : Nat := 0
  phase : CmdPhase := .waiting
  deferred : Bool := false
  awaits : Option (List Nat × List (Nat × Nat)) := none
  deriving DecidableEq, Repr

/-- A final reply as the duplicate window keeps it: status and bytes 8-31 (R48, R49). -/
structure Final where
  status : Nat := 0
  results : Bytes := []
  deriving DecidableEq, Repr

/-- An entry of a context's duplicate window (R48). -/
structure WinEntry where
  tag : Nat := 0
  final : Option Final := none
  deriving DecidableEq, Repr

/-- A command-input stage (Table 2.10, R368, R57). -/
structure Stage where
  shapeDiscards : Nat := 0
  senderDiscards : Nat := 0
  checkFailures : Nat := 0
  busyReplies : Nat := 0
  undelivered : Nat := 0
  accepted : Nat := 0
  claimSeen : Nat := 0
  alive : Bool := true
  deriving DecidableEq, Repr

/-- What a control unit sends a stage: a first or final reply (R55, R363). -/
structure CuOut where
  unit : Nat := 0
  claim : Nat := 0
  ctx : Nat := 0
  tag : Nat := 0
  status : Nat := 0
  results : Bytes := []
  isFinal : Bool := true
  released : Bool := true
  deriving DecidableEq, Repr

/-- A reply on its way (R42, R46): the transactions of its writes that are not completed; `fill`: the `WRITE_FILL` of a sync-word reply to
another endpoint, which follows the completion of its first write. -/
structure OpenReply where
  ctx : Nat := 0
  stage : Nat := 0
  txns : List Nat := []
  fill : Option Packet := none
  deriving DecidableEq, Repr

/-! ## Contexts (chapters 0, 11, 16) -/

/-- A measurement log entry (Table 11.4). -/
structure Meas where
  kind : Nat := 0
  object : Nat := 0
  aux : Nat := 0
  digest : Bytes := []
  deriving DecidableEq, Repr

/-- A context (R8, R342, R345, Table 16.2, Table 16.3). The last fields are the tallies of telemetry group 5. -/
structure Ctx where
  conf : Bool := false
  isolated : Bool := false
  attested : Bool := false
  destroying : Bool := false
  senders : List (Nat × Nat) := []
  undelivered : Nat := 0
  plansRes : Nat := 0
  descRes : Nat := 0
  grantsRes : Nat := 0
  regionsRes : Nat := 0
  keysRes : Nat := 0
  createdSeq : Nat := 0
  ephemeral : Nat := 0
  measure : Bytes := []
  log : List Meas := []
  truncated : Bool := false
  keyBound : Bool := false
  ptRoot : Nat := 0
  ptRegion : Nat := 0
  descDone : Nat := 0
  linesStreamed : Nat := 0
  faultCycles : Nat := 0
  runsInError : Nat := 0
  accepted : Nat := 0
  cellsSent : Nat := 0
  cellsReceived : Nat := 0
  deriving DecidableEq, Repr

/-- Progress of a destroy (R52, R124, R462). -/
structure Destroy where
  tag : Nat := 0
  revoked : Nat := 0
  cindered : Nat := 0
  cords : List Nat := []
  deriving DecidableEq, Repr

/-! ## Cords, regions, grants (chapter 4) -/

/-- A CORD_FREE whose cords are being zeroised (R105, R468). -/
structure Freeing where
  ctx : Nat := 0
  tag : Nat := 0
  cords : List Nat := []
  deriving DecidableEq, Repr

/-- Cord states (Table 4.1). -/
inductive CordState where
  | free | allocated | bound | migrating | zeroising | retired
  deriving DecidableEq, Repr

/-- A cord and its record at the home (R103, R115, R175). `copied`: blocks already copied while migrating (R129). -/
structure Cord where
  state : CordState := .free
  ctx : Nat := 0
  region : Nat := 0
  epoch : Nat := 0
  removed : Option Nat := none
  dest : Option Nat := none
  extraDest : List Nat := []
  copied : Nat := 0
  linesCopied : Nat := 0
  linesCindered : Nat := 0
  swept : Bool := false
  zeroPending : Bool := false
  cutover : Bool := false
  deriving DecidableEq, Repr

/-- Region states (Table 4.8). -/
inductive RegionState where
  | active | revoking | reclaiming
  deriving DecidableEq, Repr

/-- A revocation or lapse waiting for or in its step (R120-R124): the holder, the commands that wait for its end,
whether it is a lapse, a destroy, or a host release. -/
structure Step where
  holder : Nat := 0
  waiters : List (Nat × Nat) := []
  lapse : Bool := false
  destroyOf : Option Nat := none
  hostRelease : Bool := false
  started : Bool := false
  startedAt : Nat := 0
  recalled : Nat := 0
  cindered : Nat := 0
  deriving DecidableEq, Repr

/-- A region (R108, Table 4.4, Table 4.8). `granules`: for each granule the cords that hold it, first the one that
homes it (R107, R179). -/
structure Region where
  definer : Nat := 0
  isolated : Bool := false
  conf : Bool := false
  sync : Bool := false
  base : Nat := 0
  granules : List (List Nat) := []
  epoch : Nat := 0
  state : RegionState := .active
  lastStep : Option Nat := none
  steps : List Step := []
  tripling : Option (Nat × Nat) := none
  triplesLeft : Nat := 0
  triplesDone : Nat := 0
  deriving DecidableEq, Repr

/-- A grant, or the tombstone of one (R110, R111, R116, R117). `expiry`: network time. -/
structure Grant where
  holder : Nat := 0
  region : Nat := 0
  rights : Nat := 0
  lease : Nat := 100
  expiry : Nat := 0
  issuers : List Nat := []
  tombstone : Bool := false
  leaving : Bool := false
  lapsed : Bool := false
  dcRegion : Option Nat := none
  offered : Bool := false
  accepted : Bool := true
  offeredAt : Nat := 0
  forced : Bool := false
  deriving DecidableEq, Repr

/-- An entry of a stamping point's grant cache (R113, R114, R116). A cache lists its entries from the least recently used. -/
structure CacheEnt where
  holder : Nat := 0
  region : Nat := 0
  rights : Nat := 0
  epoch : Nat := 0
  tombstone : Bool := false
  inflight : Nat := 0
  deriving DecidableEq, Repr

/-- An access-right request for each operation of Tables 4.5 and 6.2. -/
inductive Right where
  | read | write | sync | none
  deriving DecidableEq, Repr

/-- A request on its way to a home or an answer on its way there. A sweep or an eviction joins a line's queue as a `recall`
or `inv` of no source. `src`: the endpoint (0x7FFF for the host; none: inside
the device), `holder`: the context or 4096, `point`: the stamping point, `epoch`: the stamp (R114). `input`: the input of its home's router
that it came by, `arrived`: when it came to its home (R168). -/
structure Req where
  op : MsgOp := .rdCur
  src : Option Nat := none
  holder : Nat := 0
  point : Nat := 0
  txn : Nat := 0
  addr : Nat := 0
  dpa : Nat := 0
  region : Nat := 0
  epoch : Nat := 0
  aux : Nat := 0
  data : Bytes := []
  resend : Bool := false
  entered : Nat := 0
  lastPending : Nat := 0
  port : Option Nat := none
  input : Nat := 0
  arrived : Nat := 0
  deriving DecidableEq, Repr

/-- What a flit carries across the mesh: a message for the home of its line, or a packet in transit for the port of its last router. -/
inductive FlitLoad where
  | request (m : Req)
  | packet (port : Nat) (k : Packet)
  deriving DecidableEq, Repr

/-- A flit in a router's buffer (R293, R310, R315): the router and the input it stands at, its virtual channel and order of travel (`yx`: Y
then X), its last router, the context it travels for. -/
structure Flit where
  router : Nat := 0
  input : Nat := 0
  vc : Nat := 0
  yx : Bool := false
  dst : Nat := 0
  ctx : Nat := 0
  load : FlitLoad := .request {}
  deriving DecidableEq, Repr

/-- A completion on its way back through the stamping point (R114): the packet that answers the requester. -/
structure Completion where
  req : Req := {}
  op : MsgOp := .cmp
  reason : Nat := 0
  aux : Nat := 0
  data : Bytes := []
  deriving DecidableEq, Repr

/-! ## Directory and home (chapter 6) -/

/-- Line states as the home records them (Table 6.1). -/
inductive LineState where
  | S | E | M
  deriving DecidableEq, Repr

/-- A directory entry (Table 6.1). `sharers`: the owner, or the sharers in the order added (modes 0 and 1); `groups`: the
coarse vector of mode 2. -/
structure DirEnt where
  state : LineState := .S
  mode : Nat := 0
  sharers : List Nat := []
  groups : List Nat := []
  holdUntil : Nat := 0
  age : Nat := 0
  way : Nat := 0
  deriving DecidableEq, Repr

/-- The probe kinds (Table 6.3). -/
inductive ProbeKind where
  | recall | downgrade | inv
  deriving DecidableEq, Repr

/-- An outstanding probe of a line (R171, R287). `discard`: an injected fault discards its answer (Table 17.13). -/
structure Probe where
  kind : ProbeKind := .recall
  target : Nat := 0
  txn : Nat := 0
  sentAt : Nat := 0
  resends : Nat := 0
  answered : Bool := false
  discard : Bool := false
  deriving DecidableEq, Repr

/-- A line lock: the line's queue in arrival order, its open probes with their deadline, the data or the error a waiting
channel access has brought, whether such an access is out, the way that the head has been given, and whether its probes have been
sent (R169). -/
structure Lock where
  queue : List Req := []
  probes : List Probe := []
  deadline : Nat := 0
  data : Option Bytes := none
  failed : Option Nat := none
  reading : Bool := false
  way : Option Nat := none
  probed : Bool := false
  deriving DecidableEq, Repr

/-- A slice's parameters, counters and pools in use (Tables 6.9-6.13, R160, R169). -/
structure Slice where
  minHold : Nat := 16
  recallTo : Nat := 64
  syncWait : Nat := 100
  wayShared : Nat := 65535
  recallTimeouts : Nat := 0
  invTimeouts : Nat := 0
  lateResp : Nat := 0
  evictions : Nat := 0
  wayWaits : Nat := 0
  coarse : Nat := 0
  syncFlags : Nat := 0
  syncTimeouts : Nat := 0
  lateLogged : Option Nat := none
  deriving DecidableEq, Repr

/-- A partition of a slice for an isolated-class definer (R176). `shared`: the ways of its mask that were the shared class's. -/
structure Partition where
  slice : Nat := 0
  ctx : Nat := 0
  mask : Nat := 0
  shared : Nat := 0
  deriving DecidableEq, Repr

/-- A sync word's shadow bits (R181). -/
structure Shadow where
  full : Bool := false
  flag : Bool := false
  badParity : Bool := false
  deriving DecidableEq, Repr

/-- A read waiting on an empty sync word (R185). -/
structure SyncWait where
  req : Req := {}
  deadline : Nat := 0
  deriving DecidableEq, Repr

/-- An arm entry at the home of a sync word (R209, R213). `word`: the word's DPA; `filledAt`: network time of the fill whose trigger is held
(R211). -/
structure Arm where
  plan : Nat := 0
  ctx : Nat := 0
  region : Nat := 0
  word : Nat := 0
  rearm : Bool := false
  held : Bool := false
  filledAt : Nat := 0
  deriving DecidableEq, Repr

/-- An entry of a slice's resend table (R290). -/
structure ResendEnt where
  slice : Nat := 0
  key : Nat := 0x1000
  src : Nat := 0
  txn : Nat := 0
  done : Option Completion := none
  storedAt : Nat := 0
  deriving DecidableEq, Repr

/-! ## Channels (chapter 3) -/

/-- Channel states (Table 3.10). -/
inductive ChanState where
  | inService | migrating | retired | fenced
  deriving DecidableEq, Repr

/-- How a stored codeword departs from the correct one (R75-R78): the cinder pattern, symbols in error, address symbol 0. -/
structure CodeState where
  cinder : Bool := false
  syms : List (Nat × Byte) := []
  addrSym : Byte := 0
  deriving DecidableEq, Repr

/-- A merge-buffer entry (R79). -/
structure MergeEnt where
  line : Nat := 0
  data : Bytes := []
  mask : List Bool := []
  ctxs : List Nat := []
  entered : Nat := 0
  badParity : Bool := false
  deriving DecidableEq, Repr

/-- Where the outcome of a channel access goes: the head of a line's queue, an Ember, a scrub, the move of a cord, or nowhere. -/
inductive MemDest where
  | home (line : Nat)
  | ember (tile : Nat)
  | scrub (ctx tag : Nat)
  | copy (cord : Nat)
  | nowhere
  deriving DecidableEq, Repr

/-- A request waiting in a port of a channel (R64, R65): the line, its age's start, its stoke level, its owner; `cinder`: a write of a
cinder codeword. -/
structure MemReq where
  port : Nat := 0
  line : Nat := 0
  entered : Nat := 0
  level : Nat := 0
  owner : Nat := 0x1000
  ctx : Nat := 0
  write : Option Bytes := none
  mask : List Bool := []
  cinder : Bool := false
  dest : MemDest := .nowhere
  deriving DecidableEq, Repr

/-- A line of the valid-bitmap cache (R82). -/
structure BmLine where
  idx : Nat := 0
  dirty : Bool := false
  deriving DecidableEq, Repr

/-- A channel controller (Tables 3.4, 3.5, 3.10-3.16; R59-R101). `changing`: when the frequency change that runs ends (R73);
`margin`: the point that a SELFTEST margin test of the channel has come to, 1 or 2, or 3 when it has seen both (R490);
`granted`: accesses of Embers, scrubs and moves that the scheduler has issued and that their own rows perform; `rtTemp`: base-die
temperature at the last retraining, in 1/16 degree (R70); `zqDueAt`, `rtDueAt`: when a calibration became due. -/
structure Chan where
  state : ChanState := .inService
  trained : Bool := false
  banked : Bool := false
  activePoint : Nat := 0
  shadowPoint : Nat := 0
  changing : Option Nat := none
  margin : Nat := 0
  latTgt : List Nat := [30, 128, 256, 2048]
  refDebt : Int := 0
  debtNext : Nat := 0
  emergLogged : Bool := false
  ceCount : Nat := 0
  ueCount : Nat := 0
  cinderReads : Nat := 0
  addrErrors : Nat := 0
  stokeMisses : Nat := 0
  refEmerg : Nat := 0
  mergeLoss : Nat := 0
  injArm : Bool := false
  injKind : Nat := 0
  injMatch : Bool := false
  injSymA : Nat := 0
  injSymB : Nat := 0
  injXor : Nat := 0
  injAddr : Nat := 0
  merge : List MergeEnt := []
  rmw : List MergeEnt := []
  bmCache : List BmLine := []
  poisoned : List Nat := []
  waiting : List MemReq := []
  reads : List MemReq := []
  granted : List MemReq := []
  partials : List MemReq := []
  filling : List MemReq := []
  openRows : List (Nat × Nat) := []
  zqLast : Nat := 0
  rtLast : Nat := 0
  rtTemp : Int := 0
  zqDue : Bool := false
  rtDue : Bool := false
  zqDueAt : Nat := 0
  rtDueAt : Nat := 0
  calZq : Bool := false
  calRt : Bool := false
  calCmds : List (Nat × Nat) := []
  guard : Bool := false
  ceSinceReset : Nat := 0
  ceLastHour : Nat := 0
  ceThisHour : Nat := 0
  ueSinceReset : Nat := 0
  addrSinceReset : Nat := 0
  cinderSinceReset : Nat := 0
  mergeSinceReset : Nat := 0
  retiring : Option (Nat × Nat) := none
  retireCords : List Nat := []
  retireMoved : Nat := 0
  retireCinder : Nat := 0
  deriving DecidableEq, Repr

/-- A SCRUB_RANGE that runs (R92): the next pool address, what has been counted (Table 3.9), and the time before which the
channel's 25 % share keeps it waiting. -/
structure Scrub where
  ctx : Nat := 0
  tag : Nat := 0
  next : Nat := 0
  scanned : Nat := 0
  corrected : Nat := 0
  cinder : Nat := 0
  first : Option Nat := none
  after : Nat := 0
  deriving DecidableEq, Repr

/-! ## Translation (chapter 5) -/

/-- A translation-buffer entry: one run of pages (R146). A buffer lists its entries from the least recently used. -/
structure TbEnt where
  ctx : Nat := 0
  pageLog2 : Nat := 12
  base : Nat := 0
  pages : Nat := 1
  target : Nat := 0
  endpoint : Nat := 0
  remote : Bool := false
  read : Bool := false
  write : Bool := false
  noPrefetch : Bool := false
  deriving DecidableEq, Repr

/-- A walk-cache entry: the table page below a non-leaf entry (R146). -/
structure WcEnt where
  ctx : Nat := 0
  level : Nat := 0
  base : Nat := 0
  next : Nat := 0
  deriving DecidableEq, Repr

/-- A translation fault raised by an Ember (Table 5.4). -/
structure XFault where
  tile : Nat := 0
  ctx : Nat := 0
  level : Nat := 0
  span : Nat := 0
  cause : Nat := 0
  write : Bool := false
  reason : Nat := 0
  entryAddr : Nat := 0
  deriving DecidableEq, Repr

/-- An open fault entry (Table 5.5). `mask`: the tiles of the Hearth that wait on it; `writers`: those of them whose access is a write. -/
structure FqEnt where
  fault : XFault := {}
  mask : List Nat := []
  writers : List Nat := []
  seq : Nat := 0
  marked : Bool := false
  deriving DecidableEq, Repr

/-- A Hearth's fault queue and translation counters (R151-R157). -/
structure FaultQueue where
  slots : Tab (Option FqEnt) := []
  unread : List Nat := []
  nextSeq : Nat := 1
  raised : List XFault := []
  stall : List XFault := []
  rewalk : Bool := false
  full : Bool := false
  overflow : Nat := 0
  tbMisses : Nat := 0
  walks : Nat := 0
  pfWalks : Nat := 0
  deriving DecidableEq, Repr

/-! ## Embers and plans (chapter 7) -/

/-- Ember states (Table 7.14); `paused` is what a register read shows of an Ember that a supply episode holds at a boundary. -/
inductive EmbState where
  | idle | running | faultWait | switching | waiting | fenced | testing
  deriving DecidableEq, Repr

/-- The error an Ember ends with (Table 7.10, Table 7.11). -/
structure EmbErr where
  cls : Nat := 0
  reason : Nat := 0
  cva : Nat := 0xFFFFFFFFFFFFFFFF
  deriving DecidableEq, Repr

/-- A run as one Ember keeps it: the run record of R196 with what started it. The last fields are the progress of the present
descriptor: lines read, writes issued, blocks decoded, rows converted, the lines read so far by their place among its reads, the remote
request awaited (its place among the reads and its transaction). `fresh`: the run has issued no request yet (R215). `ahead`: the rest of
each of the next data tiles of its stream whose translations are still to be checked, from an address to below another, one prefetch walk
for each (R149). -/
structure Run where
  plan : Nat := 0
  ctx : Nat := 0
  number : Nat := 0
  rank : Nat := 0
  ranks : Nat := 1
  pc : Nat := 1
  loops : Nat := 0
  dirty : Bool := false
  triggered : Bool := false
  startedAt : Nat := 0
  restarts : Nat := 0
  waitSince : Option Nat := none
  faultSince : Option Nat := none
  cancel : Bool := false
  err : Option EmbErr := none
  fault : Option XFault := none
  walking : Option (Nat × Bool) := none
  fresh : Bool := true
  progR : Nat := 0
  progW : Nat := 0
  progB : Nat := 0
  progE : Nat := 0
  ahead : List (Nat × Nat) := []
  got : List (Nat × Bytes) := []
  remote : Option (Nat × Nat) := none
  deriving DecidableEq, Repr

/-- An Ember: its registers (Tables 7.13-7.18, 8.22), the run that holds it and those queued (R217), plan and number of the run that held it
last (R220). `store`: the stream buffer and work area of the local store, by lines of 64 bytes (Table 7.2); `descs`: the descriptor buffer,
from the run's plan position on (R193). `margin`: its open test is a margin test (R490). -/
structure Ember where
  state : EmbState := .idle
  run : Option Run := none
  queue : List Run := []
  since : Nat := 0
  guard : Bool := false
  retired : Bool := false
  poweredOff : Bool := true
  dirtyCtx : List Nat := []
  preloads : List Nat := []
  store : Tab Bytes := []
  descs : List Bytes := []
  lastRun : Option (Nat × Nat) := none
  quantum : Nat := 100
  errClass : Nat := 0
  errReason : Nat := 0
  errIndex : Nat := 0
  errLost : Nat := 0
  errCva : Nat := 0
  descDone : Nat := 0
  lines : Nat := 0
  faultCycles : Nat := 0
  switches : Nat := 0
  restarts : Nat := 0
  trigLate : Nat := 0
  lsParity : Nat := 0
  overruns : Nat := 0
  sat : Nat := 0
  nonfinite : Nat := 0
  pbsBlocks : Nat := 0
  injArm : Bool := false
  injKind : Nat := 0
  injOffset : Nat := 0
  tb : List TbEnt := []
  wc : List WcEnt := []
  testing : Option (Nat × Nat) := none
  margin : Bool := false
  deriving DecidableEq, Repr

/-- Plan states (Table 7.7). -/
inductive PlanState where
  | loaded | armed | running | armedRunning | cancelling
  deriving DecidableEq, Repr

/-- The run of a plan that is active, as its source sees it (R214): end notices, errors, the first error. -/
structure ActiveRun where
  number : Nat := 0
  ended : Nat := 0
  errors : Nat := 0
  firstClass : Nat := 0
  firstReason : Nat := 0
  firstIndex : Nat := 0
  cmd : Option (Nat × Nat) := none
  deriving DecidableEq, Repr

/-- A plan in the plan store (R197-R199, R206, R207): header and descriptors as loaded. -/
structure Plan where
  ctx : Nat := 0
  bytes : List Bytes := []
  tiles : List Nat := []
  doneWord : Nat := 0
  errorArea : Nat := 0
  state : PlanState := .loaded
  nextRun : Nat := 1
  active : Option ActiveRun := none
  overruns : Nat := 0
  overrunLogged : Option Nat := none
  cancelCmd : Option (Nat × Nat) := none
  unload : Bool := false
  digest : Bytes := []
  deriving DecidableEq, Repr

/-- A start on its way to one Ember (R208, R211, R212). -/
structure Start where
  plan : Nat := 0
  number : Nat := 0
  tile : Nat := 0
  time : Nat := 0
  triggered : Bool := false
  deriving DecidableEq, Repr

/-- An end notice on its way to the source of the start (R214). -/
structure EndMsg where
  plan : Nat := 0
  number : Nat := 0
  tile : Nat := 0
  cls : Nat := 0
  reason : Nat := 0
  index : Nat := 0
  deriving DecidableEq, Repr

/-! ## Fabric ports (chapter 9) -/

/-- Link states (Table 9.2). -/
inductive LinkState where
  | down | detect | train | check | active | hold | retrain
  deriving DecidableEq, Repr

/-- A cell in the replay buffer (R277, R280). -/
structure SentCell where
  cell : Cell := {}
  sentAt : Nat := 0
  ackResentAt : Option Nat := none
  deriving DecidableEq, Repr

/-- A fabric port (Tables 9.2, 9.14-9.18; R263-R283). `resetting`: the action of FAB_CTRL.reset runs (Table 9.16); `rxLanes`: the lanes this end
has received in training (R265); `owed`: credits to give back, by virtual channel (R275); `stallSince`, `shpSince`: since when each virtual
channel lacks credits and a shaper holds a cell (R301, R323). -/
structure Port where
  state : LinkState := .down
  width : Nat := 0
  speed : Nat := 0
  laneMap : List Nat := []
  enteredAt : Nat := 0
  retryAt : Nat := 0
  disable : Bool := false
  maxWidth : Nat := 3
  maxSpeed : Nat := 1
  mgmt : Bool := false
  dropLane : Nat := 7
  retrainThresh : Nat := 0x8000
  retired : Bool := false
  ertFails : Nat := 0
  narrow : Nat := 3
  resetting : Bool := false
  rxLanes : List Nat := []
  partner : TrainInfo := {}
  partnerSeen : Bool := false
  holdCause : Nat := 0
  txCells : Nat := 0
  rxCells : Nat := 0
  crcErrors : Nat := 0
  replays : Nat := 0
  dupDiscards : Nat := 0
  linkDowns : Nat := 0
  e2eDiscards : Nat := 0
  tagFailures : Nat := 0
  routeDiscards : Nat := 0
  stallReq : Nat := 0
  stallRsp : Nat := 0
  stallByp : Nat := 0
  stallSince : List (Option Nat) := [none, none, none]
  shpSince : Option Nat := none
  fecCorr : Nat := 0
  fecUncorr : Nat := 0
  injArm : Bool := false
  injKind : Nat := 0
  injLane : Nat := 0
  injSymbols : Nat := 1
  txQ : List Packet := []
  txSeq : Nat := 0
  replay : List SentCell := []
  credits : List Nat := [0, 0, 0]
  owed : List Nat := [0, 0, 0]
  rxNext : Nat := 0
  reorder : List Cell := []
  ackDue : Bool := false
  rxQ : List Packet := []
  deliverQ : List Packet := []
  lastCellAt : Nat := 0
  lastSentAt : Nat := 0
  guard : Bool := false
  ivCounter : Nat := 0
  timeSeq : Nat := 0
  timeEcho : Nat := 0
  timeRx : Nat := 0
  timeRxFrac : Nat := 0
  timeT1 : Nat := 0
  timeT1Frac : Nat := 0
  timeT2 : Nat := 0
  timeT2Frac : Nat := 0
  timeT3 : Nat := 0
  timeT3Frac : Nat := 0
  timeSentSeq : Nat := 0
  timeSentAt : Option Nat := none
  timeTx : Nat := 0
  timeTxFrac : Nat := 0
  linkGuard : Nat := 1500
  asym : Int := 0
  shpWaits : Nat := 0
  polGreen : Nat := 0
  polYellow : Nat := 0
  polRed : Nat := 0
  cellsSinceReset : Nat := 0
  rxSinceReset : Nat := 0
  crcSinceReset : Nat := 0
  replaysSinceReset : Nat := 0
  downsSinceReset : Nat := 0
  fecCorrSinceReset : Nat := 0
  fecUncorrSinceReset : Nat := 0
  deriving DecidableEq, Repr

/-- A request this device has open towards another endpoint (R287). An Ember's names its plan, its run and the context virtual
address; `reply`: the stage of a command reply; `bad`: non-finite values that a store carries (R247). -/
structure OpenReq where
  pkt : Packet := {}
  port : Nat := 0
  lastHeard : Nat := 0
  resends : Nat := 0
  tile : Option Nat := none
  reply : Option Nat := none
  plan : Nat := 0
  number : Nat := 0
  cva : Nat := 0
  bad : Nat := 0
  deriving DecidableEq, Repr

/-- One version of the routes (R291, R418, R295): the entries as 8-byte words, selector, topology, digest. -/
structure Routes where
  installed : Bool := false
  entries : Tab Nat := []
  selector : Tab Nat := []
  topology : Tab Nat := []
  localIdx : Nat := 0
  digest : Bytes := []
  lastActive : Option Nat := none
  deriving DecidableEq, Repr

/-- A session key and the keys it replaced, the latest first, each with the time of its replacement (R353, R299). -/
structure SessionKey where
  ctx : Nat := 0
  peer : Nat := 0
  key : Bytes := []
  olds : List (Bytes × Nat) := []
  deriving DecidableEq, Repr

/-! ## Gates, shapers, throttling (chapter 10) -/

/-- An entry of a gate list: length in 8 ns units and the owners of its resources (Tables 10.4, 10.5): for a router list
Ember, channel, north, east, south, west, extra; for a port or control list one owner. -/
structure Slot where
  len : Nat := 0
  owners : List Nat := []
  deriving DecidableEq, Repr

/-- A power profile (Table 15.2). -/
structure Profile where
  meanW : Nat := 0
  peakW : Nat := 0
  deriving DecidableEq, Repr

/-- One version of the gate lists (R308, R309, R312). `lists`: by number in image order, 0-255 routers, 256-287 ports, 288
control; an unlisted list is the default list (R311).
`fresh`: installed and not yet active (R440). -/
structure Gates where
  installed : Bool := false
  cycle : Nat := 12500
  phase : Nat := 0
  parent : Nat := 0xFF
  backup : Nat := 0xFF
  reserve : Nat := 0
  profile : Option Profile := none
  lists : Tab (List Slot) := []
  digest : Bytes := []
  fresh : Bool := false
  lastActive : Option Nat := none
  deriving DecidableEq, Repr

/-- Where a list stands: its entry, the start of its slot, whether the usable share has ended (R309, R327). -/
structure ListPos where
  entry : Nat := 0
  shareEnded : Bool := false
  deriving DecidableEq, Repr

/-- A shaper (R321, R322). `credit` in 2^-10 bytes. -/
structure Shaper where
  ctx : Nat := 0
  rate : Nat := 0
  burst : Nat := 0
  overhead : Nat := 0
  credit : Int := 0
  pending : Option (Nat × Nat × Nat) := none
  deriving DecidableEq, Repr

/-- A two-rate three-colour policer (R324). Buckets in 2^-10 bytes. -/
structure Policer where
  ctx : Nat := 0
  aware : Bool := false
  cir : Nat := 0
  pir : Nat := 0
  cbs : Nat := 0
  pbs : Nat := 0
  overhead : Nat := 0
  tc : Nat := 0
  tp : Nat := 0
  pending : Option (List Nat) := none
  deriving DecidableEq, Repr

/-- A throttle event's record (R328): start, end, deepest level. -/
structure ThrottleRec where
  start : Nat := 0
  ended : Option Nat := none
  deepest : Nat := 2
  deriving DecidableEq, Repr

/-- The timetable and the throttle (R308-R328). `causeSince`: since when a cause of throttling has been present (R326). -/
structure Schedule where
  active : Nat := 0
  versions : List Gates := [{}, {}]
  defaultLists : Bool := true
  pos : Tab ListPos := []
  pendingT : Option Nat := none
  pendingRoutes : Bool := false
  pendingGates : Bool := false
  pendingCmd : Option (Nat × Nat) := none
  isoClosed : Bool := false
  level : Nat := 0
  event : Bool := false
  eventPending : Bool := false
  causeSince : Option Nat := none
  lastCause : Option Nat := none
  powerOver : Bool := false
  events : Nat := 0
  records : List ThrottleRec := []
  shapers : Tab (List Shaper) := []
  policers : Tab (List Policer) := []
  deriving DecidableEq, Repr

/-! ## Triplex control (chapter 12) -/

/-- Control-unit states (Table 12.1). -/
inductive CuState where
  | serving | syncing | out | failed | lost
  deriving DecidableEq, Repr

/-- A control unit: its state, what its image declares and the flash area it came from (R362, R371, R372). -/
structure Cu where
  state : CuState := .serving
  svn : Nat := 0
  format : Nat := 0
  digest : Bytes := []
  tables : Bytes := []
  area : Nat := 0
  passed : Bool := false
  backup : Bool := false
  verified : Bool := false
  syncCmd : Option (Nat × Nat) := none
  deriving DecidableEq, Repr

/-- The control complex (R361-R372, Tables 12.6-12.8). -/
structure Triplex where
  units : List Cu := [{}, {}, {}]
  hotRequested : Bool := false
  holder : Option Nat := some 0
  claim : Nat := 1
  rank : List Nat := [0, 1, 2]
  gapEnd : Nat := 0
  leaseEnd : Nat := 4000
  renewAt : Nat := 0
  stopped : Bool := false
  takeovers : Nat := 0
  voteMismatch : Nat := 0
  staleClaims : Nat := 0
  dataMismatch : Nat := 0
  dataNoMaj : Nat := 0
  notices : List (Nat × Nat) := []
  lastCtx : Nat := 0
  deriving DecidableEq, Repr

/-! ## Security (chapter 11) -/

/-- A weight key slot (R351). -/
structure WeightKey where
  ctx : Nat := 0
  slot : Nat := 0
  key : Bytes := []
  deriving DecidableEq, Repr

/-- An ingest in progress (R352). -/
structure Ingest where
  ctx : Nat := 0
  tag : Nat := 0
  source : Nat := 0
  dest : Nat := 0
  len : Nat := 0
  iv : Bytes := []
  key : Bytes := []
  running : Bool := false
  deriving DecidableEq, Repr

/-- A report whose signing runs: the bytes to be signed (R348, R359). -/
structure Signing where
  ctx : Nat := 0
  tag : Nat := 0
  body : Bytes := []
  seq : Nat := 0
  chain : Bool := false
  deriving DecidableEq, Repr

/-- The security engine, JTAG and the security block (R336-R360, Tables 11.11-11.13). `attestKey`: the draw that made the attestation key
of this boot; `attestCert`: its certificate; `attestSig`: the identity key's signature of Table 11.5. `spdmVca`, `spdmCerts`, `spdmMeas`: the
messages of the connection, of the certificate requests and of the measurement requests that a signature covers (R349). -/
structure Security where
  attestReady : Bool := false
  attestKey : Nat := 0
  attestCert : Bytes := []
  attestSig : Bytes := []
  jtagLevel : Nat := 0
  unlockFails : Nat := 0
  challenge : Option Bytes := none
  chipUnlocked : Bool := false
  engineOpened : Bool := false
  keystoreFenced : Bool := false
  reports : Nat := 0
  reportSeq : Nat := 0
  unwrapFail : Nat := 0
  tagFail : Nat := 0
  weightKeys : List WeightKey := []
  sessionKeys : List SessionKey := []
  ingests : List Ingest := []
  signings : List Signing := []
  spdmStep : Nat := 0
  spdmVca : Bytes := []
  spdmCerts : Bytes := []
  spdmMeas : Bytes := []
  deriving DecidableEq, Repr

/-! ## Non-volatile state (Tables 14.2, 18.7) -/

/-- The wear counters (Table 15.6), in table order. -/
structure Wear where
  stackBins : List Nat := List.replicate 128 0
  hearthBins : List Nat := List.replicate 32 0
  laneTime : List Nat := List.replicate 160 0
  valveReversals : Nat := 0
  pumpTime : Nat := 0
  powerCycles : Nat := 0
  failsafes : Nat := 0
  deriving DecidableEq, Repr

/-- A wear record in flash (R451). -/
structure WearRec where
  seq : Nat := 0
  slot : Nat := 0
  life : Nat := 0
  calendar : Option Int := none
  wear : Wear := {}
  deriving DecidableEq, Repr

/-- What fuses, SPI flash and the always-on domain keep across a full reset (R405). -/
structure Kept where
  envBurned : Nat := 0
  envSealed : Bool := false
  svnFloor : Nat := 0
  debugDisabled : Bool := false
  bootCount : Nat := 0
  bootArea : Nat := 0
  images : List Bytes := [Config.flashImage 0, Config.flashImage 1]
  retiredChans : List Nat := []
  retiredEmbers : List Nat := []
  retiredPorts : List Nat := []
  wear : List WearRec := []
  lifeSeconds : Nat := 0
  aonLost : Bool := false
  deriving DecidableEq, Repr

/-! ## Start-up, supply, clocks (chapter 14) -/

/-- Progress of a partial reset (R425-R427). `out`: the Embers that were out of service before it. -/
structure PartialReset where
  hearth : Nat := 0
  startedAt : Nat := 0
  out : List Nat := []
  deriving DecidableEq, Repr

/-- A supply episode (R428-R432). -/
structure Episode where
  startedAt : Nat := 0
  banked : Bool := false
  released : Option Nat := none
  deriving DecidableEq, Repr

/-- Start-up, resets and the supply monitor (R404-R436, Tables 17.7, 17.8). -/
structure Boot where
  step : Nat := 0
  ready : Bool := false
  inReset : Bool := true
  halted : Bool := false
  tilesFenced : Nat := 0
  cause : Nat := 0
  powerCycle : Bool := true
  waves : Nat := 0
  waveAt : Nat := 0
  stacksDone : Nat := 0
  envInForce : Nat := 0
  hresetPending : List Nat := []
  hreset : Option PartialReset := none
  lostHearths : List Nat := []
  vcore : List Nat := [0, 0, 0, 0]
  droop : List Nat := [0, 0, 0, 0]
  lowHearth : Nat := 0
  lowest : Nat := 0
  episodes : Nat := 0
  episodeLastLen : Nat := 0
  episodeLastBanked : Bool := false
  episode : Option Episode := none
  pll : List Bool := List.replicate 18 false
  heldUntil : Nat := 0
  deriving DecidableEq, Repr

/-! ## CXL port (chapter 13) -/

/-- A record of a CXL event log (R392): handle, kind, capacity address, reason. -/
structure EventRec where
  handle : Nat := 0
  kind : Nat := 0
  addr : Nat := 0
  reason : Nat := 0
  deriving DecidableEq, Repr

/-- One CXL event log (Table 13.6). -/
structure EventLog where
  records : List EventRec := []
  overflow : Bool := false
  dropped : Nat := 0
  nextHandle : Nat := 1
  deriving DecidableEq, Repr

/-- An HDM decoder as the host committed it (R387). -/
structure Decoder where
  committed : Bool := false
  base : Nat := 0
  size : Nat := 0
  skip : Nat := 0
  ways : Nat := 1
  granularity : Nat := 256
  deriving DecidableEq, Repr

/-- A background Release Dynamic Capacity (R133, R390). -/
structure Release where
  regions : List Nat := []
  deriving DecidableEq, Repr

/-- The CXL function (R381-R395, Tables 13.3-13.8, 15.8). -/
structure Cxl where
  linkUp : Bool := false
  rate : Nat := 0
  width : Nat := 0
  busMaster : Bool := false
  mediaReady : Bool := false
  decoders : List Decoder := List.replicate 8 {}
  bars : List Nat := List.replicate 6 0
  msixTable : List Nat := List.replicate 24 0
  msixMasked : List Bool := List.replicate 8 true
  msixPending : List Bool := List.replicate 8 false
  msixEnabled : Bool := false
  logs : List EventLog := List.replicate 5 {}
  eventPolicy : List Nat := [0, 0, 0, 0, 0]
  calendar : Option Int := none
  release : Option Release := none
  mbIrq : Bool := false
  doeIrq : Bool := false
  poison : List Nat := []
  poisonOverflow : Bool := false
  statusWords : List Nat := []
  regulators : List Regulator := []
  deriving DecidableEq, Repr

/-! ## Interrupt controller (chapter 13) -/

/-- Source states (Table 13.10). -/
inductive SrcState where
  | idle | pending | active
  deriving DecidableEq, Repr

/-- An interrupt source (Table 13.14). -/
structure Src where
  priority : Nat := 0
  target : Nat := 0
  enable : Bool := false
  state : SrcState := .idle
  count : Nat := 0
  claimer : Nat := 0
  deriving DecidableEq, Repr

/-- A target (Tables 13.13, 13.16). -/
structure Target where
  threshold : Nat := 0
  misfire : Nat := 0
  deriving DecidableEq, Repr

/-- The interrupt controller (R396-R403). -/
structure Intc where
  srcs : Tab Src := []
  targets : List Target := List.replicate 8 {}
  deriving DecidableEq, Repr

/-! ## Bellows and lifetime (chapter 15) -/

/-- Bellows (R437-R445, Tables 15.8-15.10). `integ` in 1/16,000 of a duty unit (log 60). -/
structure Bellows where
  failsafe : Bool := false
  starting : Bool := true
  plausibleMs : Nat := 0
  failedSensor : Nat := 31
  failed : List Nat := []
  manual : Bool := false
  manualValve : Nat := 1024
  manualPump : Nat := 1024
  setHearth : Nat := 80
  setStack : Nat := 75
  pumpMin : Nat := 256
  kp : Nat := 40
  ki : Nat := 8
  ffGain : Nat := 400
  defaultW : Nat := 1800
  integ : Int := 0
  valve : Nat := 1024
  pump : Nat := 1024
  flowK : Nat := 500
  flowPulses : List Nat := []
  flowSilent : Nat := 0
  tachSilent : Nat := 0
  inlet : Int := 0
  outlet : Int := 0
  inletFails : Nat := 0
  outletFails : Nat := 0
  outletLow : Nat := 0
  die : List Int := List.replicate 20 0
  seen : Bool := false
  dieOver : List Bool := List.replicate 20 false
  failsafeCount : Nat := 0
  injArm : Bool := false
  injSensor : Nat := 0
  injKind : Nat := 0
  injDuration : Nat := 1
  injEnd : Nat := 0
  injUsed : Bool := false
  lastMove : Int := 0
  moveFrom : Int := 1024
  wear : Wear := {}
  ckptSeq : Nat := 0
  ckptSlot : Nat := 0
  aonLost : Bool := false
  ckptFails : Nat := 0
  ckptTries : Nat := 0
  ckptDue : Bool := false
  ckptDueAt : Nat := 0
  undriven : Bool := false
  deriving DecidableEq, Repr

/-! ## Log, injection, telemetry, register access (chapter 17) -/

/-- An entry of the device log (Table 16.15). `dpa`: the address as BAR0 shows it (R511); `pool`: as a context sees it. -/
structure LogEnt where
  seq : Nat := 0
  time : Nat := 0
  event : Nat := 0
  ctx : Option Nat := none
  conf : Bool := false
  dpa : Nat := 0xFFFFFFFFFFFFFFFF
  pool : Nat := 0xFFFFFFFFFFFFFFFF
  detail : Bytes := []
  deriving DecidableEq, Repr

/-- The ERRLOG and TELEM blocks and the word shadows of the readers (R496, R503, R504, R510-R517). -/
structure Diag where
  log : List LogEnt := []
  nextSeq : Nat := 1
  wrapped : Bool := false
  errSel : Nat := 0
  errEntry : Bytes := List.replicate 32 0
  selValid : Bool := false
  injArm : Bool := false
  injKind : Nat := 0
  injUnit : Nat := 0
  injParam : Nat := 0
  injAddr : Nat := 0
  injApplied : Nat := 0
  telemGroup : Nat := 0
  telemIndex : Nat := 0
  telemGo : Bool := false
  telemValid : Bool := false
  telemCount : Nat := 0
  telemTime : Nat := 0
  telemValues : List Nat := []
  shadows : Tab Nat := []
  heldLow : Tab Nat := []
  scratch : Nat := 0
  meshLogged : Option Nat := none
  updating : Option (Nat × Nat × Bytes) := none
  deriving DecidableEq, Repr

/-- What a mailbox command returns (Table 13.5). The byte layouts are CXL's; the model holds the contents that the manual gives (log 37). -/
inductive MbReply where
  | nothing
  | events (log : Nat) (records : List EventRec) (overflow : Bool) (dropped : Nat)
  | policy (l : List Nat)
  | firmware (svn slot : Nat)
  | timestamp (t : Nat)
  | commandEffects (data : Bytes)
  | identify (units lsa poisonMax : Nat)
  | health (failsafe : Bool) (episodes : Nat) (status : List Nat) (regs : List Regulator) (wear : Wear)
  | poison (lines : List Nat) (overflow : Bool)
  | dcConfig (regions : List Extent) (block : Nat)
  | extents (l : List Extent)
  deriving DecidableEq, Repr

/-- What the DOE mailbox returns (R393, R349). -/
inductive DoeReply where
  | discovery (vendor type next : Nat)
  | cdat (entry : Nat) (data : Bytes)
  | spdm (msg : Bytes)
  deriving DecidableEq, Repr

/-- What leaves the device, in order: the model's record of its outputs (log 4). -/
inductive OutEvent where
  | hostWrite (addr : Nat) (data : Bytes)
  | cell (port : Nat) (wire : Bytes)
  | msix (vector addr data : Nat)
  | snoop (line : Nat) (inv : Bool)
  | conflictAck (line : Nat)
  | hostData (data : Bytes) (poison : Bool) (metaVal : Nat)
  | hostCmp
  | regRead (rd : Reader) (off : Nat) (value : Reg)
  | mailbox (code : Nat) (reply : MbReply)
  | doe (reply : DoeReply)
  | dcEvent (kind : Nat) (base len : Nat)
  | challenge (data : Bytes)
  deriving DecidableEq, Repr

/-- The whole state. `burning`: the code of an envelope burn that runs (R423). -/
structure State where
  clk : Clock := {}
  net : NetTime := {}
  stages : List Stage := [{}, {}, {}, {}]
  cmds : List Cmd := []
  nextOrder : Nat := 0
  windows : Tab (List WinEntry) := []
  cuOut : List CuOut := []
  openReplies : List OpenReply := []
  ctxs : Tab (Option Ctx) := [(0, some {})]
  destroys : Tab (Option Destroy) := []
  cords : Tab Cord := []
  frees : List Freeing := []
  regions : Tab (Option Region) := []
  gmap : Tab (List Nat) := []
  grants : List Grant := []
  caches : Tab (List CacheEnt) := []
  stampQ : Tab (List Req) := []
  fillQ : Tab (List Req) := []
  flits : List Flit := []
  mesh : List Req := []
  completions : List Completion := []
  openStamps : List Req := []
  dir : Tab (Option DirEnt) := []
  locks : Tab (Option Lock) := []
  excused : List (Nat × Nat × Nat) := []
  wayWait : Tab (List Req) := []
  answerWait : Tab (List Req) := []
  slices : Tab Slice := []
  partitions : List Partition := []
  shadow : Tab Shadow := []
  syncWaits : List SyncWait := []
  arms : List Arm := []
  resends : List ResendEnt := []
  tripWrites : List Req := []
  tripReads : List Req := []
  chans : Tab Chan := []
  mem : List Host.Cell := []
  valid : Tab Bool := []
  code : Tab CodeState := []
  bmCode : Tab (CodeState × CodeState) := []
  scrubs : List Scrub := []
  faultQs : Tab FaultQueue := []
  embers : Tab Ember := []
  plans : Tab (Option Plan) := []
  starts : List Start := []
  ends : List EndMsg := []
  ports : Tab Port := []
  openReqs : List OpenReq := []
  nextTxn : Nat := 1
  inbox : List Packet := []
  routes : List Routes := [{}, {}]
  routeActive : Nat := 0
  routeSwitched : Bool := false
  sched : Schedule := {}
  triplex : Triplex := {}
  sec : Security := {}
  kept : Kept := {}
  burning : Option Nat := none
  boot : Boot := {}
  cxl : Cxl := {}
  intc : Intc := {}
  bell : Bellows := {}
  diag : Diag := {}
  draws : Nat := 0
  outbox : List OutEvent := []
  pending : List Instr := []
  deriving DecidableEq, Repr

/-- The machine after reset: every field at the value written beside it above. The lists of the spec's own reset values and
of the model's choices are in INVENTORY.md and log 5. -/
def State.reset : State := {}

/-- The canonical form of memory: addresses strictly rising, and no entry equal to what an unlisted address reads as, zero. -/
def Memory.wf (m : List Host.Cell) : Bool := Tab.wf 0 m

/-- No step of this model stops with a fault: the part answers errors with statuses, reasons, classes and log entries.
The type is closed and empty. -/
inductive Fault
  deriving DecidableEq, Repr

/-- Why a step is refused. -/
inductive Refusal where
  /-- The command of this mnemonic has no meaning yet; raised by `exec` only; safe. -/
  | notModelled (mnemonic : String)
  deriving DecidableEq, Repr

end Sys2Proof.Machine
end

