-- ==== Sys2Proof/Machine/Ops.lean ====
section
/-! DEFINITION. The named operations over the state that every family shares: bytes, units by number, the clocks,
saturating counters, the device log, interrupt sources with their MSI-X messages, CXL event records, outputs. -/

set_option Elab.async false

namespace Sys2Proof.Machine

/-- What a meaning answers. -/
abbrev Out := Host.Outcome State Fault Refusal

/-- The step ends in state `s`. -/
def done (s : State) : Out := .next s

/-- `f s` where unit number `n` exists (below `k`); a number that names no unit leaves the state as it is (log 3). -/
def onUnit (n k : Nat) (f : State → State) (s : State) : State := if n < k then f s else s

/-! ## Bytes and fields (R10) -/

/-- The value of little-endian bytes. -/
def leNat : Bytes → Nat
  | [] => 0
  | b :: t => b.toNat + 256 * leNat t

/-- `k` little-endian bytes of `v`. -/
def natLE : Nat → Nat → Bytes
  | 0, _ => []
  | k + 1, v => BitVec.ofNat 8 v :: natLE k (v / 256)

/-- `k` big-endian bytes of `v`. -/
def natBE (k v : Nat) : Bytes := (natLE k v).reverse

/-- The field of `k` bytes at offset `o`. -/
def fieldAt (b : Bytes) (o k : Nat) : Nat := leNat ((b.drop o).take k)

/-- `len` bits of `v` from bit `lo`. -/
def bits (v lo len : Nat) : Nat := v / 2 ^ lo % 2 ^ len

/-- Bit `i` of `v`. -/
def bit (v i : Nat) : Bool := v / 2 ^ i % 2 == 1

/-- A flag as a number. -/
def b2n (b : Bool) : Nat := if b then 1 else 0

/-- `k` zero bytes. -/
def zeros (k : Nat) : Bytes := List.replicate k 0

/-- `b` cut or padded with zeros to `k` bytes. -/
def padTo (k : Nat) (b : Bytes) : Bytes := (b ++ zeros k).take k

/-- `b` with `d` written over it from offset `o`. -/
def overlay (b : Bytes) (o : Nat) (d : Bytes) : Bytes := b.take o ++ d ++ b.drop (o + d.length)

/-- Signed value of a `w`-bit two's complement number. -/
def signed (w v : Nat) : Int := if v < 2 ^ (w - 1) then (v : Int) else (v : Int) - 2 ^ w

/-- `w`-bit two's complement of an integer. -/
def toBits (w : Nat) (v : Int) : Nat := (v % (2 ^ w : Int)).toNat

/-- An integer held within `lo` and `hi`. -/
def clampInt (lo hi v : Int) : Int := if v < lo then lo else if hi < v then hi else v

/-- A counter of `w` bits that saturates (R58, R100). -/
def satAdd (w v k : Nat) : Nat := min (v + k) (2 ^ w - 1)

/-- One more in a counter of `w` bits. -/
def satInc (w v : Nat) : Nat := satAdd w v 1

/-- A quotient rounded to nearest, ties up. -/
def roundDiv (a b : Nat) : Nat := (2 * a + b) / (2 * b)

/-! ## Checks over bytes -/

/-- One bit step of a reflected CRC with polynomial `p`. -/
def crcBit (p c : BitVec 32) : BitVec 32 := if c.getLsbD 0 then (c >>> 1) ^^^ p else c >>> 1

/-- One byte of a reflected CRC. -/
def crcByte (p c : BitVec 32) (b : Byte) : BitVec 32 :=
  (List.range 8).foldl (fun c _ => crcBit p c) (c ^^^ b.setWidth 32)

/-- CRC-32C over bytes: polynomial 0x1EDC6F41 in reflected form, start and final XOR of all ones (R32). -/
def crc32c (b : Bytes) : BitVec 32 := b.foldl (crcByte 0x82F63B78) 0xFFFFFFFF ^^^ 0xFFFFFFFF

/-! ## Units by number -/

def State.chan (s : State) (g : Nat) : Chan := Tab.get {} s.chans g
def State.modChan (s : State) (g : Nat) (f : Chan → Chan) : State := { s with chans := Tab.modify {} s.chans g f }
def State.ember (s : State) (t : Nat) : Ember := Tab.get {} s.embers t
def State.modEmber (s : State) (t : Nat) (f : Ember → Ember) : State := { s with embers := Tab.modify {} s.embers t f }
def State.slice (s : State) (i : Nat) : Slice := Tab.get {} s.slices i
def State.modSlice (s : State) (i : Nat) (f : Slice → Slice) : State := { s with slices := Tab.modify {} s.slices i f }
def State.port (s : State) (p : Nat) : Port := Tab.get {} s.ports p
def State.modPort (s : State) (p : Nat) (f : Port → Port) : State := { s with ports := Tab.modify {} s.ports p f }
def State.faultQ (s : State) (h : Nat) : FaultQueue := Tab.get {} s.faultQs h
def State.modFaultQ (s : State) (h : Nat) (f : FaultQueue → FaultQueue) : State :=
  { s with faultQs := Tab.modify {} s.faultQs h f }
def State.cord (s : State) (n : Nat) : Cord := Tab.get {} s.cords n
def State.modCord (s : State) (n : Nat) (f : Cord → Cord) : State := { s with cords := Tab.modify {} s.cords n f }
def State.region (s : State) (r : Nat) : Option Region := Tab.get none s.regions r
def State.modRegion (s : State) (r : Nat) (f : Region → Region) : State :=
  { s with regions := Tab.modify none s.regions r (Option.map f) }
def State.ctx (s : State) (c : Nat) : Option Ctx := Tab.get none s.ctxs c
def State.modCtx (s : State) (c : Nat) (f : Ctx → Ctx) : State := { s with ctxs := Tab.modify none s.ctxs c (Option.map f) }
def State.plan (s : State) (k : Nat) : Option Plan := Tab.get none s.plans k
def State.modPlan (s : State) (k : Nat) (f : Plan → Plan) : State :=
  { s with plans := Tab.modify none s.plans k (Option.map f) }
def State.stage (s : State) (h : Nat) : Stage := s.stages.getD h {}
def State.modStage (s : State) (h : Nat) (f : Stage → Stage) : State := { s with stages := s.stages.modify h f }
def State.cu (s : State) (u : Nat) : Cu := s.triplex.units.getD u {}
def State.modCu (s : State) (u : Nat) (f : Cu → Cu) : State :=
  { s with triplex := { s.triplex with units := s.triplex.units.modify u f } }
def State.routing (s : State) : Routes := s.routes.getD s.routeActive {}
def State.gates (s : State) : Gates := s.sched.versions.getD s.sched.active {}

/-- Context `c` exists and its destroy has not started (R34 step 5, R52). -/
def State.ctxLive (s : State) (c : Nat) : Bool :=
  match s.ctx c with
  | some x => !x.destroying
  | none => false

def State.ctxConf (s : State) (c : Nat) : Bool := ((s.ctx c).map (·.conf)).getD false
def State.ctxIso (s : State) (c : Nat) : Bool := ((s.ctx c).map (·.isolated)).getD false

/-- A free draw: its number, and the state with the number used (logs 30-35). -/
def State.draw (s : State) : Nat × State := (s.draws, { s with draws := s.draws + 1 })

/-! ## Place of the units (R5, R14, R19, R20) -/

/-- Hearth of a device tile, a channel, a port, a slice. -/
def tileHearth (t : Nat) : Nat := t / 64
def chanHearth (g : Nat) : Nat := g / 128
def portHearth (p : Nat) : Nat := p / 8
/-- The tile that holds channel `g`: with g = 32 x stack + channel, R14 gives device tile g / 2. -/
def chanTile (g : Nat) : Nat := g / 2
/-- The stack of a channel. -/
def chanStack (g : Nat) : Nat := g / 32
/-- A tile is lost with its Hearth (R23). -/
def State.hearthLost (s : State) (h : Nat) : Bool := s.boot.lostHearths.contains h

/-! ## Outputs -/

/-- An output leaves the device (log 4). -/
def State.emit (s : State) (e : OutEvent) : State := { s with outbox := s.outbox ++ [e] }

/-- An MSI-X message of a vector: a masked one sets its pending bit instead (R394). -/
def State.msix (s : State) (v : Nat) : State :=
  if s.cxl.msixMasked.getD v true then { s with cxl := { s.cxl with msixPending := s.cxl.msixPending.set v true } }
  else if s.cxl.msixEnabled && s.cxl.busMaster && s.cxl.linkUp then
    let w (i : Nat) : Nat := s.cxl.msixTable.getD (3 * v + i) 0
    s.emit (.msix v (w 0 + 2 ^ 32 * w 1) (w 2))
  else s

/-! ## Interrupt controller (R398-R401) -/

def State.src (s : State) (n : Nat) : Src := Tab.get {} s.intc.srcs n

/-- A source that a claim of target `k` may select. -/
def Src.selectable (x : Src) (k thr : Nat) : Bool :=
  x.enable && (x.state == .pending) && (x.target == k) && decide (thr ≤ x.priority)

/-- A target is asserted while a claim would select a source (R401). -/
def Intc.asserted (c : Intc) (k : Nat) : Bool :=
  c.srcs.any fun p => p.2.selectable k (c.targets.getD k {}).threshold

/-- A change of the controller: a host target that becomes asserted sends its message (R401). -/
def State.withIntc (s : State) (c : Intc) : State :=
  [0, 1, 2, 3].foldl (fun t k => if !s.intc.asserted k && c.asserted k then t.msix k else t) { s with intc := c }

def State.modSrc (s : State) (n : Nat) (f : Src → Src) : State :=
  s.withIntc { s.intc with srcs := Tab.modify {} s.intc.srcs n f }

/-- A reserved source never rises (R397). -/
def srcExists (n : Nat) : Bool := decide (n < 0x260) || (decide (0x270 ≤ n) && decide (n < 0x280)) ||
  (decide (0x3F0 ≤ n) && decide (n < 0x400))

/-- A rising edge (Table 13.10). -/
def Src.rise (x : Src) : Src :=
  match x.state with
  | .idle => { x with state := .pending }
  | _ => { x with count := satInc 8 x.count }

/-- A rising edge on source `n`. -/
def State.rise (s : State) (n : Nat) : State := if srcExists n then s.modSrc n Src.rise else s

/-! Source numbers of Table 13.9. -/
def srcMemUe (t : Nat) : Nat := t
def srcMemSvc (t : Nat) : Nat := 0x100 + t
def srcLinkDown (p : Nat) : Nat := 0x200 + p
def srcPortIntegrity (p : Nat) : Nat := 0x220 + p
def srcFaultPosted (h : Nat) : Nat := 0x240 + h
def srcFaultFull (h : Nat) : Nat := 0x244 + h
def srcCmdDiscard (h : Nat) : Nat := 0x248 + h
def srcCmdUndelivered (h : Nat) : Nat := 0x24C + h
def srcDirTimeout (h : Nat) : Nat := 0x250 + h

/-! ## Device log (R496, R511) -/

/-- All ones: no address. -/
def noAddr : Nat := 0xFFFFFFFFFFFFFFFF

/-- Pool address of a DPA: its cord's place in its region (R90, R107). -/
def State.poolOf (s : State) (dpa : Nat) : Nat :=
  let n := 12 * (dpa / 2 ^ 32) + dpa / 2 ^ 28 % 16
  match s.region (s.cord n).region with
  | none => noAddr
  | some r =>
    match r.granules.findIdx? (·.contains n) with
    | some i => (r.base + i) * 2 ^ 28 + dpa % 2 ^ 28
    | none => noAddr

/-- An entry in the ring of 8,192 (R496). -/
def State.log (s : State) (event : Nat) (ctx : Option Nat := none) (dpa : Option Nat := none) (detail : Bytes := []) :
    State :=
  let ctx := ctx.filter (· < 4096)
  let e : LogEnt := { seq := s.diag.nextSeq, time := s.clk.nt, event, ctx,
                      conf := (ctx.map s.ctxConf).getD false,
                      dpa := dpa.getD noAddr, pool := (dpa.map s.poolOf).getD noAddr, detail := padTo 8 detail }
  let l := s.diag.log ++ [e]
  { s with diag := { s.diag with log := if l.length > 8192 then l.drop 1 else l,
                                 wrapped := s.diag.wrapped || decide (l.length > 8192),
                                 nextSeq := s.diag.nextSeq + 1 } }

/-- An injected fault is applied: counted and logged (R513). -/
def State.injected (s : State) (code unit : Nat) : State :=
  let s := { s with diag := { s.diag with injApplied := satInc 16 s.diag.injApplied } }
  s.log 0x0905 none none (natLE 1 code ++ natLE 2 unit)

/-- First event in its millisecond of network time: the mark to keep, if it is (R172, R213, R515). -/
def firstInMs (nt : Nat) (last : Option Nat) : Bool := last != some (nt / 1000000)

/-! ## CXL event records (R392) -/

/-- Adds a record; a full log of 64 drops it and sets its overflow flag. -/
def EventLog.add (l : EventLog) (kind addr reason : Nat) : EventLog :=
  if l.records.length < 64 then
    { l with records := l.records ++ [{ handle := l.nextHandle, kind, addr, reason }],
             nextHandle := if l.nextHandle = 0xFFFF then 1 else l.nextHandle + 1 }
  else { l with overflow := true, dropped := satInc 16 l.dropped }

/-- A record in log `n` (0 informational, 1 warning, 2 failure, 3 fatal, 4 Dynamic Capacity), with vector 5 where the
event interrupt policy of that log asks for it (R390). -/
def State.cxlEvent (s : State) (n kind addr reason : Nat) : State :=
  let s' := { s with cxl := { s.cxl with logs := s.cxl.logs.modify n (·.add kind addr reason) } }
  if s.cxl.eventPolicy.getD n 0 % 4 = 1 then s'.msix 5 else s'

/-- Capacity address of a pool address for the host's accepted grant on the region that holds it (R385). -/
def State.capacityOf (s : State) (r pool : Nat) : Option Nat :=
  (s.grants.find? fun g => g.holder == 4096 && g.region == r && g.accepted && !g.tombstone).bind fun g =>
    g.dcRegion.map fun d => d * 2 ^ 42 + pool

/-- Event kinds of the Dynamic Capacity log. -/
def dcAdd : Nat := 0
def dcRelease : Nat := 1
def dcForced : Nat := 2

/-! ## Clocks (R303, R429; log 2) -/

/-- Network time in units of 2^-16 ns, `d` ns of the reference clock later: each tick of 2 ns adds 2 ns and the steering term (R303). -/
def Clock.fineAfter (c : Clock) (d : Nat) : Nat := ((65536 * (c.nt + d) + c.frac : Int) + c.steer * d / 2).toNat

/-- The clocks `d` ns later; interval time stands still in a supply episode (R429). -/
def Clock.plus (c : Clock) (d : Nat) (episode : Bool) : Clock :=
  { c with nt := c.fineAfter d / 65536, frac := c.fineAfter d % 65536, elapsed := c.elapsed + d,
           timer := if episode then c.timer else c.timer + d }

/-- `d` ns pass. -/
def State.pass (s : State) (d : Nat) : State := { s with clk := s.clk.plus d s.boot.episode.isSome }

/-- Time of the reference clock, to the nearest ns, in which the steered network time advances by `d` ns (R303). -/
def Clock.refTime (c : Clock) (d : Nat) : Nat := ((131072 * d : Int) / (131072 + c.steer)).toNat

/-- The part's time reaches network time `t`, unless it has. -/
def State.untilNt (s : State) (t : Nat) : State :=
  if t ≤ s.clk.nt then s
  else
    let r := s.pass (s.clk.refTime (t - s.clk.nt))
    { r with clk := { r.clk with nt := t, frac := 0 } }

/-- The part's time reaches `t` ns since power-on, unless it has. -/
def State.untilElapsed (s : State) (t : Nat) : State := s.pass (t - s.clk.elapsed)

/-- Interval time reaches `t`, unless it has or stands still. -/
def State.untilTimer (s : State) (t : Nat) : State := s.pass (t - s.clk.timer)

/-- `f` at interval time `t`: at once when it has come, else once it has passed; in a supply episode it does not come (R429). -/
def State.atTimer (s : State) (t : Nat) (f : State → State) : State :=
  if s.clk.timer < t && s.boot.episode.isSome then s else f (s.untilTimer t)

/-- `f` when `t` ns have passed since power-on: at once when they have. -/
def State.atElapsed (s : State) (t : Nat) (f : State → State) : State := f (s.untilElapsed t)

/-! ## The device as a whole -/

/-- Start-up has ended (step 7 of Table 14.4) and the part is not in reset (R409). -/
def State.ready (s : State) : Bool := s.boot.ready && !s.boot.inReset

/-- The stage that serves context `c`: that of Hearth c mod 4, or of the next surviving one (R29, R57). -/
def State.stageOf (s : State) (c : Nat) : Nat :=
  ((List.range 4).map fun k => (c + k) % 4).find? (fun h => (s.stage h).alive) |>.getD (c % 4)

/-- A sender may write as context `c` when it is in one of its ranges (R30). -/
def Ctx.hasSender (c : Ctx) (ep : Nat) : Bool :=
  c.senders.any fun r => decide (r.1 ≤ ep) && decide (ep < r.1 + r.2)

/-- The route version that names this device and its neighbours: the active one, or before the first route switch the installed
inactive one (R417, R419). -/
def State.governing (s : State) : Routes :=
  if s.routeSwitched then s.routing else s.routes.getD (1 - s.routeActive) {}

/-- The endpoint ID of this device (R417): none before the first ROUTE_INSTALL. -/
def State.endpoint (s : State) : Option Nat :=
  if s.governing.installed then some (s.governing.localIdx) else none

/-- An intake reply with no address to go to is dropped at stage `h`: counted there and raised (R35, R58). -/
def State.dropReply (s : State) (h : Nat) : State :=
  (s.modStage h fun x => { x with undelivered := satInc 32 x.undelivered }).rise (srcCmdUndelivered h)

/-- A reply of context `c` that cannot be delivered is dropped at stage `h`, and counted in the context's own counter too (R46). -/
def State.undeliver (s : State) (h c : Nat) : State :=
  (s.modCtx c fun x => { x with undelivered := satInc 16 x.undelivered }).dropReply h

/-- A grant of a holder on a region, tombstones included. -/
def State.grant (s : State) (h r : Nat) : Option Grant := s.grants.find? fun g => g.holder == h && g.region == r

/-- Changes the grants of a holder on a region. -/
def State.modGrant (s : State) (h r : Nat) (f : Grant → Grant) : State :=
  { s with grants := s.grants.map fun g => if g.holder = h ∧ g.region = r then f g else g }

/-- A grant in force at execution: neither revoked nor lapsed (R118). -/
def Grant.inForce (g : Grant) (nt : Nat) : Bool := !g.tombstone && !g.leaving && decide (nt < g.expiry)

end Sys2Proof.Machine
end

