-- ==== Sys2Proof/Machine/Float.lean ====
section
/-! DEFINITION. Numbers as the engines and the home compute them: exact dyadic values, and FP32 by IEEE 754 with
round-to-nearest-even (R241). -/

set_option Elab.async false

namespace Sys2Proof.Machine

/-- A value read from a format: not a number, an infinity, or the exact value (-1)^neg x m x 2^e, where a zero keeps its
sign. -/
inductive Num where
  | nan
  | inf (neg : Bool)
  | fin (neg : Bool) (m : Nat) (e : Int)
  deriving DecidableEq, Repr

/-- The one NaN result (R241). -/
def fp32Nan : Nat := 0x7FC00000
def fp32Inf (neg : Bool) : Nat := if neg then 0xFF800000 else 0x7F800000
def fp32Zero (neg : Bool) : Nat := if neg then 0x80000000 else 0

/-- `m` divided by 2^k, rounded to nearest, ties to even. -/
def rneShift (m k : Nat) : Nat :=
  let q := m / 2 ^ k
  let r := 2 * (m % 2 ^ k)
  if r < 2 ^ k then q else if 2 ^ k < r then q + 1 else q + q % 2

/-- `n / d` rounded to nearest, ties to even. -/
def rneDiv (n d : Nat) : Nat :=
  let q := n / d
  let r := 2 * (n % d)
  if r < d then q else if d < r then q + 1 else q + q % 2

/-- The FP32 number nearest to (-1)^neg x m x 2^e; overflow gives an infinity, subnormals are produced (R241). -/
def fp32Round (neg : Bool) (m : Nat) (e : Int) : Nat :=
  if m = 0 then fp32Zero neg
  else
    let q : Int := max ((Nat.log2 m : Int) + e - 23) (-149)
    let r := if q ≤ e then m * 2 ^ (e - q).toNat else rneShift m (q - e).toNat
    let b := (q + 149).toNat * 2 ^ 23 + r
    b2n neg * 0x80000000 + min b 0x7F800000

/-- The FP32 number nearest to a value. -/
def Num.toFp32 : Num → Nat
  | .nan => fp32Nan
  | .inf n => fp32Inf n
  | .fin n m e => fp32Round n m e

/-- The value of an FP32 number. -/
def fp32Num (v : Nat) : Num :=
  let neg := bit v 31
  let x := bits v 23 8
  let f := bits v 0 23
  if x = 255 then (if f = 0 then .inf neg else .nan)
  else if x = 0 then .fin neg f (-149)
  else .fin neg (f + 2 ^ 23) ((x : Int) - 150)

/-- A value as a signed integer times 2^e. -/
def Num.scaled (neg : Bool) (m : Nat) (e low : Int) : Int :=
  let v : Int := (m * 2 ^ (e - low).toNat : Nat)
  if neg then -v else v

/-- The exact sum of two values; a zero sum of values of both signs, or of zeros of both signs, is +0. -/
def Num.add : Num → Num → Num
  | .nan, _ => .nan
  | _, .nan => .nan
  | .inf a, .inf b => if a = b then .inf a else .nan
  | .inf a, .fin _ _ _ => .inf a
  | .fin _ _ _, .inf b => .inf b
  | .fin a m e, .fin b n f =>
    if m = 0 ∧ n = 0 then .fin (a && b) 0 0
    else
      let low := min e f
      let t := Num.scaled a m e low + Num.scaled b n f low
      .fin (decide (t < 0)) t.natAbs low

/-- The exact product of two values; an infinity times zero is no number. -/
def Num.mul : Num → Num → Num
  | .nan, _ => .nan
  | _, .nan => .nan
  | .inf a, .inf b => .inf (a != b)
  | .inf a, .fin b n _ => if n = 0 then .nan else .inf (a != b)
  | .fin a m _, .inf b => if m = 0 then .nan else .inf (a != b)
  | .fin a m e, .fin b n f => .fin (a != b) (m * n) (e + f)

/-- The value with its sign changed. -/
def Num.neg : Num → Num
  | .nan => .nan
  | .inf n => .inf (!n)
  | .fin n m e => .fin (!n) m e

/-- `a < b` of two values that are numbers; false with a NaN. -/
def Num.lt : Num → Num → Bool
  | .nan, _ => false
  | _, .nan => false
  | .inf a, .inf b => a && !b
  | .inf a, .fin _ _ _ => a
  | .fin _ _ _, .inf b => !b
  | .fin a m e, .fin b n f => decide (Num.scaled a m e (min e f) < Num.scaled b n f (min e f))

/-- FP32 addition, subtraction and multiplication (R241). -/
def fp32Add (a b : Nat) : Nat := ((fp32Num a).add (fp32Num b)).toFp32
def fp32Sub (a b : Nat) : Nat := ((fp32Num a).add (fp32Num b).neg).toFp32
def fp32Mul (a b : Nat) : Nat := ((fp32Num a).mul (fp32Num b)).toFp32

/-- The FP32 number nearest to the exact quotient `n / d` times 2^e of two positive integers. -/
def fp32Quot (neg : Bool) (n d : Nat) (e : Int) : Nat :=
  if n = 0 then fp32Zero neg
  else
    -- enough bits that one more sticky bit decides the rounding
    let k : Nat := 64 + Nat.log2 d
    let q := n * 2 ^ k / d
    let sticky := b2n (n * 2 ^ k % d != 0)
    fp32Round neg (2 * q + sticky) (e - k - 1)

/-- FP32 division (R241). -/
def fp32Div (a b : Nat) : Nat :=
  match fp32Num a, fp32Num b with
  | .nan, _ => fp32Nan
  | _, .nan => fp32Nan
  | .inf _, .inf _ => fp32Nan
  | .inf x, .fin y _ _ => fp32Inf (x != y)
  | .fin x _ _, .inf y => fp32Zero (x != y)
  | .fin x m e, .fin y n f =>
    if n = 0 then (if m = 0 then fp32Nan else fp32Inf (x != y))
    else fp32Quot (x != y) m n (e - f)

/-- One FP32 number less than another. -/
def fp32Less (a b : Nat) : Bool := (fp32Num a).lt (fp32Num b)

/-- A NaN or an infinity: its exponent field is all ones. -/
def fp32NonFinite (v : Nat) : Bool := bits v 23 8 == 255

end Sys2Proof.Machine
end

