-- ==== Sys2Proof/Machine/Channel.lean ====
section
/-! DEFINITION. The path below the home: the address map, the line code, the merge buffer, the valid bitmap, and the accesses
of a channel controller (chapter 3). A line is named by `l` = DPA / 64. -/

set_option Elab.async false

namespace Sys2Proof.Machine

/-! ## Address map (R60-R62, R102, R107) -/

def lineChan (l : Nat) : Nat := l / 2 ^ 26
def lineCord (l : Nat) : Nat := 12 * (l / 2 ^ 26) + l / 2 ^ 22 % 16
/-- The 4 KiB block of a line: DPA / 4096, with DPA[31:12] as block number in its channel. -/
def lineBlock (l : Nat) : Nat := l / 64
/-- The bitmap line that covers a line: DPA[31:21] (R82). -/
def lineBitmap (l : Nat) : Nat := l / 2 ^ 15 % 2 ^ 11
def cordChan (n : Nat) : Nat := n / 12
/-- First DPA of a cord (R102). -/
def cordDpa (n : Nat) : Nat := n / 12 * 2 ^ 32 + n % 12 * 2 ^ 28
/-- First line of a cord. -/
def cordLine (n : Nat) : Nat := cordDpa n / 64
/-- A DPA outside the data map (R62). -/
def unpopulated (dpa : Nat) : Bool := decide (2 ^ 41 ≤ dpa) || decide (12 ≤ dpa / 2 ^ 28 % 16)

/-- DRAM coordinates of a DPA (R61). -/
def bankGroup (dpa : Nat) : Nat := (dpa / 2 ^ 8 % 8) ^^^ (dpa / 2 ^ 16 % 8)
def bankIndex (dpa : Nat) : Nat := 4 * bankGroup dpa + dpa / 2 ^ 11 % 4
def dramRow (dpa : Nat) : Nat := dpa / 2 ^ 16 % 2 ^ 16
def lineInRow (dpa : Nat) : Nat := 4 * (dpa / 2 ^ 13 % 8) + dpa / 2 ^ 6 % 4
/-- Two lines of one channel in one DRAM row. -/
def sameRow (l m : Nat) : Bool :=
  decide (bankIndex (64 * l) = bankIndex (64 * m)) && decide (dramRow (64 * l) = dramRow (64 * m))

/-- The region of a line, its context classes. -/
def State.lineRegion (s : State) (l : Nat) : Nat := (s.cord (lineCord l)).region
def State.lineConf (s : State) (l : Nat) : Bool := ((s.region (s.lineRegion l)).map (·.conf)).getD false
def State.lineSync (s : State) (l : Nat) : Bool := ((s.region (s.lineRegion l)).map (·.sync)).getD false

/-! ## Stored lines -/

/-- The 64 stored bytes of a line. -/
def State.stored (s : State) (l : Nat) : Bytes := (List.range 64).map fun i => Tab.get 0 s.mem (64 * l + i)

/-- Bytes stored from a DPA on. -/
def storeBytes (m : List Host.Cell) : Nat → Bytes → List Host.Cell
  | _, [] => m
  | a, b :: t => storeBytes (Tab.set 0 m a b) (a + 1) t

/-- A line made cinder for the host's capacity enters the poison list, up to 256 records (Table 13.5). -/
def State.hostPoison (s : State) (l : Nat) : State :=
  match s.capacityOf (s.lineRegion l) (s.poolOf (64 * l)) with
  | none => s
  | some c =>
    if s.cxl.poison.contains c then s
    else if s.cxl.poison.length < 256 then { s with cxl := { s.cxl with poison := s.cxl.poison ++ [c] } }
    else { s with cxl := { s.cxl with poisonOverflow := true } }

/-- A failure record where the line lies in host capacity (Table 13.6). -/
def State.hostFailure (s : State) (l reason : Nat) : State :=
  match s.capacityOf (s.lineRegion l) (s.poolOf (64 * l)) with
  | none => s
  | some c => s.cxlEvent 2 0 c reason

/-- The injected fault of kinds 0-3, on the codeword being written, cinder or not (R88, R101): its new code state, if it applies. -/
def Chan.writeFault (c : Chan) (l : Nat) (cinder : Bool) : Option CodeState :=
  if c.injArm && decide (c.injKind < 4) && (!c.injMatch || decide (c.injAddr / 64 = l)) then
    let x := BitVec.ofNat 8 c.injXor
    some (match c.injKind with
      | 0 => { cinder, syms := [(c.injSymA, x)] }
      | 1 => { cinder, syms := Tab.set 0 (Tab.set 0 [] c.injSymA x) c.injSymB x }
      | 2 => { cinder, addrSym := x }
      | _ => { cinder := true })
  else none

/-- A codeword written to DRAM: data and check symbols, then the injected fault, which never touches a line of a
confidential region (R101, R514): a write of such a line leaves the fault armed for the next line it may touch (log 135). -/
def State.putLine (s : State) (l : Nat) (data : Bytes) (cinder : Bool) : State :=
  let g := lineChan l
  let s := { s with mem := storeBytes s.mem (64 * l) (if cinder then zeros 64 else padTo 64 data),
                    code := Tab.set {} s.code l { cinder } }
  match (s.chan g).writeFault l cinder with
  | some f =>
    if s.lineConf l then s
    else
      let s := { s with code := Tab.set {} s.code l f }
      let s := s.modChan g fun c => { c with injArm := false }
      s.injected ((s.chan g).injKind + 1) g
  | none => s

/-- The line becomes a cinder codeword (R78). -/
def State.putCinder (s : State) (l : Nat) : State := (s.putLine l [] true).hostPoison l

/-! ## The decoder (R75-R77) -/

/-- Outcomes of Table 3.7. -/
inductive Decoded where
  | clean | corrected | address | uncorrectable
  | cinder (oneSymbol : Bool)
  deriving DecidableEq, Repr

/-- Symbol errors combined by XOR; a symbol whose errors cancel is no longer in error. -/
def combineSyms (a b : List (Nat × Byte)) : List (Nat × Byte) :=
  b.foldl (fun t p => Tab.set 0 t p.1 (Tab.get 0 t p.1 ^^^ p.2)) a

/-- The address symbols of a line, as the number they spell: DPA[47:6] (R76). -/
def dataSymbols (l : Nat) : Nat := l % 2 ^ 42

/-- The address symbols of a copy of a bitmap line: its service address, with bit 47 of the address set (R76; log 133). -/
def serviceSymbols (g idx copy : Nat) : Nat := 2 ^ 41 + Config.serviceLine g idx copy % 2 ^ 41

/-- Class of a codeword of address symbols `a` with symbol errors `e` and address symbol in error `adr`; with 2 errors or more the
manual leaves the class open within the bounds of R77 (log 34). -/
def decodeClass (a : Nat) (cinder : Bool) (e : List (Nat × Byte)) (adr : Byte) : Decoded :=
  let k := e.length + b2n (adr != 0)
  let free := Config.multiErrorClass a e adr
  if cinder then
    if k = 0 then .cinder false else if k = 1 && adr == 0 then .cinder true else .uncorrectable
  else if k = 0 then .clean
  else if k = 1 then (if adr = 0 then .corrected else .address)
  else if k < 7 then (if free % 2 = 0 then .uncorrectable else .address)
  else if k = 7 then (match free % 3 with | 0 => .uncorrectable | 1 => .address | _ => .cinder false)
  else match free % 5 with
    | 0 => .uncorrectable | 1 => .address | 2 => .cinder false | 3 => .corrected | _ => .clean

/-- What a read of a line answers: its data, or a reason of Table 3.8. -/
inductive LineRead where
  | data (b : Bytes)
  | bad (reason : Nat)
  deriving DecidableEq, Repr

/-- A line that an error took: logged with its channel and reason, counted, raised (R87 steps 3 and 4). -/
def State.lineError (s : State) (l event reason : Nat) (ctx : Option Nat) : State :=
  let g := lineChan l
  let s := s.log event ctx (some (64 * l)) (natLE 2 g ++ natLE 1 reason)
  let s := if event = 0x0102 then s.modChan g fun c => { c with addrErrors := satInc 16 c.addrErrors, addrSinceReset := c.addrSinceReset + 1 }
           else s.modChan g fun c => { c with ueCount := satInc 16 c.ueCount, ueSinceReset := c.ueSinceReset + 1 }
  (s.rise (srcMemUe (chanTile g))).hostFailure l reason

/-- One more corrected codeword of a channel (R86). -/
def State.countCorrected (s : State) (g : Nat) : State :=
  s.modChan g fun c => { c with ceCount := satInc 32 c.ceCount, ceSinceReset := c.ceSinceReset + 1, ceThisHour := c.ceThisHour + 1 }

/-- One more corrected line; past 10,000 in an hour an informational record (R86, Table 13.6; log 38). -/
def State.corrected (s : State) (l : Nat) : State :=
  let g := lineChan l
  let s := s.countCorrected g
  if (s.chan g).ceThisHour = 10001 then
    match s.capacityOf (s.lineRegion l) (s.poolOf (64 * l)) with
    | some c => s.cxlEvent 0 0 c 0
    | none => s
  else s

/-- A codeword read from DRAM and decoded, with what follows each outcome (R77, R86, R87). `noise`: symbols in error at this
read. `later`: a later write to the line is already in the controller, the write of a read-modify-write, so the line is not
rewritten here (R81, R86, R87, R94). -/
def State.readDram (s : State) (l : Nat) (ctx : Option Nat) (noise : List (Nat × Byte)) (later : Bool := false) :
    State × LineRead :=
  let c := Tab.get {} s.code l
  let e := combineSyms c.syms noise
  let k := e.length + b2n (c.addrSym != 0)
  let d := if k < 8 then s.stored l else (List.range 64).map fun i => Config.freeByte (s.draws + i)
  let s := if k < 8 then s else { s with draws := s.draws + 64 }
  match decodeClass (dataSymbols l) c.cinder e c.addrSym with
  | .clean => (s, .data d)
  | .corrected =>
    let s := s.corrected l
    (if later then s else s.putLine l d false, .data d)
  | .address => ((if later then s else s.putCinder l).lineError l 0x0102 3 ctx, .bad 3)
  | .uncorrectable => ((if later then s else s.putCinder l).lineError l 0x0101 1 ctx, .bad 1)
  | .cinder dirty =>
    let s := s.modChan (lineChan l) fun c => { c with cinderReads := satInc 32 c.cinderReads, cinderSinceReset := c.cinderSinceReset + 1 }
    (if dirty then (if later then s else s.putCinder l).corrected l else s, .bad 2)

/-! ## The valid bitmap (R82-R85) -/

/-- The channel stops. Its free, allocated and zeroising cords become `retired`; an allocated cord leaves its context (R103). -/
def State.stopChan (s : State) (g : Nat) : State :=
  let s := s.modChan g fun c => { c with state := .fenced }
  (List.range 12).foldl (fun t k => t.modCord (12 * g + k) fun c =>
    match c.state with
    | .free | .allocated | .zeroising => { c with state := .retired, ctx := 0, region := 0, zeroPending := false, swept := false }
    | _ => c) s

/-- The channel stops by a fault: cause 1 bitmap, 2 controller, 3 training (R96). -/
def State.fenceChan (s : State) (g cause : Nat) : State :=
  let s := s.stopChan g
  let s := s.log 0x0107 none none (natLE 2 g ++ natLE 1 cause)
  s.rise (srcMemSvc (chanTile g))

/-- A bitmap line is written to both copies, with the injected fault of kinds 4 and 5: symbol_a of copy A, or of both copies,
is XORed with xor_value (R82, R101). -/
def State.bitmapWrite (s : State) (g idx : Nat) : State :=
  let s := s.modChan g fun c => { c with bmCache := c.bmCache.map fun b => if b.idx = idx then { b with dirty := false } else b }
  let c := s.chan g
  let top := g * 2 ^ 32 + idx * 2 ^ 21
  let hit := c.injArm && (c.injKind == 4 || c.injKind == 5) && (!c.injMatch || decide (c.injAddr / 2 ^ 21 = top / 2 ^ 21)) &&
    !s.lineConf (top / 64)
  let key := g * 1536 + idx
  if hit then
    let bad : CodeState := { syms := [(c.injSymA, BitVec.ofNat 8 c.injXor)] }
    let s := { s with bmCode := Tab.set ({}, {}) s.bmCode key (bad, if c.injKind = 5 then bad else {}) }
    (s.modChan g fun c => { c with injArm := false }).injected (c.injKind + 1) g
  else { s with bmCode := Tab.set ({}, {}) s.bmCode key ({}, {}) }

/-- One copy of a bitmap line is rewritten from the other or from the cache (R85, R86). Kinds 4 and 5 of R101 act at a write of
a bitmap line to its copies: this write of one copy does not qualify (log 132). -/
def State.bitmapRewrite (s : State) (g idx copy : Nat) : State :=
  let key := g * 1536 + idx
  let old := Tab.get ({}, {}) s.bmCode key
  { s with bmCode := Tab.set ({}, {}) s.bmCode key (if copy = 0 then ({}, old.2) else (old.1, {})) }

/-- The outcome of the read of one copy of a bitmap line (R76, R77). -/
def State.bitmapDecode (s : State) (g idx copy : Nat) (noise : List (Nat × Byte)) : Decoded :=
  let p := Tab.get ({}, {}) s.bmCode (g * 1536 + idx)
  let c := if copy = 0 then p.1 else p.2
  decodeClass (serviceSymbols g idx copy) c.cinder (combineSyms c.syms noise) c.addrSym

/-- A copy that gives the bitmap line: as it stands, or corrected. -/
def Decoded.usable : Decoded → Bool
  | .clean | .corrected => true
  | _ => false

/-- A corrected copy is counted and written back (R86). -/
def State.bitmapCorrect (s : State) (g idx copy : Nat) (d : Decoded) : State :=
  if d = .corrected then (s.countCorrected g).bitmapRewrite g idx copy else s

/-- A failed copy is rewritten, and logged as a correctable bitmap error (R85). -/
def State.bitmapRepair (s : State) (g idx copy : Nat) (d : Decoded) : State :=
  if d.usable then s
  else (s.log 0x0103 none (some (g * 2 ^ 32 + idx * 2 ^ 21)) (natLE 2 g ++ natLE 1 copy)).bitmapRewrite g idx copy

/-- Both copies of a bitmap line are lost: a poisoned range, or a ninth one, which fences the channel (R85). -/
def State.bitmapLost (s : State) (g idx : Nat) : State :=
  if (s.chan g).poisoned.length < 8 then
    let s := s.modChan g fun c => { c with poisoned := c.poisoned ++ [idx] }
    let s := { s with bmCode := Tab.set ({}, {}) s.bmCode (g * 1536 + idx) ({}, {}) }
    (s.log 0x0104 none (some (g * 2 ^ 32 + idx * 2 ^ 21)) (natLE 2 g ++ natLE 1 (s.chan g).poisoned.length)).rise (srcMemSvc (chanTile g))
  else s.fenceChan g 1

/-- Both copies of a bitmap line are read and checked (R85): the state, and whether the line can be used. With `kept` the
controller caches the line, so a failed copy is rewritten from it (R92). `na`, `nb`: symbols in error at this read. -/
def State.bitmapCheck (s : State) (g idx : Nat) (kept : Bool) (na : List (Nat × Byte) := []) (nb : List (Nat × Byte) := []) :
    State × Bool :=
  let a := s.bitmapDecode g idx 0 na
  let b := s.bitmapDecode g idx 1 nb
  let s := (s.bitmapCorrect g idx 0 a).bitmapCorrect g idx 1 b
  if a.usable || b.usable || kept then ((s.bitmapRepair g idx 0 a).bitmapRepair g idx 1 b, true)
  else (s.bitmapLost g idx, false)

/-- The bitmap line in the cache of 64, least recently used first out; a dirty one goes to both copies (R82). -/
def State.bitmapCache (s : State) (g idx : Nat) (dirty : Bool) : State :=
  let c := s.chan g
  let was := (c.bmCache.find? (·.idx == idx)).map (·.dirty) |>.getD false
  let rest := c.bmCache.filter (·.idx != idx)
  let out := if rest.length < 64 then none else rest.head?
  let kept := if rest.length < 64 then rest else rest.drop 1
  let s := s.modChan g fun c => { c with bmCache := kept ++ [{ idx, dirty := was || dirty }] }
  match out with
  | some o => if o.dirty then s.bitmapWrite g o.idx else s
  | none => s

/-- An access needs the bitmap line of `l`: a hit, or a fetch of both copies (R82). False: the line cannot be used. -/
def State.bitmapTouch (s : State) (l : Nat) : State × Bool :=
  let g := lineChan l
  let idx := lineBitmap l
  if (s.chan g).poisoned.contains idx then (s, false)
  else if (s.chan g).bmCache.any (·.idx == idx) then (s.bitmapCache g idx false, true)
  else
    match s.bitmapCheck g idx false with
    | (s, true) => (s.bitmapCache g idx false, true)
    | (s, false) => (s, false)

/-- The valid bit of a line's block. -/
def State.blockValid (s : State) (l : Nat) : Bool := Tab.get false s.valid (lineBlock l)

/-- The first write into a block whose bit is clear: 64 lines written, then the bit set (R83). -/
def State.fillBlock (s : State) (l : Nat) (data : Bytes) (cinder : Bool) : State :=
  let b := lineBlock l
  let s := (List.range 64).foldl (fun t i =>
    let m := 64 * b + i
    if m = l then (if cinder then t.putCinder l else t.putLine l data false) else t.putLine m (zeros 64) false) s
  let s := { s with valid := Tab.set false s.valid b true }
  s.bitmapCache (lineChan l) (lineBitmap l) true

/-- A codeword written to a line, filling its block first where its bit is clear (R83). -/
def State.writeDram (s : State) (l : Nat) (data : Bytes) (cinder : Bool) : State :=
  if s.blockValid l then (if cinder then s.putCinder l else s.putLine l data false) else s.fillBlock l data cinder

/-! ## The merge buffer (R79-R81) -/

/-- Bytes of `e` where its mask is set, those of `under` elsewhere. -/
def maskMerge (under new : Bytes) (mask : List Bool) : Bytes :=
  (List.range 64).map fun i => if mask.getD i false then new.getD i 0 else under.getD i 0

/-- A merge-buffer entry's bytes are lost: logged per context, counted, raised (R81). -/
def State.mergeLost (s : State) (e : MergeEnt) : State :=
  let g := lineChan e.line
  let s := e.ctxs.foldl (fun t c => t.log 0x0105 (some c) (some (64 * e.line)) (natLE 2 g ++ natLE 2 c)) s
  let s := s.modChan g fun c => { c with mergeLoss := satInc 16 c.mergeLoss, mergeSinceReset := c.mergeSinceReset + 1 }
  (s.rise (srcMemSvc (chanTile g))).hostFailure e.line 7

/-- One entry, already out of the buffer, is written: the state, and the line as it then reads (R80, R81). -/
def State.flushEntry (s : State) (e : MergeEnt) (noise : List (Nat × Byte)) : State × LineRead :=
  let l := e.line
  if (s.chan (lineChan l)).state == .fenced || (s.chan (lineChan l)).poisoned.contains (lineBitmap l) then
    (s.mergeLost e, .bad 7)
  else if e.badParity then ((s.writeDram l [] true).mergeLost e, .bad 7)
  else if e.mask.all id && decide (e.mask.length = 64) then (s.writeDram l e.data false, .data e.data)
  else if !s.blockValid l then
    let d := maskMerge (zeros 64) e.data e.mask
    (s.fillBlock l d false, .data d)
  else
    match s.readDram l e.ctxs.head? noise true with
    | (s, .data u) =>
      let d := maskMerge u e.data e.mask
      (s.putLine l d false, .data d)
    | (s, .bad _) => ((s.writeDram l [] true).mergeLost e, .bad 7)

/-- A read-modify-write of line `l` that is under way is completed. -/
def State.completeRmw (s : State) (l : Nat) (noise : List (Nat × Byte)) : State × Option LineRead :=
  let g := lineChan l
  match (s.chan g).rmw.find? (·.line == l) with
  | some e =>
    let (s, r) := (s.modChan g fun c => { c with rmw := c.rmw.filter (·.line != l) }).flushEntry e noise
    (s, some r)
  | none => (s, none)

/-- The entry of line `l` is flushed with the other entries of its row (R80): at once, where its read-modify-write is under
way already. A line has one entry, in `merge` or in `rmw`. -/
def State.flushLine (s : State) (l : Nat) (noise : List (Nat × Byte)) : State × Option LineRead :=
  let g := lineChan l
  let (s, before) := s.completeRmw l noise
  match (s.chan g).merge.find? (·.line == l) with
  | none => (s, before)
  | some e =>
    let others := (s.chan g).merge.filter fun x => x.line != l && sameRow x.line l
    let s := s.modChan g fun c => { c with merge := c.merge.filter fun x => x.line != l && !sameRow x.line l }
    let (s, r) := s.flushEntry e noise
    (others.foldl (fun t x => (t.flushEntry x []).1) s, some r)

/-- Whether an entry's flush needs a read of its line. -/
def State.needsRead (s : State) (e : MergeEnt) : Bool :=
  !e.badParity && !(e.mask.all id) && s.blockValid e.line && (s.chan (lineChan e.line)).state != .fenced &&
  !((s.chan (lineChan e.line)).poisoned.contains (lineBitmap e.line))

/-- Every entry of a channel is flushed, the oldest first. -/
def State.flushAll (s : State) (g : Nat) : State :=
  let es := (s.chan g).rmw ++ (s.chan g).merge
  es.foldl (fun t x => (t.flushEntry x []).1) (s.modChan g fun c => { c with merge := [], rmw := [] })

/-! ## Accesses (R63, R79, R83, R89) -/

/-- Why an access to a line of channel `g` ends at once, if it does: UNPOPULATED or RETIRED. -/
def State.refusedLine (s : State) (l : Nat) : Option Nat :=
  if unpopulated (64 * l) then some 4
  else match (s.chan (lineChan l)).state with
    | .retired | .fenced => some 5
    | _ => none

/-- The reason of an access that found its bitmap line unusable: a fenced channel, else a poisoned range. -/
def State.bitmapReason (s : State) (l : Nat) : Nat := if (s.chan (lineChan l)).state == .fenced then 5 else 6

/-- A read of a line at the channel: its data or the reason it ends with. -/
def State.readLine (s : State) (l : Nat) (ctx : Option Nat) (noise : List (Nat × Byte) := []) : State × LineRead :=
  match s.refusedLine l with
  | some r => (s, .bad r)
  | none =>
    match s.bitmapTouch l with
    | (s, false) => (s, .bad (s.bitmapReason l))
    | (s, true) =>
      match s.flushLine l noise with
      | (s, some r) => (s, r)
      | (s, none) => if s.blockValid l then s.readDram l ctx noise else (s, .data (zeros 64))

/-- A full-line write: an entry of the line is replaced (R79). `none`: written. -/
def State.writeLine (s : State) (l : Nat) (data : Bytes) : State × Option Nat :=
  match s.refusedLine l with
  | some r => (s, some r)
  | none =>
    match s.bitmapTouch l with
    | (s, false) => (s, some (s.bitmapReason l))
    | (s, true) =>
      let s := s.modChan (lineChan l) fun c => { c with merge := c.merge.filter (·.line != l), rmw := c.rmw.filter (·.line != l) }
      (s.writeDram l data false, none)

/-- The line becomes cinder, as the home or the shadow array asks (R171, R181). -/
def State.makeCinder (s : State) (l : Nat) : State :=
  match s.refusedLine l with
  | some _ => s
  | none =>
    match s.bitmapTouch l with
    | (s, false) => s
    | (s, true) =>
      let s := s.modChan (lineChan l) fun c => { c with merge := c.merge.filter (·.line != l), rmw := c.rmw.filter (·.line != l) }
      s.writeDram l [] true

/-- The entry of a line with a partial write merged in: `hit`, with a parity error. -/
def MergeEnt.with (e : MergeEnt) (ctx : Nat) (data : Bytes) (mask : List Bool) (hit : Bool) : MergeEnt :=
  { e with data := maskMerge e.data data mask
           mask := (List.range 64).map fun i => e.mask.getD i false || mask.getD i false
           ctxs := if e.ctxs.contains ctx then e.ctxs else e.ctxs ++ [ctx]
           badParity := e.badParity || hit }

/-- A partial write merges into the line's entry, under read-modify-write or not, or takes a new one (R79). -/
def Chan.mergeIn (c : Chan) (l ctx now : Nat) (data : Bytes) (mask : List Bool) (hit : Bool) : Chan :=
  let upd (e : MergeEnt) : MergeEnt := if e.line = l then e.with ctx data mask hit else e
  if c.rmw.any (·.line == l) then { c with rmw := c.rmw.map upd }
  else if c.merge.any (·.line == l) then { c with merge := c.merge.map upd }
  else
    let e : MergeEnt := { line := l, data := zeros 64, mask := List.replicate 64 false, entered := now }
    { c with merge := c.merge ++ [e.with ctx data mask hit] }

/-- The line's entry has a full mask. -/
def Chan.entryFull (c : Chan) (l : Nat) : Bool := (c.rmw ++ c.merge).any fun e => e.line == l && e.mask.all id

/-- At 28 entries or more the oldest is flushed (R80); those under read-modify-write count, and are on their way out. -/
def State.flushOldest (s : State) (g : Nat) : State :=
  if 28 ≤ (s.chan g).merge.length + (s.chan g).rmw.length then
    match (s.chan g).merge.head? with
    | some o => (s.flushLine o.line []).1
    | none =>
      match (s.chan g).rmw.head? with
      | some o => (s.flushLine o.line []).1
      | none => s
  else s

/-- A partial write enters the merge buffer, with the parity fault of kind 6 where it is armed; a full mask, or 28 entries,
flush (R79, R80, R101). `none`: complete. -/
def State.writePartial (s : State) (l ctx : Nat) (data : Bytes) (mask : List Bool) : State × Option Nat :=
  match s.refusedLine l with
  | some r => (s, some r)
  | none =>
    match s.bitmapTouch l with
    | (s, false) => (s, some (s.bitmapReason l))
    | (s, true) =>
      let g := lineChan l
      let c := s.chan g
      let hit := c.injArm && c.injKind == 6 && (!c.injMatch || decide (c.injAddr / 64 = l)) && !s.lineConf l
      let s := s.modChan g fun c => c.mergeIn l ctx s.clk.elapsed data mask hit
      let s := if hit then (s.modChan g fun c => { c with injArm := false }).injected 7 g else s
      let s := if (s.chan g).entryFull l then (s.flushLine l []).1 else s
      (s.flushOldest g, none)

/-! ## Zeroisation (R84, R85, R126, R127) -/

/-- Clears the valid bit of a block. -/
def State.clearBlock (s : State) (b : Nat) : State :=
  { s with valid := Tab.set false s.valid b false, mem := Tab.clearRange s.mem (4096 * b) (4096 * b + 4096),
           code := Tab.clearRange s.code (64 * b) (64 * b + 64) }

/-- Zeroises `len` bytes from a DPA within one channel, both 64-byte aligned: whole blocks lose their bit, the covered part
of a block is written as zero lines, a poisoned range is cleared only when it is covered whole, and no block of a range that
stays poisoned is cleared. The state and the blocks whose bits were cleared. -/
def State.zeroise (s : State) (dpa len : Nat) : State × Nat :=
  let g := dpa / 2 ^ 32
  let hi := dpa + len
  match (s.chan g).state with
  | .retired | .fenced => (s, 0)
  | _ =>
    -- entries of the range are discarded
    let s := s.modChan g fun c => { c with
      merge := c.merge.filter fun e => decide (64 * e.line < dpa) || decide (hi ≤ 64 * e.line)
      rmw := c.rmw.filter fun e => decide (64 * e.line < dpa) || decide (hi ≤ 64 * e.line)
      poisoned := c.poisoned.filter fun i =>
        let lo := g * 2 ^ 32 + i * 2 ^ 21
        !(decide (dpa ≤ lo) && decide (lo + 2 ^ 21 ≤ hi)) }
    let pois (a : Nat) : Bool := (s.chan g).poisoned.contains (a / 2 ^ 21 % 2 ^ 11)
    -- part blocks at either end
    let first := (dpa + 4095) / 4096
    let last := hi / 4096
    let zeroLine (t : State) (a : Nat) : State := if pois a then t else (t.writeLine (a / 64) (zeros 64)).1
    let part (t : State) (lo up : Nat) : State :=
      if t.blockValid (lo / 64) then (List.range ((up - lo) / 64)).foldl (fun t i => zeroLine t (lo + 64 * i)) t else t
    let s := if dpa < 4096 * first then part s dpa (min hi (4096 * first)) else s
    let s := if last < first then s else if 4096 * last < hi then part s (4096 * last) hi else s
    -- whole blocks: every listed item of the range goes, but for the ranges that stay poisoned
    let inRange (b : Nat) : Bool := decide (first ≤ b) && decide (b < last) && !pois (4096 * b)
    let n := (s.valid.filter fun p => inRange p.1).length
    let s := { s with valid := s.valid.filter (fun p => !inRange p.1),
                      mem := s.mem.filter (fun p => !inRange (p.1 / 4096)),
                      code := s.code.filter (fun p => !inRange (p.1 / 64)) }
    -- the bitmap lines of the range are written
    let idxs := if first < last then (List.range ((last - 1) / 512 - first / 512 + 1)).map (fun i => (first / 512 + i) % 2 ^ 11) else []
    let s := idxs.foldl (fun t i => if pois (g * 2 ^ 32 + i * 2 ^ 21) then t else t.bitmapWrite g i) s
    (s, n)

/-- Zeroises a whole cord and reads both copies of its 128 bitmap lines back: false where a copy fails for good (R126,
R127). -/
def State.zeroiseCord (s : State) (n : Nat) : State × Nat × Bool :=
  let g := cordChan n
  let (s, k) := s.zeroise (cordDpa n) (2 ^ 28)
  let (s, ok) := (List.range 128).foldl (fun (p : State × Bool) i =>
    let (t, o) := p.1.bitmapCheck g (n % 12 * 128 + i) false
    (t, p.2 && o)) (s, true)
  (s, k, ok)

end Sys2Proof.Machine
end

