-- ==== Sys2Proof/Machine/Slots.lean ====
section
/-! DEFINITION. Whose slot it is: the owners of the gate lists, and what a resource may serve now (R308-R311, R315-R320,
R327). Lists are numbered in image order: 0-255 routers, 256-287 ports, 288 the control complex. -/

set_option Elab.async false

namespace Sys2Proof.Machine

/-- Owner codes of Table 10.3. -/
def ownerShared : Nat := 0x1000
def ownerMaint : Nat := 0x1001
def ownerClosed : Nat := 0x1002

/-- Resources of a router-list entry, in field order. -/
def resEmber : Nat := 0
def resChannel : Nat := 1

/-- The default list (R311): 90.4 us shared, then 9.6 us of maintenance for channels and Embers. -/
def defaultList (k : Nat) : List Slot :=
  if k < 256 then
    [{ len := 11300, owners := List.replicate 7 ownerShared },
     { len := 1200, owners := ownerMaint :: ownerMaint :: List.replicate 5 ownerShared }]
  else [{ len := 11300, owners := [ownerShared] }, { len := 1200, owners := [ownerShared] }]

/-- A list of one version of the schedule. -/
def Gates.list (g : Gates) (k : Nat) : List Slot := Tab.get [] g.lists k

/-- The list in force. -/
def State.gateList (s : State) (k : Nat) : List Slot := if s.sched.defaultLists then defaultList k else s.gates.list k

/-- Cycle length and phase in force, in 8 ns units. -/
def State.gateCycle (s : State) : Nat := if s.sched.defaultLists then 12500 else s.gates.cycle
def State.gatePhase (s : State) : Nat := if s.sched.defaultLists then 0 else s.gates.phase

def State.listPos (s : State) (k : Nat) : ListPos := Tab.get {} s.sched.pos k

/-- The slot a list stands in. -/
def State.slot (s : State) (k : Nat) : Slot := (s.gateList k).getD (s.listPos k).entry {}

/-- The owner of resource `j` of list `k` now. -/
def State.owner (s : State) (k j : Nat) : Nat := (s.slot k).owners.getD j ownerClosed

/-- The owner code that a holder's work runs under: its own number when it is an isolated-class context, else the shared
class, to which context 0 and the host belong (R310). -/
def State.party (s : State) (holder : Nat) : Nat := if holder != 0 && s.ctxIso holder then holder else ownerShared

/-- Resource `j` of list `k` serves `holder` now: its slot is open, and within the usable share (R310, R327). -/
def State.serves (s : State) (k j holder : Nat) : Bool :=
  (s.owner k j == s.party holder) && !(s.listPos k).shareEnded

/-- The channel of a tile is in a maintenance slot. -/
def State.inMaint (s : State) (k j : Nat) : Bool := s.owner k j == ownerMaint

/-- The port's transmit side serves `holder` now: isolated slots are closed while R307 closes them, and the link guard ends
an outgoing owner's cells (R319). -/
def State.portServes (s : State) (p holder : Nat) : Bool :=
  s.serves (256 + p) 0 holder && !(s.sched.isoClosed && s.party holder != ownerShared) && !(s.port p).guard

/-- In a supply episode the slots in progress stay open, and no new work begins (R429). -/
def State.held (s : State) : Bool := s.boot.episode.isSome

/-- The control complex serves `holder` now (R320, R429). -/
def State.controlServes (s : State) (holder : Nat) : Bool := s.serves 288 0 holder && !s.held

/-- The stack of a channel is `banked`, by a frequency change or a supply episode (R74). -/
def State.banked (s : State) (g : Nat) : Bool := (s.chan g).banked

/-- An isolated-class context owns the slot. -/
def isoOwner (o : Nat) : Bool := decide (o < ownerShared)

/-- Next network time at which list `k` leaves its slot (R309): at once where the present time lies past the slot. -/
def State.nextEdge (s : State) (k : Nat) : Nat :=
  let l := s.gateList k
  let cyc := 8 * s.gateCycle
  let e := (s.listPos k).entry
  let lo := 8 * ((l.take e).map (·.len)).sum
  let hi := lo + 8 * (s.slot k).len
  let now := (s.clk.nt + cyc * 8 * s.gatePhase - 8 * s.gatePhase) % cyc
  if lo ≤ now ∧ now < hi then s.clk.nt + (hi - now) else s.clk.nt

/-- The other version of the gates takes over at the end of the present slot of list `k` (R314). -/
def State.switchesAtEdge (s : State) (k : Nat) : Bool := s.sched.pendingGates && s.sched.pendingT == some (s.nextEdge k)

/-- The slot that list `k` enters next: at a pending switch of gates, the new version's first (R314, R334). -/
def State.nextSlot (s : State) (k : Nat) : Slot :=
  if s.switchesAtEdge k then ((s.sched.versions.getD (1 - s.sched.active) {}).list k).headD {}
  else
    let l := s.gateList k
    l.getD ((s.listPos k).entry + 1) (l.headD {})

/-- The owner of resource `j` of list `k` in the next slot. -/
def State.nextOwner (s : State) (k j : Nat) : Nat := (s.nextSlot k).owners.getD j ownerClosed

/-- The owner changes at the next edge and either side is an isolated-class context (R316, R319). -/
def State.guardedEdge (s : State) (k j : Nat) : Bool :=
  (s.owner k j != s.nextOwner k j) && (isoOwner (s.owner k j) || isoOwner (s.nextOwner k j))

/-- Quarters of a slot that a throttle level leaves (Table 10.9). -/
def usableQuarters (level : Nat) : Nat := 4 - level

/-- The throttle level in force (R327): that of the event in progress, else 1 while the margin test of an Ember runs (R490). -/
def State.throttleLevel (s : State) : Nat :=
  if s.sched.level = 0 && s.embers.any (fun e => e.2.margin && e.2.state == .testing) then 1 else s.sched.level

/-- Network time at which the usable share of the present slot of list `k` ends: the slot's end at level 0 (R327). -/
def State.shareEnd (s : State) (k : Nat) : Nat :=
  let len := 8 * (s.slot k).len
  s.nextEdge k - len + len * usableQuarters s.throttleLevel / 4

end Sys2Proof.Machine
end

