-- ==== Sys2Proof/Machine/Ports.lean ====
section
/-! DEFINITION. The ports of a channel controller: stoke levels, the order of issue, and what an access to a line waits for below its home
(R63-R66, R74, R83). -/

set_option Elab.async false

namespace Sys2Proof.Machine

/-- The stoke level of a request of age `a` at a port of target `t` (R65). -/
def stokeLevel (a t : Nat) : Nat := if t ≤ a then 3 else if 3 * t ≤ 4 * a then 2 else if t ≤ 2 * a then 1 else 0

/-- A port's target in ns. -/
def Chan.target (c : Chan) (port : Nat) : Nat := 8 * c.latTgt.getD port 8

/-- The level of a waiting request at its present age. -/
def Chan.levelOf (c : Chan) (now : Nat) (q : MemReq) : Nat := stokeLevel (now - q.entered) (c.target q.port)

/-- The requests of a list that reach level 3 now. -/
def Chan.newMisses (c : Chan) (now : Nat) (l : List MemReq) : Nat := (l.filter fun q => c.levelOf now q == 3 && decide (q.level < 3)).length

/-- Every waiting request, partial writes among them, at the level of its age; each that reaches level 3 is a miss (R65). -/
def Chan.restoke (c : Chan) (now : Nat) : Chan :=
  { c with stokeMisses := satAdd 32 c.stokeMisses (c.newMisses now c.waiting + c.newMisses now c.partials)
           waiting := c.waiting.map fun q => { q with level := c.levelOf now q }
           partials := c.partials.map fun q => { q with level := c.levelOf now q } }

/-- The slot of channel `g` takes work of `owner` through port `p` (R66, R67): its own slot, or the service port in a
maintenance slot. -/
def State.chanTakes (s : State) (g owner p : Nat) : Bool :=
  let o := s.owner (chanTile g) resChannel
  (o == owner && !(s.listPos (chanTile g)).shareEnded) || (p == 3 && o == ownerMaint)

/-- The block of a line is being filled (R83). -/
def Chan.inFill (c : Chan) (l : Nat) : Bool := c.filling.any fun q => lineBlock q.line == lineBlock l

/-- The DRAM row that holds a line is open in its bank (R65). -/
def Chan.rowHit (c : Chan) (l : Nat) : Bool := c.openRows.contains (bankIndex (64 * l), dramRow (64 * l))

/-- The row of a line opened in its bank. -/
def Chan.openRow (c : Chan) (l : Nat) : Chan :=
  { c with openRows := (c.openRows.filter fun r => r.1 != bankIndex (64 * l)) ++ [(bankIndex (64 * l), dramRow (64 * l))] }

/-- One request goes before another: higher level, then at levels 0-2 a row hit, then age (R65). -/
def Chan.before (c : Chan) (a b : MemReq) : Bool :=
  if a.level != b.level then decide (b.level < a.level)
  else if a.level < 3 && c.rowHit a.line != c.rowHit b.line then c.rowHit a.line
  else decide (a.entered < b.entered)

/-- An issued access of a line is not over, or its block is being filled. -/
def Chan.inService (c : Chan) (l : Nat) : Bool :=
  c.inFill l || c.reads.any (·.line == l) || c.granted.any (·.line == l)

/-- A waiting request may issue: no access that its line's home released earlier is still to come (R63). -/
def Chan.first (c : Chan) (q : MemReq) : Bool :=
  !c.inService q.line && !((c.waiting.takeWhile (· != q)).any (·.line == q.line))

/-- The request that goes before all others. -/
def Chan.pick (c : Chan) (l : List MemReq) : Option MemReq :=
  l.foldl (fun (b : Option MemReq) q =>
    match b with
    | some x => if c.before q x then some q else b
    | none => some q) none

/-- The request the scheduler issues next, of those it may take. -/
def State.nextIssue (s : State) (g : Nat) : Option MemReq :=
  let c := s.chan g
  c.pick (c.waiting.filter fun q => s.chanTakes g q.owner q.port && c.first q)

/-- The partial write that enters the merge buffer next (R65, R79). -/
def State.nextPartial (s : State) (g : Nat) : Option MemReq :=
  let c := s.chan g
  c.pick (c.partials.filter fun q => s.chanTakes g q.owner q.port && !c.inService q.line && !c.waiting.any (·.line == q.line))

/-- The channel of a line takes an access that its home makes itself, `part`: one that enters the merge buffer. Not while the stack is
`banked` (R74), the block is being filled (R83) or an earlier access of the line waits (R63), nor, for a partial write, during the
edge guard (R66). -/
def State.chanOpen (s : State) (l : Nat) (part : Bool) : Bool :=
  let c := s.chan (lineChan l)
  !c.banked && !(part && c.guard) && !c.inService l && !(c.waiting ++ c.partials).any (·.line == l)

/-- The request of an Ember, a scrub or a move has its turn at the channel (R64, R65): it enters its port, ages there, and goes when
the scheduler would issue it, or once the scheduler has issued it. -/
def State.portTurn (s : State) (q : MemReq) : State × Bool :=
  let g := lineChan q.line
  let mine (x : MemReq) : Bool := x.dest == q.dest && x.line == q.line
  let c := s.chan g
  if c.granted.any mine then (s.modChan g fun c => { c with granted := c.granted.filter (!mine ·) }, true)
  else if c.waiting == [] && s.chanTakes g q.owner q.port && c.first q && !c.banked then (s, true)
  else
    let s := if c.waiting.any mine then s else s.modChan g fun c => { c with waiting := c.waiting ++ [q] }
    let s := s.modChan g fun c => c.restoke s.clk.elapsed
    match s.nextIssue g with
    | some x =>
      if mine x && !c.banked then (s.modChan g fun c => { c with waiting := c.waiting.erase x }, true) else (s, false)
    | none => (s, false)

/-- The requests of a destination leave every port: what asked for them has been given up. -/
def State.dropPort (s : State) (d : MemDest) : State :=
  { s with chans := Tab.mapVals {} s.chans fun c =>
      { c with waiting := c.waiting.filter (·.dest != d), granted := c.granted.filter (·.dest != d) } }

end Sys2Proof.Machine
end

