-- ==== Sys2Proof/Machine/Mesh.lean ====
section
/-! DEFINITION. The mesh: where tiles and attachments lie, the paths of flits, the buffers of the routers, multicast (R7, R17-R20,
R293, R297, R310, R315, R534). -/

set_option Elab.async false

namespace Sys2Proof.Machine

/-! ## Places (R7, R19, R20) -/

/-- Mesh coordinates of a device tile (R7). -/
def tileX (t : Nat) : Nat := 8 * (t / 64 % 2) + t % 8
def tileY (t : Nat) : Nat := 8 * (t / 128) + t % 64 / 8

/-- The device tile at a place of the mesh. -/
def tileAt (x y : Nat) : Nat := 64 * (2 * (y / 8) + x / 8) + 8 * (y % 8) + x % 8

/-- `d` routers from a Hearth's outer corner along an edge whose corner lies at `c` (R19). -/
def fromCorner (c d : Nat) : Nat := if c = 0 then d else c - d

/-- The router of a fabric port (R19). -/
def portRouter (p : Nat) : Nat :=
  let cx := 15 * (p / 8 % 2)
  let cy := 15 * (p / 16)
  if p % 8 < 4 then tileAt (fromCorner cx (2 * (p % 8) + 1)) cy else tileAt cx (fromCorner cy (2 * (p % 8 - 4) + 1))

/-- The router of the CXL port (Table 1.3). -/
def cxlRouter : Nat := tileAt 0 0

/-- The router of a control unit (Table 1.3). -/
def cuRouter (u : Nat) : Nat := if u = 0 then tileAt 7 7 else if u = 1 then tileAt 8 7 else tileAt 7 8

/-- Routers with an edge attachment or a device block on their extra port (R19, Table 1.3): the ports, the control units, the security
engine, the CXL port, bellows with the management interfaces, the command-input stages and the network-time units. -/
def extraRouters : List Nat :=
  (List.range 32).map portRouter ++ (List.range 3).map cuRouter ++ [tileAt 8 8, cxlRouter, tileAt 0 15] ++
  (List.range 4).flatMap fun h => [tileAt (8 * (h % 2) + 3) (8 * (h / 2) + 3), tileAt (8 * (h % 2) + 4) (8 * (h / 2) + 4)]

/-! ## Links (R534) -/

/-- A router has an output: 0 north, 1 east, 2 south, 3 west, 4 the extra port. -/
def hasOutput (t o : Nat) : Bool :=
  match o with
  | 0 => decide (0 < tileY t)
  | 1 => decide (tileX t < 15)
  | 2 => decide (tileY t < 15)
  | 3 => decide (0 < tileX t)
  | 4 => extraRouters.contains t
  | _ => false

/-- The router that an output sends to. -/
def neighbour (t o : Nat) : Nat :=
  match o with
  | 0 => tileAt (tileX t) (tileY t - 1)
  | 1 => tileAt (tileX t + 1) (tileY t)
  | 2 => tileAt (tileX t) (tileY t + 1)
  | 3 => tileAt (tileX t - 1) (tileY t)
  | _ => t

/-- The input on which a flit arrives from an output of the neighbour, in the order of R168: 0 the tile port, 1 north, 2 east, 3 south,
4 west, 5 the extra port. -/
def inputFrom (o : Nat) : Nat :=
  match o with
  | 0 => 3 | 1 => 4 | 2 => 1 | 3 => 2 | _ => 5

/-- The next output of a path from `t` to `d`, X then Y, or with `yx` Y then X (R293); the extra port at its end. -/
def nextOutput (t d : Nat) (yx : Bool) : Nat :=
  let x := if tileX t < tileX d then some 1 else if tileX d < tileX t then some 3 else none
  let y := if tileY t < tileY d then some 2 else if tileY d < tileY t then some 0 else none
  (if yx then y.or x else x.or y).getD 4

/-- Mesh cycles of an unloaded path: two a hop, four more for each Hearth boundary (R18). -/
def pathCycles (a b : Nat) : Nat :=
  let gap (x y : Nat) : Nat := max x y - min x y
  2 * (gap (tileX a) (tileX b) + gap (tileY a) (tileY b)) + 4 * (gap (tileX a / 8) (tileX b / 8) + gap (tileY a / 8) (tileY b / 8))

/-- The slice that homes a line (R14); for a triple-placed line `l` lies in the first cord of its triplet (R179). -/
def homeTile (l : Nat) : Nat := chanTile (lineChan l)

/-! ## Flits on their way (R293, R310, R315) -/

/-- Two flits wait in one queue of a router input: the same buffer (virtual channel and order of travel) and the same owner (R293, R315). -/
def State.sameQueue (s : State) (a b : Flit) : Bool :=
  a.router == b.router && a.input == b.input && a.vc == b.vc && a.yx == b.yx && s.party a.ctx == s.party b.ctx

/-- The first flit of context `ctx` that router `t` would send through output `o`: no flit of its queue stands before it. -/
def State.flitFor (s : State) (t o ctx : Nat) : Option Nat :=
  (List.range s.flits.length).find? fun i =>
    match s.flits[i]? with
    | some f => f.router == t && f.ctx == ctx && nextOutput t f.dst f.yx == o && !(s.flits.take i).any fun e => s.sameQueue e f
    | none => false

/-- A request or an answer reaches the router of its home, on an input (R168, R169). -/
def State.reachHome (s : State) (m : Req) (input : Nat) : State :=
  { s with mesh := s.mesh ++ [{ m with input, arrived := s.clk.elapsed }] }

/-- The router and input at which a message enters the mesh: those of its port, of the CXL port, or of its tile. -/
def Req.entry (m : Req) : Nat × Nat :=
  match m.port with
  | some p => (portRouter p, 5)
  | none => if m.src = some 0x7FFF then (cxlRouter, 5) else (m.point, 0)

/-- The virtual channel of a message to a home (Table 9.9). -/
def homeVc : MsgOp → Nat
  | .rspData => 1
  | .rspAck | .rspNone => 2
  | _ => 0

/-- A message for the home of its line enters the mesh, X then Y (R293). -/
def State.toHome (s : State) (m : Req) : State :=
  let d := homeTile (m.dpa / 64)
  if m.entry.1 = d then s.reachHome m m.entry.2
  else { s with flits := s.flits ++ [({ router := m.entry.1, input := m.entry.2, vc := homeVc m.op, dst := d, ctx := m.holder,
                                         load := .request m } : Flit)] }

/-! ## Multicast (R297) -/

/-- The routers of a row at which the row multicast from `origin` acts, with their distance: those whose column holds a masked tile. -/
def rowStops (origin : Nat) (mask : List Nat) : List (Nat × Nat) :=
  ((List.range 16).filter fun x => mask.any fun t => tileX t == x).map fun x =>
    (tileAt x (tileY origin), max x (tileX origin) - min x (tileX origin))

/-- The masked tiles of a column to which a router of it sends the column multicast, with their distance; the router's own tile, when
masked, has its flit at once. -/
def columnStops (router : Nat) (mask : List Nat) : List (Nat × Nat) :=
  ((List.range 16).filter fun y => mask.contains (tileAt (tileX router) y)).map fun y =>
    (tileAt (tileX router) y, max y (tileY router) - min y (tileY router))

/-- The tiles that a multicast from `origin` reaches, with the hops of the flit: along its own row, then from each router there along
its column (R297). -/
def multicast (origin : Nat) (mask : List Nat) : List (Nat × Nat) :=
  (rowStops origin mask).flatMap fun r => (columnStops r.1 mask).map fun c => (c.1, r.2 + c.2)

end Sys2Proof.Machine
end

