-- ==== Sys2Proof/Machine/Link.lean ====
section
/-! DEFINITION. Fabric packets on their way out: the encodings of Tables 9.8 and 9.9, the end-to-end check, payload
encryption, the choice of port, and the transmit side of a port with its credits, window, shapers and gates (chapter 9). -/

set_option Elab.async false

namespace Sys2Proof.Machine

/-! ## Messages (Table 9.9) -/

/-- The code of a message. -/
def msgCode : MsgOp → Nat
  | .rdShared => 0x01 | .rdOwn => 0x02 | .upgrade => 0x03 | .rdCur => 0x04 | .wb => 0x05 | .evict => 0x06 | .wrInv => 0x07
  | .wrPart => 0x08 | .accLine => 0x09 | .writeFill => 0x10 | .readDrain => 0x11 | .readFull => 0x12 | .addSat => 0x13
  | .fence => 0x14 | .gntS => 0x40 | .gntE => 0x41 | .gntM => 0x42 | .dataNc => 0x43 | .rspData => 0x44 | .syncVal => 0x45
  | .recall => 0x60 | .downgrade => 0x61 | .inv => 0x62 | .rspAck => 0x63 | .rspNone => 0x64 | .gntUp => 0x65 | .cmp => 0x66
  | .err => 0x67 | .pending => 0x68

/-- The message of a code; none where Table 9.9 defines none. -/
def msgOf (code : Nat) : Option MsgOp :=
  [MsgOp.rdShared, .rdOwn, .upgrade, .rdCur, .wb, .evict, .wrInv, .wrPart, .accLine, .writeFill, .readDrain, .readFull,
   .addSat, .fence, .gntS, .gntE, .gntM, .dataNc, .rspData, .syncVal, .recall, .downgrade, .inv, .rspAck, .rspNone, .gntUp,
   .cmp, .err, .pending].find? fun m => msgCode m == code

/-- The virtual channel of a code: 0 REQ, 1 RSP, 2 BYP. -/
def codeVc (code : Nat) : Nat := if code < 0x40 then 0 else if code < 0x60 then 1 else 2

/-- A message with a payload travels in a 128-byte cell. -/
def codePayload (code : Nat) : Bool :=
  [0x05, 0x07, 0x08, 0x09, 0x10, 0x13, 0x40, 0x41, 0x42, 0x43, 0x44, 0x45].contains code

/-- Credit units of a cell (R275). -/
def cellCost (code : Nat) : Nat := if codePayload code then 4 else 1

/-- Header bytes with the hop count taken as zero (Table 9.8, R285). -/
def packetHeader (p : Packet) : Bytes :=
  natLE 1 p.opcode ++ natLE 1 (b2n p.routeEpoch + 2 * b2n p.encrypted + 4 * b2n p.resend) ++ natLE 2 p.src ++
  natLE 2 p.dst ++ natLE 2 p.ctx ++ natLE 4 p.txn ++ natLE 6 p.addr ++ natLE 1 p.reason ++ natLE 1 p.aux

/-! ## Cells (Tables 9.3-9.6) -/

/-- The link header (Table 9.3). -/
def linkHeader (seq vc : Nat) (control : Bool) (credits creditVc : Nat) : Bytes :=
  natLE 4 (seq % 2 ^ 12 + 2 ^ 12 * vc + 2 ^ 14 * b2n control + 2 ^ 16 * credits + 2 ^ 24 * creditVc)

/-- The link CRC (R273): CRC-32 with generator 0x04C11DB7 in reflected form. -/
def linkCrc (b : Bytes) : Reg := b.foldl (crcByte 0xEDB88320) 0xFFFFFFFF ^^^ 0xFFFFFFFF

/-- A cell with its link CRC in its last four bytes. -/
def withLinkCrc (b : Bytes) : Bytes := b ++ natLE 4 (linkCrc b).toNat

/-- The link CRC of a received cell holds. -/
def linkCrcHolds (b : Bytes) : Bool := decide (4 ≤ b.length) && b == withLinkCrc (b.take (b.length - 4))

/-- Header bytes as they travel, hop count included (Table 9.8). -/
def wireHeader (p : Packet) : Bytes := (packetHeader p).modify 1 (· + BitVec.ofNat 8 (16 * p.hops))

/-- A sequenced cell on the wire (Tables 9.4, 9.5). -/
def cellWire (c : Cell) : Bytes :=
  withLinkCrc (linkHeader c.seq c.vc false c.credits c.creditVc ++ wireHeader c.pkt ++
    if codePayload c.pkt.opcode then
      padTo 64 c.pkt.payload ++ padTo 16 c.pkt.tag ++ natLE 4 c.pkt.check.toNat ++ natLE 2 (c.ackCum + 2 ^ 12 * b2n c.ackValid) ++
        natLE 8 c.ackBitmap ++ zeros 6
    else natLE 4 c.pkt.check.toNat)

/-- A control cell on the wire (Tables 9.5, 9.6). -/
def controlWire (kind : Nat) (body : Bytes) (credits creditVc : Nat) : Bytes :=
  withLinkCrc (linkHeader 0 0 true credits creditVc ++ natLE 1 kind ++ padTo 23 body)

/-- The end-to-end check (R285). -/
def packetCheck (p : Packet) : Reg :=
  crc32c (packetHeader p ++ (if codePayload p.opcode then padTo 64 p.payload ++ padTo 16 p.tag else []))

/-! ## Routes (R291, R292) -/

/-- Fields of a route entry (Table 9.12). -/
def reValid (w : Nat) : Bool := bit w 0
def reLocal (w : Nat) : Bool := bit w 1
def reFailover (w : Nat) : Bool := bit w 2
def reMeshOrder (w : Nat) : Bool := bit w 3
def reCount (w : Nat) : Nat := bits w 4 3
def rePort (w i : Nat) : Nat := bits w (8 + 5 * i) 5

/-- Where a packet goes. -/
inductive Way where
  | here
  | out (p : Nat)
  | down (p : Nat)
  | noRoute
  deriving DecidableEq, Repr

/-- A port that keeps its queues takes packets (R267, R282, R283). -/
def LinkState.takes : LinkState → Bool
  | .active | .hold | .retrain => true
  | _ => false

/-- The way of a packet of context `c` to endpoint `d` under version `v` (R291, R292). -/
def State.way (s : State) (v : Nat) (d c : Nat) : Way :=
  let r := s.routes.getD v {}
  let w := Tab.get 0 r.entries d
  if !r.installed || !reValid w then .noRoute
  else if reLocal w then .here
  else
    let n := reCount w
    if n = 0 then .noRoute
    else
      let i := Tab.get 0 r.selector c % n
      if reFailover w then
        match (List.range n).find? fun k => (s.port (rePort w ((i + k) % n))).state == .active with
        | some k => .out (rePort w ((i + k) % n))
        | none => .down (rePort w i)
      else if (s.port (rePort w i)).state.takes then .out (rePort w i) else .down (rePort w i)

/-! ## Transmit side -/

/-- A confidential context resident on the device. -/
def State.anyConf (s : State) : Bool := s.ctxs.any fun p => (p.2.map (·.conf)).getD false

/-- The session key of a context with a peer endpoint. -/
def State.sessionKey (s : State) (c peer : Nat) : Option SessionKey :=
  s.sec.sessionKeys.find? fun k => k.ctx == c && k.peer == peer

/-- The IV of a packet sent by port `p` (R298). -/
def packetIv (src ctx p counter : Nat) : Bytes :=
  natLE 12 (src % 65536 * 2 ^ 80 + ctx % 65536 * 2 ^ 64 + p * 2 ^ 59 + counter % 2 ^ 59)

/-- The packet as the port sends it: encrypted when it carries a payload for a confidential context (R298), with its end-to-end
check (R285), and with the armed fault of kind 2 (R302). None: the key is lacking (R299). The faults pass over the packets of a
confidential context, and so kind 3 finds none: every encrypted packet travels for one (Table 11.3, R514). -/
def State.sealed (s : State) (p : Nat) (k : Packet) : State × Option Packet :=
  if s.ctxConf k.ctx && codePayload k.opcode then
    match s.sessionKey k.ctx k.dst with
    | none => (s, none)
    | some key =>
      let n := (s.port p).ivCounter
      let k := { k with encrypted := true }
      let (text, tag) := Config.sm4Gcm key.key (packetIv k.src k.ctx p n) (packetHeader k) (padTo 64 k.payload)
      let k := { k with payload := text, tag := tag }
      (s.modPort p fun q => { q with ivCounter := q.ivCounter + 1 }, some { k with check := packetCheck k })
  else
    let k := { k with encrypted := false, tag := [], check := 0 }
    let k := { k with check := packetCheck k }
    if (s.port p).injArm && (s.port p).injKind == 2 && !s.ctxConf k.ctx then
      ((s.modPort p fun q => { q with injArm := false }).injected 0x0D p, some { k with check := k.check ^^^ 1 })
    else (s, some k)

/-- A shaper slot in use: bound, or with a change pending. -/
def Shaper.bound (h : Shaper) : Bool := h.rate != 0 || h.pending.isSome

/-- The shaper that limits a context on a port now: one whose fields have taken effect (R322, R323). -/
def State.shaper (s : State) (p c : Nat) : Option Shaper :=
  (Tab.get [] s.sched.shapers p).find? fun h => h.ctx == c && h.rate != 0

/-- A port holds the credits for a packet, beyond the isolated reserve for the shared class (R275, R319). -/
def State.hasCredits (s : State) (p : Nat) (k : Packet) : Bool :=
  let reserve := if s.party k.ctx == ownerShared && !s.sched.defaultLists then s.gates.reserve else 0
  decide (cellCost k.opcode + reserve ≤ (s.port p).credits.getD (codeVc k.opcode) 0)

/-- A port may send packet `k` now (R267, R275, R277, R319, R322): active, or in hold a PENDING; window, credits beyond the
isolated reserve for the shared class, gate, shaper. -/
def State.maySend (s : State) (p : Nat) (k : Packet) : Bool :=
  let q := s.port p
  let vc := codeVc k.opcode
  (q.state == .active || (q.state == .hold && k.opcode == msgCode .pending)) && decide (q.replay.length < 2048) &&
  s.hasCredits p k && s.portServes p k.ctx &&
  (vc == 2 || (match s.shaper p k.ctx with | some h => decide (0 ≤ h.credit) | none => true))

/-- The first queued packet that may go: no earlier packet of its context and channel is queued before it. -/
def State.nextToSend (s : State) (p : Nat) : List Packet → List (Nat × Nat) → Nat → Option Nat
  | [], _, _ => none
  | k :: t, blocked, i =>
    let key := (codeVc k.opcode, k.ctx)
    if blocked.contains key then s.nextToSend p t blocked (i + 1)
    else if s.maySend p k then some i
    else s.nextToSend p t (key :: blocked) (i + 1)

/-- The first virtual channel with credits owed to the partner: its number and the units, at most 255 a header. -/
def Port.owedNow (q : Port) : Nat × Nat :=
  if q.state == .hold then (3, 0)
  else match (List.range 3).find? fun v => q.owed.getD v 0 != 0 with
    | some v => (v, min 255 (q.owed.getD v 0))
    | none => (3, 0)

/-- The ack a port would give: cumulative number and bitmap (R279). -/
def Port.ackOf (q : Port) : Nat × Nat :=
  ((q.rxNext + 4095) % 4096,
   ((q.reorder.map fun c => (c.seq + 4096 - q.rxNext) % 4096).eraseDups.filter (· < 64)).map (2 ^ ·) |>.sum)

/-- A cell leaves on the wire, with a wrong link CRC when the fault of kind 0 is armed and it carries nothing of a confidential context
(R302, R514). -/
def State.transmit (s : State) (p : Nat) (conf : Bool) (wire : Bytes) : State :=
  if (s.port p).injArm && (s.port p).injKind == 0 && !conf then
    ((s.modPort p fun q => { q with injArm := false }).injected 0x0B p).emit (.cell p (wire.modify (wire.length - 1) (· ^^^ 1)))
  else s.emit (.cell p wire)

/-- A sequenced cell leaves (R277): numbered, held for replay, counted, credits spent and returned, ack carried, shaper
charged. -/
def State.sendCell (s : State) (p : Nat) (k : Packet) : State :=
  let q := s.port p
  let vc := codeVc k.opcode
  let (cv, cu) := q.owedNow
  let ackNow := codePayload k.opcode && q.ackDue
  let a := q.ackOf
  let cell : Cell := { seq := q.txSeq, vc, credits := cu, creditVc := cv, pkt := k, ackValid := ackNow,
                       ackCum := if ackNow then a.1 else 0, ackBitmap := if ackNow then a.2 else 0 }
  let conf := s.ctxConf k.ctx
  let s := s.modPort p fun q => { q with
    txSeq := (q.txSeq + 1) % 4096
    replay := q.replay ++ [{ cell, sentAt := s.clk.timer }]
    credits := q.credits.modify vc (· - cellCost k.opcode)
    owed := q.owed.modify cv (· - cu)
    ackDue := q.ackDue && !ackNow
    txCells := if conf then q.txCells else satInc 32 q.txCells
    cellsSinceReset := q.cellsSinceReset + 1
    lastSentAt := s.clk.elapsed }
  let s := s.modCtx k.ctx fun c => { c with cellsSent := c.cellsSent + 1 }
  let s := if vc = 2 then s else
    let cost (h : Shaper) : Nat := ((if codePayload k.opcode then 128 else 32) + h.overhead) * 1024
    let charge (l : List Shaper) : List Shaper := l.map fun h => if h.ctx = k.ctx ∧ h.rate ≠ 0 then { h with credit := h.credit - cost h } else h
    { s with sched := { s.sched with shapers := Tab.modify [] s.sched.shapers p charge } }
  s.transmit p conf (cellWire cell)

/-- The transmit side works while it can: at most `n` cells. -/
def State.pumpN (s : State) (p : Nat) : Nat → State
  | 0 => s
  | n + 1 =>
    match s.nextToSend p (s.port p).txQ [] 0 with
    | some i =>
      match (s.port p).txQ[i]? with
      | some k => State.pumpN ((s.modPort p fun q => { q with txQ := q.txQ.eraseIdx i }).sendCell p k) p n
      | none => s
    | none => s

/-- Lanes of a width. -/
def widthLanes (w : Nat) : Nat := if w = 3 then 4 else w

/-- Transmit slots of a port that begin from time `a` up to time `b`, in ns: one in 0.64 ns at S1 x4, at lower rates fewer (R263). -/
def Port.slots (q : Port) (a b : Nat) : Nat :=
  let period := 64 * (4 / max 1 (widthLanes q.width)) * 2 ^ (q.speed - 1)
  100 * b / period - 100 * a / period

/-- The slots in which cells waited, up to time `now`: without credits, and behind a shaper of negative credit (R301, R323). -/
def Port.tally (q : Port) (now : Nat) : Port :=
  let n (t : Option Nat) : Nat := match t with | some t => q.slots t now | none => 0
  let on (t : Option Nat) : Option Nat := t.map fun _ => now
  { q with stallReq := satAdd 32 q.stallReq (n (q.stallSince.getD 0 none)), stallRsp := satAdd 32 q.stallRsp (n (q.stallSince.getD 1 none)),
           stallByp := satAdd 32 q.stallByp (n (q.stallSince.getD 2 none)), shpWaits := satAdd 32 q.shpWaits (n q.shpSince),
           stallSince := q.stallSince.map on, shpSince := on q.shpSince }

/-- A queued cell is ready and lacks credits; those of confidential contexts are not counted (R301, R335). -/
def State.stalled (s : State) (p : Nat) (k : Packet) : Bool := !s.ctxConf k.ctx && s.portServes p k.ctx && !s.hasCredits p k

/-- A queued cell waits behind its shaper's negative credit (R323). -/
def State.shaped (s : State) (p : Nat) (k : Packet) : Bool :=
  !s.ctxConf k.ctx && codeVc k.opcode != 2 && (match s.shaper p k.ctx with | some h => decide (h.credit < 0) | none => false)

/-- What waits at a port from now on. -/
def State.markWaits (s : State) (p : Nat) : State :=
  let q := s.port p
  let since (b : Bool) : Option Nat := if b && q.state == .active then some s.clk.elapsed else none
  let vc (v : Nat) : Option Nat := since (q.txQ.any fun k => codeVc k.opcode == v && s.stalled p k)
  let held := since (q.txQ.any fun k => s.shaped p k)
  s.modPort p fun q => { q with stallSince := [vc 0, vc 1, vc 2], shpSince := held }

/-- The transmit side works, and the waits up to now and from now on are kept. -/
def State.pump (s : State) (p : Nat) : State :=
  ((s.modPort p (·.tally s.clk.elapsed)).pumpN p ((s.port p).txQ.length + 1)).markWaits p

/-- A packet joins a port's transmit queue. -/
def State.queueOut (s : State) (p : Nat) (k : Packet) : State :=
  (s.modPort p fun q => { q with txQ := q.txQ ++ [k] }).pump p

/-- A packet this device sources: stamped with the active route version, sealed, queued. The reason where it cannot leave
(R283, R291, R299). -/
def State.source (s : State) (k : Packet) : State × Option Nat :=
  let k := { k with src := s.routing.localIdx, routeEpoch := s.routeActive == 1, hops := 0 }
  match s.way s.routeActive k.dst k.ctx with
  | .out p =>
    match s.sealed p k with
    | (s, some k) => (s.queueOut p k, none)
    | (s, none) => (s, some 0xE)
  | .down _ => (s, some 0xB)
  | _ => (s, some 0xD)

/-- A fresh transaction ID for a request or probe of this device. -/
def State.newTxn (s : State) : State × Nat := ({ s with nextTxn := (s.nextTxn + 1) % 2 ^ 32 }, s.nextTxn)

/-- A request of this device towards another endpoint: kept until it ends (R287). -/
def State.request (s : State) (k : Packet) (tile reply : Option Nat) : State × Option Nat :=
  let (s, t) := s.newTxn
  let k := { k with txn := t }
  let (s, r) := s.source k
  match r with
  | some e => (s, some e)
  | none =>
    let p := match s.way s.routeActive k.dst k.ctx with | .out p => p | _ => 0
    ({ s with openReqs := s.openReqs ++ [{ pkt := k, port := p, lastHeard := s.clk.timer, tile, reply }] }, none)

/-- A link-control cell leaves, with the credits its header returns (Table 9.6, R275). -/
def State.sendControl (s : State) (p kind : Nat) (body : Bytes) : State :=
  let (cv, cu) := (s.port p).owedNow
  (s.modPort p fun q => { q with owed := q.owed.modify cv (· - cu), lastSentAt := s.clk.elapsed }).transmit p false (controlWire kind body cu cv)

/-! ## Answers to requesters -/

/-- What answers a request of `r`: a fabric packet, or the host's completion (R114, R286, R388, R389). An internal requester's
answer has no packet. -/
def State.answer (s : State) (c : Completion) : State :=
  let r := c.req
  match r.src with
  | none => s
  | some ep =>
    if ep = 0x7FFF then
      match c.op with
      | .gntS => s.emit (.hostData c.data false 3)
      | .gntE | .gntM => s.emit (.hostData c.data false 2)
      | .dataNc => s.emit (.hostData c.data false 0)
      | .err =>
        match r.op with
        | .rdShared | .rdOwn | .rdCur => (s.emit (.hostData (zeros 64) true 0)).cxlEvent 2 0 r.addr c.reason
        | _ => (s.emit .hostCmp).cxlEvent 2 0 r.addr c.reason
      | _ => s.emit .hostCmp
    else
      (s.source { opcode := msgCode c.op, dst := ep, ctx := r.holder, txn := r.txn, addr := r.addr,
                  reason := if c.op = .err then c.reason else 0, aux := c.aux, payload := c.data }).1

/-! ## Link down (R281-R283, R269) -/

/-- A reply whose write of transaction `x` failed: counted as undelivered once, its writes forgotten (R46). -/
def State.replyFailed (s : State) (x : Nat) : State :=
  match s.openReplies.find? fun o => o.txns.contains x with
  | none => s
  | some o =>
    ({ s with openReplies := s.openReplies.erase o,
              openReqs := s.openReqs.filter fun (r : OpenReq) => !(r.reply.isSome && o.txns.contains r.pkt.txn) }).undeliver o.stage o.ctx

/-- A reply's write of transaction `x` is complete: the reply's `WRITE_FILL` follows, or the reply is done when no write is open (R42). -/
def State.replyEnds (s : State) (x : Nat) : State :=
  match s.openReplies.find? fun o => o.txns.contains x with
  | none => s
  | some o =>
    let left := o.txns.filter (· != x)
    let keep (o' : OpenReply) (t : State) : State := { t with openReplies := t.openReplies.map fun r => if r = o then o' else r }
    match o.fill with
    | some k =>
      match s.request k none (some o.stage) with
      | (t, none) => keep { o with txns := [(t.nextTxn + 2 ^ 32 - 1) % 2 ^ 32], fill := none } t
      | (t, some _) => ({ t with openReplies := t.openReplies.erase o }).undeliver o.stage o.ctx
    | none => if left = [] then { s with openReplies := s.openReplies.erase o } else keep { o with txns := left } s

/-- An open request of this device ends with a reason of the device's own: a failed reply write is counted, any other requester gets a
synthetic `ERR` (R282, R287). -/
def State.requestLost (s : State) (q : OpenReq) (reason : Nat) : State :=
  if q.reply.isSome then s.replyFailed q.pkt.txn
  else
    let me := s.routing.localIdx
    { s with inbox := s.inbox ++ [({ opcode := msgCode .err, src := me, dst := me, ctx := q.pkt.ctx, txn := q.pkt.txn, addr := q.pkt.addr,
                                     reason } : Packet)] }

/-- A port drops its queues and buffers; each dropped request of this device ends with `LINK_DOWN` (R282). -/
def State.dropQueues (s : State) (p : Nat) : State :=
  let q := s.port p
  let dropped := q.txQ ++ q.replay.map (·.cell.pkt)
  let lost := s.openReqs.filter fun (r : OpenReq) => dropped.any fun k => k.txn == r.pkt.txn && k.dst == r.pkt.dst && k.opcode == r.pkt.opcode &&
    k.src == s.routing.localIdx
  let s := s.modPort p fun q => { q.tally s.clk.elapsed with txQ := [], replay := [], reorder := [], credits := [0, 0, 0], owed := [0, 0, 0],
                                                             ackDue := false, stallSince := [none, none, none], shpSince := none }
  lost.foldl (fun t r => t.requestLost r 0xB) s

/-- A port enters `down`, to leave it `delay` ns later (Table 9.2). -/
def State.portDown (s : State) (p delay : Nat) : State :=
  (s.dropQueues p).modPort p fun q => { q with state := .down, width := 0, speed := 0, laneMap := [], resetting := false, rxLanes := [], enteredAt := s.clk.elapsed,
                                                retryAt := s.clk.elapsed + delay, partnerSeen := false, holdCause := 0 }

/-- The code of a link state (Table 9.15). -/
def linkCode : LinkState → Nat
  | .down => 0 | .detect => 1 | .train => 2 | .check => 3 | .active => 4 | .hold => 5 | .retrain => 6

/-- A port leaves `active`, `hold` or `retrain` for `down`: counted, raised, logged (R281). In any other state it only enters `down`. -/
def State.linkDown (s : State) (p : Nat) : State :=
  let st := (s.port p).state
  if st.takes then
    (((s.portDown p 0).modPort p fun q => { q with linkDowns := satInc 16 q.linkDowns, downsSinceReset := q.downsSinceReset + 1 }).rise
      (srcLinkDown p)).log 0x0501 none none (natLE 1 p ++ natLE 1 (linkCode st))
  else if st == .down then s
  else s.portDown p 0

/-- Fields of a topology entry (Table 14.7). -/
def topoExpected (w : Nat) : Bool := bit w 15
def topoPartner (w : Nat) : Nat := bits w 0 15
def topoPort (w : Nat) : Nat := bits w 16 5
def topoMgmt (w : Nat) : Bool := bit w 21

/-- The topology entry of a port in the governing version. -/
def State.topo (s : State) (p : Nat) : Nat := Tab.get 0 s.governing.topology p

/-- The port classes follow the governing topology table, and a port that it does not expect is held `down` (R417, Table 14.7). -/
def State.setClasses (s : State) : State :=
  (List.range 32).foldl (fun t p =>
    let w := t.topo p
    let t := t.modPort p fun q => { q with mgmt := topoMgmt w }
    if topoExpected w then t else t.linkDown p) s

end Sys2Proof.Machine
end

