-- ==== Sys2Proof/Machine/Home.lean ====
section
/-! DEFINITION. The home of a line: directory entries, probes, the line's queue and its serving by Table 6.4, sync words,
armed plans, triple-placed lines (chapters 6 and 12). -/

set_option Elab.async false

namespace Sys2Proof.Machine

/-! ## Parts of a slice -/

/-- The directory set of a line (R158). -/
def dirSet (l : Nat) : Nat :=
  let d := 64 * l
  (d / 2 ^ 6 % 2 ^ 14) ^^^ (d / 2 ^ 20 % 2 ^ 13 * 2)

/-- A set's key over all slices. -/
def setKey (l : Nat) : Nat := homeTile l * 16384 + dirSet l

def State.dirEnt (s : State) (l : Nat) : Option DirEnt := Tab.get none s.dir l
def State.setDir (s : State) (l : Nat) (e : Option DirEnt) : State := { s with dir := Tab.set none s.dir l e }
def State.lock (s : State) (l : Nat) : Option Lock := Tab.get none s.locks l
def State.modLock (s : State) (l : Nat) (f : Lock → Lock) : State := { s with locks := Tab.modify none s.locks l (Option.map f) }

/-- The region that a line's cord belongs to. -/
def State.regionOf (s : State) (l : Nat) : Option Region := s.region (s.lineRegion l)

/-- Whose pools a line's traffic draws on: the definer of an isolated-class region, else the shared class (R176). -/
def State.poolKey (s : State) (l : Nat) : Nat :=
  match s.regionOf l with
  | some r => if r.isolated then r.definer else ownerShared
  | none => ownerShared

/-- The way mask of a context's partition in a slice. -/
def State.partition (s : State) (i c : Nat) : Option Partition := s.partitions.find? fun p => p.slice == i && p.ctx == c

/-- Bits set in a 16-bit mask. -/
def maskCount (m : Nat) : Nat := ((List.range 16).filter fun i => bit m i).length

/-- The share of a slice pool of `size` entries that `key` draws on (R333). -/
def State.poolShare (s : State) (i key size : Nat) : Nat :=
  let of (p : Partition) : Nat := size * maskCount p.mask / 16
  if key = ownerShared then size - ((s.partitions.filter (·.slice == i)).map of).sum
  else match s.partition i key with
    | some p => of p
    | none => 0

/-- The ways in which a line's entry may lie (R175). -/
def State.wayMask (s : State) (l : Nat) : Nat :=
  let k := s.poolKey l
  if k = ownerShared then (s.slice (homeTile l)).wayShared
  else match s.partition (homeTile l) k with
    | some p => p.mask
    | none => 0

/-- Line locks of a slice in use by `key`. -/
def State.locksUsed (s : State) (i key : Nat) : Nat :=
  (s.locks.filter fun p => homeTile p.1 == i && s.poolKey p.1 == key).length

/-- Sharer records of a slice in use by `key` (mode 1 entries). -/
def State.recordsUsed (s : State) (i key : Nat) : Nat :=
  (s.dir.filter fun p => homeTile p.1 == i && ((p.2.map (·.mode)).getD 0 == 1) && s.poolKey p.1 == key).length

/-- A sync region's sync word area: the first 32 MiB of each cord (R181). -/
def State.syncArea (s : State) (dpa : Nat) : Bool :=
  (match s.regionOf (dpa / 64) with | some r => r.sync | none => false) && decide (dpa % 2 ^ 28 < 2 ^ 25)

/-- The cords of the granule that a line's cord belongs to, the home first (R107, R179). -/
def State.granuleOf (s : State) (l : Nat) : List Nat :=
  match s.regionOf l with
  | none => [lineCord l]
  | some r => (r.granules.find? (·.contains (lineCord l))).getD [lineCord l]

/-- A line of a triplet (R373, R374). -/
def State.isTriple (s : State) (l : Nat) : Bool := decide (1 < (s.granuleOf l).length)

/-- No agent caches the line: sync word area or triple-placed region (R182, R375). -/
def State.uncachable (s : State) (l : Nat) : Bool := s.syncArea (64 * l) || s.isTriple l

/-! ## Sharers (R159-R161) -/

/-- The endpoints a directory entry names: owner or sharers; in coarse mode every known agent endpoint of a marked
group: those of the contexts' sender ranges, and the host (log 88). -/
def State.holdersOf (s : State) (e : DirEnt) : List Nat :=
  if e.mode = 2 then
    let known := (s.ctxs.flatMap fun p => match p.2 with
      | some c => c.senders.flatMap fun r => (List.range r.2).map (r.1 + ·)
      | none => []) ++ [0x7FFF]
    (known.filter fun ep => e.groups.contains (ep / 512)).eraseDups
  else e.sharers

/-- The entry with a sharer added; true when it becomes coarse. -/
def DirEnt.add (e : DirEnt) (ep : Nat) (recordFree : Bool) : DirEnt × Bool :=
  if e.mode = 2 then ({ e with groups := if e.groups.contains (ep / 512) then e.groups else e.groups ++ [ep / 512] }, false)
  else if e.sharers.contains ep then (e, false)
  else
    let l := e.sharers ++ [ep]
    if l.length ≤ 2 then ({ e with sharers := l, mode := 0 }, false)
    else if l.length ≤ 64 && (e.mode == 1 || recordFree) then ({ e with sharers := l, mode := 1 }, false)
    else ({ e with sharers := [], mode := 2, groups := (l.map (· / 512)).eraseDups }, true)

/-- The line's entry with a sharer added, each change to coarse mode counted (R160, R161). -/
def State.addSharer (s : State) (l : Nat) (e : DirEnt) (ep : Nat) : State :=
  let i := homeTile l
  let key := s.poolKey l
  let (e, coarse) := e.add ep (decide (s.recordsUsed i key < s.poolShare i key 4096))
  let s := s.setDir l (some e)
  if coarse then s.modSlice i fun x => { x with coarse := satInc 32 x.coarse } else s

/-- The entry without a sharer; none when nobody is left. A coarse entry keeps its groups. -/
def DirEnt.drop (e : DirEnt) (ep : Nat) : Option DirEnt :=
  if e.mode = 2 then some e
  else
    let l := e.sharers.filter (· != ep)
    if l = [] then none else some { e with sharers := l, mode := if l.length ≤ 2 then 0 else 1 }

/-- Entries of a line's set. -/
def State.setEntries (s : State) (l : Nat) : List (Nat × DirEnt) :=
  s.dir.filterMap fun p => match p.2 with
    | some e => if setKey p.1 = setKey l then some (p.1, e) else none
    | none => none

/-- The highest age that no other entry of a line's set has. -/
def State.spareAge (s : State) (l : Nat) : Nat :=
  let used := ((s.setEntries l).filter (·.1 != l)).map (·.2.age)
  ((List.range 16).filter (!used.contains ·)).getLast?.getD 0

/-- The entry most recently used in its set (Table 6.1): its age is 15, and the ages above a spare one move down, so that the ages of
a set stay distinct and in the order of use. -/
def State.touch (s : State) (l : Nat) : State :=
  match s.dirEnt l with
  | none => s
  | some _ =>
    let v := s.spareAge l
    let k := setKey l
    { s with dir := s.dir.map fun p => (p.1, p.2.map fun x =>
        if p.1 = l then { x with age := 15 } else if setKey p.1 = k ∧ v < x.age then { x with age := x.age - 1 } else x) }

/-- A free way of the line's mask, given to no other line's head (R173). -/
def State.freeWay (s : State) (l : Nat) : Option Nat :=
  let used := (s.setEntries l).map (·.2.way) ++
    s.locks.filterMap fun p => if setKey p.1 = setKey l then p.2.bind fun (k : Lock) => k.way else none
  (List.range 16).find? fun w => bit (s.wayMask l) w && !used.contains w

/-- The victim in the line's mask: no lock, least recently used (R173, R174). -/
def State.victim (s : State) (l : Nat) : Option Nat :=
  let c := (s.setEntries l).filter fun p => bit (s.wayMask l) p.2.way && (s.lock p.1).isNone
  (c.foldl (fun (b : Option (Nat × Nat)) p =>
    match b with
    | some (_, a) => if p.2.age < a then some (p.1, p.2.age) else b
    | none => some (p.1, p.2.age)) none).map (·.1)

/-! ## Completions and the resend table (R114, R290) -/

/-- Requests that take effect only once. -/
def onceOnly : MsgOp → Bool
  | .wb | .wrInv | .wrPart | .accLine | .writeFill | .readDrain | .addSat => true
  | _ => false

/-- A fabric endpoint's request: neither internal nor the host's. -/
def Req.fromFabric (r : Req) : Bool :=
  match r.src with
  | some ep => ep != 0x7FFF
  | none => false

/-- The point number of a stage's reply writes. -/
def replyPoint (h : Nat) : Nat := 0xC000 + h

/-- A reply write of stage `h` ends at its home: one that ends in error leaves its reply undelivered, which counts once for the two writes
of a sync-word reply (R42, R46). -/
def State.replyWritten (s : State) (m : Req) (op : MsgOp) : State :=
  let h := m.point - 0xC000
  if m.op = .wrPart ∧ m.aux = 32 then (if op = .err then s.undeliver h m.holder else s)
  else if op = .err then s.replyFailed m.txn
  else s.replyEnds m.txn

/-- A request ends at the home with `op`: its completion starts back, and the resend table keeps it. A command reply that
ends in error is undelivered (R46). -/
def State.finish (s : State) (m : Req) (op : MsgOp) (reason aux : Nat) (data : Bytes) : State :=
  match m.src with
  | none => if 0xC000 ≤ m.point then s.replyWritten m op else s
  | some ep =>
    let c : Completion := { req := m, op, reason, aux, data }
    let i := homeTile (m.dpa / 64)
    let s := { s with completions := s.completions ++ [c] }
    if m.fromFabric && onceOnly m.op then
      { s with resends := s.resends.map fun e =>
          if e.slice = i ∧ e.src = ep ∧ e.txn = m.txn then { e with done := some c, storedAt := s.clk.elapsed } else e }
    else s

/-! ## Probes (R165, R166, R171) -/

/-- A probe leaves: a fabric message to an agent, a back-invalidate snoop to the host (R178), with the context of the request
that caused it (R284). An armed recall timeout discards the answer of the next RECALL or DOWNGRADE of the slice, but clears
its arm on a confidential line (R513, R514). -/
def State.sendProbe (s : State) (l : Nat) (m : Req) (p : ProbeKind × Nat) : State × Probe :=
  let (s, t) := s.newTxn
  let i := homeTile l
  let arm := s.diag.injArm && s.diag.injKind == 4 && s.diag.injUnit == i && p.1 != .inv
  let s := if arm then { s with diag := { s.diag with injArm := false } } else s
  let hit := arm && !s.lineConf l
  let s := if hit then s.injected 0x23 i else s
  let op : MsgOp := match p.1 with | .recall => .recall | .downgrade => .downgrade | .inv => .inv
  let s := if p.2 = 0x7FFF then s.emit (.snoop l (p.1 != .downgrade))
           else (s.source { opcode := msgCode op, dst := p.2, ctx := if m.holder < 4096 then m.holder else 0, txn := t,
                            addr := s.poolOf (64 * l) % 2 ^ 48 }).1
  (s, { kind := p.1, target := p.2, txn := t, sentAt := s.clk.timer, discard := hit })

/-- Sends probes for the head request and starts T_recall (R169, R171). -/
def State.sendProbes (s : State) (l : Nat) (m : Req) (ts : List (ProbeKind × Nat)) : State :=
  let (s, ps) := ts.foldl (fun (a : State × List Probe) t => let (s, p) := a.1.sendProbe l m t; (s, a.2 ++ [p])) (s, [])
  let t := (s.slice (homeTile l)).recallTo * 1000
  s.modLock l fun k => { k with probes := ps, deadline := s.clk.timer + t, probed := true }

/-- The probes Table 6.4 needs before the head request can be performed. `recall` and `inv` are internal: an eviction or a
sweep of every copy, and a sweep of one holder's copies (R121, R126, R173). A request of the recorded owner itself probes it like any
other: its WB, EVICT or RSP_NONE settles what it still holds. -/
def State.conflicts (s : State) (l : Nat) (m : Req) : List (ProbeKind × Nat) :=
  match s.dirEnt l with
  | none => []
  | some e =>
    let hs := s.holdersOf e
    let own (k : ProbeKind) : List (ProbeKind × Nat) := (e.sharers.take 1).map fun x => (k, x)
    let inv (keep : Bool) : List (ProbeKind × Nat) := (hs.filter fun x => !(keep && m.src == some x)).map fun x => (.inv, x)
    let uncached := s.uncachable l
    match m.op, e.state with
    | .rdShared, .S | .rdCur, .S | .wb, _ | .evict, _ => []
    | .rdShared, _ => own .downgrade
    | .rdCur, _ => own .downgrade
    | .rdOwn, .S | .upgrade, .S => if uncached then [] else inv true
    | .rdOwn, _ | .upgrade, _ => own .recall
    | .inv, .S =>
      (hs.filter fun x => if m.holder = 4096 then x == 0x7FFF else x != 0x7FFF && ((s.ctx m.holder).map (·.hasSender x)).getD false).map
        fun x => (.inv, x)
    | .inv, _ =>
      match e.sharers with
      | x :: _ =>
        if (if m.holder = 4096 then x == 0x7FFF else x != 0x7FFF && ((s.ctx m.holder).map (·.hasSender x)).getD false) then [(.recall, x)] else []
      | [] => []
    | _, .S => inv false
    | _, _ => own .recall

/-! ## Line data, triple-placed lines (R376, R377) -/

/-- The copies of a line of a triplet that are present: the line numbers with their place in triplet order. -/
def State.copies (s : State) (l : Nat) : List (Nat × Nat) :=
  let cs := s.granuleOf l
  ((List.range cs.length).zip cs).filterMap fun (i, c) =>
    if (s.chan (cordChan c)).state == .retired || (s.chan (cordChan c)).state == .fenced || s.hearthLost (chanHearth (cordChan c)) then none
    else some (i, cordLine c + l % 2 ^ 22)

/-! ## Moving cords: a block already copied is written at the destination too (R129) -/

/-- The lines that mirror line `l` while its cord moves. -/
def State.mirrors (s : State) (l : Nat) : List Nat :=
  let c := s.cord (lineCord l)
  if c.state == .migrating && decide (l % 2 ^ 22 / 64 < c.copied) then
    (c.dest.toList ++ c.extraDest).map fun n => cordLine n + l % 2 ^ 22
  else []

/-- A full-line write at a home, and at the destination of a moving cord. -/
def State.lineWrite (s : State) (l : Nat) (data : Bytes) : State × Option Nat :=
  let (t, r) := s.writeLine l data
  ((s.mirrors l).foldl (fun t m => (t.writeLine m data).1) t, r)

/-- A partial write at a home, and at the destination of a moving cord. -/
def State.linePartial (s : State) (l ctx : Nat) (data : Bytes) (mask : List Bool) : State × Option Nat :=
  let (t, r) := s.writePartial l ctx data mask
  ((s.mirrors l).foldl (fun t m => (t.writePartial m ctx data mask).1) t, r)

/-- A line that an owner returned, or cinder, goes to DRAM through the writeback port (R64): at once when nothing waits at the channel, else
behind what does. -/
def State.queueLine (s : State) (l ctx : Nat) (d : Option Bytes) : State :=
  let q : MemReq := { port := 2, line := l, entered := s.clk.elapsed, owner := s.party ctx, ctx, write := some (d.getD []), cinder := d.isNone }
  if s.chanOpen l false && (s.chan (lineChan l)).waiting == [] then
    match d with
    | some b => (s.lineWrite l b).1
    | none => (s.mirrors l).foldl (fun t m => t.makeCinder m) (s.makeCinder l)
  else s.modChan (lineChan l) fun c => { c with waiting := c.waiting ++ [q] }

/-- A line made cinder at a home, and at the destination of a moving cord. -/
def State.lineCinder (s : State) (l : Nat) : State :=
  (s.mirrors l).foldl (fun t m => t.makeCinder m) (s.makeCinder l)

/-- A mismatch or no majority at a triplet vote (Table 12.4). -/
def State.tripletMismatch (s : State) (l i : Nat) : State :=
  let s := { s with triplex := { s.triplex with dataMismatch := satInc 32 s.triplex.dataMismatch } }
  (s.log 0x0805 none (some (64 * l)) (natLE 1 i)).rise 0x258

/-- All copies of a triple-placed line are written, with the armed fault of kind 8 on one of them (R376, R513). -/
def State.writeCopies (s : State) (l : Nat) (data : Bytes) : State × Option Nat :=
  let arm := s.diag.injArm && s.diag.injKind == 8 && decide (s.diag.injAddr / 64 = s.poolOf (64 * l) / 64)
  let s := if arm then { s with diag := { s.diag with injArm := false } } else s
  let hit := arm && !s.lineConf l
  let s := if hit then s.injected 0x27 0 else s
  (s.copies l).foldl (fun (a : State × Option Nat) c =>
    let d := if hit && decide (c.1 = s.diag.injParam % 4) then (padTo 64 data).modify 0 (· ^^^ 0xFF) else data
    let (t, r) := a.1.lineWrite c.2 d
    (t, match a.2 with | some x => some x | none => r)) (s, if s.copies l = [] then some 5 else none)

/-- The voted read of a triple-placed line (Table 12.4). -/
def State.readVote (s : State) (l : Nat) (ctx : Option Nat) : State × LineRead :=
  match s.copies l with
  | [] => (s, .bad 5)
  | [c] => s.readLine c.2 ctx
  | cs =>
    let (s, rs) := cs.foldl (fun (a : State × List (Nat × Nat × LineRead)) c =>
      let (t, r) := a.1.readLine c.2 ctx
      (t, a.2 ++ [(c.1, c.2, r)])) (s, [])
    let usable := rs.filterMap fun r => match r.2.2 with | .data d => some d | .bad _ => none
    match usable.find? fun d => decide (2 ≤ usable.count d) with
    | some d =>
      (rs.foldl (fun t r => if r.2.2 = .data d then t else
        match r.2.2 with
        | .bad 5 | .bad 6 => t
        | _ => ((t.lineWrite r.2.1 d).1).tripletMismatch l r.1) s, .data d)
    | none =>
      if 2 ≤ (rs.filter fun r => r.2.2 == .bad 2).length then
        (rs.foldl (fun t r => if r.2.2 = .bad 2 then t else t.lineCinder r.2.1) s, .bad 2)
      else
        let s := rs.foldl (fun t r => t.lineCinder r.2.1) s
        let s := { s with triplex := { s.triplex with dataNoMaj := satInc 16 s.triplex.dataNoMaj } }
        ((s.log 0x0806 none (some (64 * l)) []).lineError l 0x0101 1 ctx |>.rise 0x258, .bad 1)

/-- A line read by its home, which marks its entry as used (Table 6.1): voted when triple-placed. -/
def State.homeRead (s : State) (l : Nat) (ctx : Option Nat) : State × LineRead :=
  if s.isTriple l then s.readVote l ctx else (s.touch l).readLine l ctx

/-- The channels of a line take an access that the home makes itself now (R63, R66, R74, R83); `part`: one that enters the merge buffer. -/
def State.lineOpen (s : State) (l : Nat) (part : Bool) : Bool :=
  if s.isTriple l then (s.copies l).all fun c => s.chanOpen c.2 part else s.chanOpen l part

/-- A full line written by its home. -/
def State.homeWrite (s : State) (l : Nat) (data : Bytes) : State × Option Nat :=
  if s.isTriple l then s.writeCopies l data else s.lineWrite l data

/-- A line made cinder by its home: every copy of a triple-placed line (R377). -/
def State.homeCinder (s : State) (l : Nat) : State :=
  if s.isTriple l then (s.copies l).foldl (fun t c => t.lineCinder c.2) s else s.lineCinder l

/-- A partial update by the home; a triple-placed line is read, merged and written whole (R376). -/
def State.homePartial (s : State) (l ctx : Nat) (data : Bytes) (mask : List Bool) : State × Option Nat :=
  if s.isTriple l then
    match s.readVote l (some ctx) with
    | (s, .data u) => s.writeCopies l (maskMerge u data mask)
    | (s, .bad r) => (s, some r)
  else s.linePartial l ctx data mask

/-- The mask of `len` bytes from `off`. -/
def spanMask (off len : Nat) : List Bool := (List.range 64).map fun i => decide (off ≤ i) && decide (i < off + len)

/-- Bytes placed at `off` of an empty line. -/
def placed (off : Nat) (d : Bytes) : Bytes := padTo 64 (zeros off ++ d)

/-! ## Armed plans (R211-R213) -/

/-- The next run number (R207). -/
def nextRunNumber (n : Nat) : Nat := if n = 0xFFFFFFFF then 1 else n + 1

/-- A run of a plan starts: a start, sent from a home's router or a control unit's with the network time of its cause, multicast to every Ember
of its mask (R208, R211, R212, R297). -/
def State.startRun (s : State) (k : Nat) (p : Plan) (triggered : Bool) (cmd : Option (Nat × Nat)) (st : PlanState) (origin time : Nat) : State :=
  let s := s.modPlan k fun p => { p with state := st, nextRun := nextRunNumber p.nextRun, active := some { number := p.nextRun, cmd } }
  { s with starts := s.starts ++ (multicast origin p.tiles).map fun t => { plan := k, number := p.nextRun, tile := t.1, time, triggered } }

/-- An arm entry fires: a start, a held trigger, or an overrun (R211, R213). -/
def State.fireArm (s : State) (a : Arm) : State :=
  match s.plan a.plan with
  | none => s
  | some p =>
    match p.state with
    | .armed =>
      let s := if a.rearm then s else { s with arms := s.arms.filter (· != a) }
      s.startRun a.plan p true none (if a.rearm then .armedRunning else .running) (homeTile (a.word / 64)) s.clk.nt
    | .armedRunning =>
      if a.held then
        let n := satInc 16 p.overruns
        let s := s.modPlan a.plan fun p => { p with overruns := n, overrunLogged := some (s.clk.nt / 1000000) }
        if firstInMs s.clk.nt p.overrunLogged then s.log 0x0402 (some a.ctx) none (natLE 2 a.plan ++ natLE 2 n) else s
      else { s with arms := s.arms.map fun x => if x = a then { x with held := true, filledAt := s.clk.nt } else x }
    | _ => s

/-! ## Sync words (R181-R186) -/

def State.word (s : State) (w : Nat) : Shadow := Tab.get {} s.shadow (w / 8)
def State.setWord (s : State) (w : Nat) (x : Shadow) : State := { s with shadow := Tab.set {} s.shadow (w / 8) x }

/-- The flag set, each change counted (R184). -/
def State.setFlag (s : State) (w : Nat) : State :=
  if (s.word w).flag then s
  else (s.setWord w { s.word w with flag := true }).modSlice (homeTile (w / 64)) fun x => { x with syncFlags := satInc 32 x.syncFlags }

/-- The status byte of a sync completion (R184). -/
def syncStatus (before after flag timedOut : Bool) : Nat := b2n before + 2 * b2n after + 4 * b2n flag + 8 * b2n timedOut

/-- A run at the start of its descriptor, of which nothing has been done. The time since which a WAIT has run is kept: its limit counts from
when the descriptor began (R203). -/
def Run.clean (r : Run) : Run :=
  { r with dirty := false, fault := none, faultSince := none, walking := none, progR := 0, progW := 0, progB := 0, progE := 0, ahead := [],
           got := [], remote := none }

/-- The run at the beginning of descriptor `n`. -/
def Run.at' (r : Run) (n : Nat) : Run := { r.clean with pc := n, waitSince := none }

/-- What the descriptor buffer of an Ember holds of a run: 128 descriptors of its plan from the plan position on (R193). -/
def State.descsOf (s : State) (r : Run) : List Bytes := ((s.plan r.plan).map fun (p : Plan) => (p.bytes.drop r.pc).take 128).getD []

/-- An Ember's descriptor is completed and its run passes on to descriptor `next`: the counters of R230, which leave confidential
runs out (R229). -/
def State.descDone (s : State) (t next : Nat) : State :=
  match (s.ember t).run with
  | none => s
  | some r =>
    let conf := s.ctxConf r.ctx
    (s.modEmber t fun e => { e with
      state := .running, descDone := if conf then e.descDone else satInc 32 e.descDone
      run := some { r.at' next with restarts := 0 }, descs := s.descsOf (r.at' next) }).modCtx r.ctx fun c => { c with descDone := c.descDone + 1 }

/-- An Ember's WAIT is served: its run passes on to the next descriptor (R203). -/
def State.waitServed (s : State) (t : Nat) : State :=
  match (s.ember t).run with
  | none => s
  | some r => s.descDone t (r.pc + 1)

/-- A waiting read of an Ember leaves its stamping point's in-flight count (R114). -/
def State.waitLeaves (s : State) (w : SyncWait) : State :=
  if w.req.src.isSome then s
  else { s with caches := Tab.modify [] s.caches w.req.point fun l => l.map fun e =>
      if e.holder = w.req.holder ∧ e.region = w.req.region then { e with inflight := e.inflight - 1 } else e }

/-- A waiting read ends: an Ember's WAIT goes on, or issues its read again when it timed out; any other requester gets its value
(R185, R186, R203). -/
def State.endWait (s : State) (w : SyncWait) (status : Nat) (value : Bytes) : State :=
  match w.req.src with
  | none =>
    let s := s.waitLeaves w
    if bit status 3 then s.modEmber w.req.txn fun e => { e with state := if e.state == .waiting then .running else e.state }
    else s.waitServed w.req.txn
  | some _ => s.finish w.req .syncVal 0 status value

/-- The word has become full: its waiting reads in arrival order, each READ_FULL, then the first READ_DRAIN which empties it
(R186). -/
def State.releaseWaits (s : State) (w : Nat) (value : Bytes) : List SyncWait → State
  | [] => s
  | x :: t =>
    if x.req.dpa = w then
      let s' := { s with syncWaits := s.syncWaits.filter (· != x) }
      if x.req.op = .readFull then State.releaseWaits (s'.endWait x (syncStatus true true (s.word w).flag false) value) w value t
      else (s'.setWord w { s.word w with full := false }).endWait x (syncStatus true false (s.word w).flag false) value
    else State.releaseWaits s w value t

/-- A fill that makes word `w` full: waiting reads released, armed plans fired (R186, R211). -/
def State.filled (s : State) (w : Nat) (value : Bytes) : State :=
  let s := s.setWord w { s.word w with full := true }
  let s := s.releaseWaits w value s.syncWaits
  (s.arms.filter (·.word == w)).foldl (fun t a => t.fireArm a) s

/-- What a sync operation answers: an error reason, a value with its status, or that it waits. -/
inductive SyncRes where
  | err (reason : Nat)
  | val (status : Nat) (value : Bytes)
  | waits
  deriving DecidableEq, Repr

/-- Shadow bits with bad parity: the line becomes cinder, its 8 words empty with clear flags (R181). -/
def State.shadowError (s : State) (w holder : Nat) : State :=
  let l := w / 64
  let g := lineChan l
  let s := s.lineCinder l
  let s := (List.range 8).foldl (fun t i => t.setWord (64 * l + 8 * i) {}) s
  let s := s.modChan g fun c => { c with ueCount := satInc 16 c.ueCount, ueSinceReset := c.ueSinceReset + 1 }
  (s.rise (srcMemUe (chanTile g))).log 0x0109 (if holder < 4096 then some holder else none) (some w) (natLE 2 g ++ natLE 4 (w % 2 ^ 28 / 8))

/-- The armed shadow-array fault of kind 3, on the next operation that reads the word's bits (R513, R514). -/
def State.shadowFault (s : State) (w : Nat) : State :=
  if s.diag.injArm && s.diag.injKind == 3 && decide (s.diag.injAddr / 8 = s.poolOf w / 8) then
    let s := { s with diag := { s.diag with injArm := false } }
    if s.lineConf (w / 64) then s
    else (s.setWord w { s.word w with badParity := true }).injected 0x22 (homeTile (w / 64))
  else s

/-- Waiting reads of a slice in use by `key` (R185). -/
def State.waitsUsed (s : State) (i key : Nat) : Nat :=
  (s.syncWaits.filter fun w => homeTile (w.req.dpa / 64) == i && s.poolKey (w.req.dpa / 64) == key).length

/-- A word's line read for a sync operation. -/
def State.readWord (s : State) (w holder : Nat) : State × Option Bytes × Nat :=
  match s.homeRead (w / 64) (some holder) with
  | (s, .data d) => (s, some ((d.drop (w % 64)).take 8), 0)
  | (s, .bad r) => (s, none, r)

/-- A word written, in its place in its line. -/
def State.writeWord (s : State) (w holder : Nat) (v : Bytes) : State × Option Nat :=
  s.homePartial (w / 64) holder (placed (w % 64) v) (spanMask (w % 64) 8)

/-- One sync operation on the word at DPA `w`, taken in its turn (Table 6.7). The full-after bit of one that fills the word is 1 also where a
waiting READ_DRAIN empties it at once (log 154). -/
def State.syncOp (s : State) (m : Req) : State × SyncRes :=
  let w := m.dpa
  if w % 8 != 0 || !s.syncArea w then (s, .err 9)
  else if (s.refusedLine (w / 64)).isSome then (s, .err 5)
  else
    let s := s.shadowFault w
    if (s.word w).badParity then (s.shadowError w m.holder, .err 1)
    else
      let full := (s.word w).full
      match m.op with
      | .writeFill =>
        match s.writeWord w m.holder (padTo 8 m.data) with
        | (s, some r) => (s, .err r)
        | (s, none) =>
          if full then
            let s := s.setFlag w
            (s, .val (syncStatus true true true false) [])
          else (s.filled w (padTo 8 m.data), .val (syncStatus false true (s.word w).flag false) [])
      | .addSat =>
        match s.readWord w m.holder with
        | (s, none, r) => (s, .err r)
        | (s, some v, _) =>
          let sum : Int := (leNat (v.take 4) : Int) + signed 32 (fieldAt m.data 0 4)
          let cl := clampInt 0 0xFFFFFFFF sum
          let n := cl.toNat
          let new := natLE 4 n ++ v.drop 4
          match s.writeWord w m.holder new with
          | (s, some r) => (s, .err r)
          | (s, none) =>
            let target := bit m.aux 0
            let s := if cl != sum then s.setFlag w else s
            let s := if target && full then s.setFlag w else s
            let fills := target && !full && decide (n = fieldAt m.data 4 4)
            let s' := if fills then s.filled w new else s
            (s', .val (syncStatus full (full || fills) (s.word w).flag false) (padTo 8 v))
      | _ =>
        if full then
          match s.readWord w m.holder with
          | (s, none, r) => (s, .err r)
          | (s, some v, _) =>
            let drain := m.op == .readDrain
            let s := if drain then s.setWord w { s.word w with full := false } else s
            (s, .val (syncStatus true (!drain) (s.word w).flag false) v)
        else
          let i := homeTile (w / 64)
          let key := s.poolKey (w / 64)
          if bit m.aux 0 && decide (s.waitsUsed i key < s.poolShare i key 1024) then
            ({ s with syncWaits := s.syncWaits ++ [{ req := m, deadline := s.clk.timer + (s.slice i).syncWait * 1000 }] }, .waits)
          else
            match s.readWord w m.holder with
            | (s, none, r) => (s, .err r)
            | (s, some v, _) => (s, .val (syncStatus false false (s.word w).flag false) v)

/-- 16 FP32 values added into a line, element by element (R241, R256). -/
def accAdd (line add : Bytes) : Bytes :=
  (List.range 16).flatMap fun i => natLE 4 (fp32Add (fieldAt line (4 * i) 4) (fieldAt add (4 * i) 4))

/-! ## Serving a line's queue (R169, Table 6.4) -/

/-- The head leaves its line's queue. -/
def State.popHead (s : State) (l : Nat) : State :=
  s.modLock l fun k => { k with queue := k.queue.drop 1, data := none, failed := none, reading := false, way := none, probed := false }

/-- The head waits for a channel access. -/
def State.headReads (s : State) (l : Nat) : State := s.modLock l fun k => { k with reading := true }

/-- The grant of a held way (R166, R170). -/
def State.grantLine (s : State) (l ep way : Nat) (st : LineState) : State :=
  s.setDir l (some { state := st, sharers := [ep], way, holdUntil := s.clk.elapsed + (s.slice (homeTile l)).minHold * 8 })

/-- An endpoint is an agent's: a sender of some context, or the host. -/
def State.agent (s : State) (ep : Nat) : Bool :=
  ep == 0x7FFF || s.ctxs.any fun p => (p.2.map fun (c : Ctx) => c.hasSender ep).getD false

/-- The traffic class of a request: the port of Table 3.4 it enters by. An Ember's request comes from inside the device, or from an
endpoint that is no agent; ACC_LINE is an Ember's alone (Table 6.2; log 137). -/
def State.reqPort (s : State) (m : Req) : Nat :=
  match m.src with
  | none => 1
  | some ep => if m.op = .accLine || !s.agent ep then 1 else 0

/-- What the head's channel read has given: its data or its error, or nothing yet. -/
inductive Fetch where
  | got (r : LineRead)
  | later
  deriving DecidableEq, Repr

/-- The head's read: it enters the channel's port and comes back through READ_DECODE, or is voted when triple-placed. -/
def State.fetch (s : State) (l : Nat) (m : Req) : State × Fetch :=
  match s.lock l with
  | none => (s, .later)
  | some k =>
    match k.data, k.failed with
    | some d, _ => (s, .got (.data d))
    | _, some r => (s, .got (.bad r))
    | _, _ =>
      if s.isTriple l then ({ s.headReads l with tripReads := s.tripReads ++ [m] }, .later)
      else
        let q : MemReq := { port := s.reqPort m, line := l, entered := s.clk.elapsed, owner := s.party m.holder, ctx := m.holder, dest := .home l }
        ((s.headReads l).modChan (lineChan l) fun c => { c with waiting := c.waiting ++ [q] }, .later)

/-- A read of the head by kind: its error, or its data with the grant. -/
def State.serveRead (s : State) (l : Nat) (m : Req) (ok : State → Bytes → State) : State × List Nat :=
  match s.fetch l m with
  | (s, .later) => (s, [])
  | (s, .got (.bad r)) => ((s.popHead l).finish m .err r 0 [], [l])
  | (s, .got (.data d)) => (ok (s.popHead l) d, [l])

/-- The way of a line's transaction: the one it already holds, else one that is free (R173). -/
def State.wayFor (s : State) (l : Nat) : Option Nat := ((s.lock l).bind (·.way)).or (s.freeWay l)

/-- An earlier request of the set's way-wait queue than `m` could take a free way (R174). -/
def State.wayAhead (s : State) (l : Nat) (m : Req) : Bool :=
  ((Tab.get [] s.wayWait (setKey l)).takeWhile (· != m)).any fun x => (s.freeWay (x.dpa / 64)).isSome

/-- The head waits for a way, at the head of its line's queue and in the set's way-wait queue (R169, R174); a victim that can be chosen is
evicted for it (R173). -/
def State.awaitWay (s : State) (l : Nat) (m : Req) : State × List Nat :=
  if (Tab.get [] s.wayWait (setKey l)).contains m then (s, [])
  else
    let s := { s with wayWait := Tab.modify [] s.wayWait (setKey l) (· ++ [m]) }
    match s.victim l with
    | some v =>
      let s := s.modSlice (homeTile l) fun x => { x with evictions := satInc 32 x.evictions }
      ({ s with locks := Tab.set none s.locks v (some { queue := [{ op := .recall, holder := m.holder, dpa := 64 * v, aux := 1 }] }) }, [v])
    | none => (s.modSlice (homeTile l) fun x => { x with wayWaits := satInc 32 x.wayWaits }, [])

/-- The head needs a way for its line: the one its transaction holds, a free one in its turn, or it waits (R173, R174). -/
def State.needWay (s : State) (l : Nat) (m : Req) (ok : State → Nat → State × List Nat) : State × List Nat :=
  match s.wayFor l with
  | some w =>
    if ((s.lock l).bind (·.way)).isNone && s.wayAhead l m then s.awaitWay l m
    else ok ({ s with wayWait := Tab.modify [] s.wayWait (setKey l) (·.erase m) }.modLock l fun k => { k with way := some w }) w
  | none => s.awaitWay l m

/-- A write at the head: it enters the channel's port, or waits for its issue cycle when triple-placed; its completion follows the
access (R81, R376). -/
def State.serveWrite (s : State) (l : Nat) (m : Req) : State × List Nat :=
  match s.lock l with
  | none => (s, [])
  | some k =>
    match k.data, k.failed with
    | some _, _ => (((s.setDir l none).popHead l).finish m .cmp 0 0 [], [l])
    | _, some r => (((s.setDir l none).popHead l).finish m .err r 0 [], [l])
    | none, none =>
      if s.isTriple l then ({ s.headReads l with tripWrites := s.tripWrites ++ [m] }, [])
      else
        let whole := m.op != .wrPart
        let q : MemReq := { port := s.reqPort m, line := l, entered := s.clk.elapsed, owner := s.party m.holder, ctx := m.holder,
                            write := some m.data, mask := if whole then [] else spanMask (m.dpa % 64) m.aux, dest := .home l }
        ((s.headReads l).modChan (lineChan l) fun c =>
          if whole then { c with waiting := c.waiting ++ [q] } else { c with partials := c.partials ++ [q] }, [])

/-- The head is performed: the DRAM access, the grant or completion, and the change of the entry (Table 6.4). The lines whose
queues may then go on. -/
def State.perform (s : State) (l : Nat) (m : Req) : State × List Nat :=
  let e := s.dirEnt l
  let ep := m.src.getD 0
  match m.op with
  | .rdShared =>
    if s.uncachable l then s.serveRead l m fun s d => s.finish m .dataNc 0 0 d
    else match e with
      | none => s.needWay l m fun s w => s.serveRead l m fun s d => ((s.grantLine l ep w .E).touch l).finish m .gntE 0 0 d
      | some x =>
        match x.state with
        | .S => s.serveRead l m fun s d => ((s.addSharer l x ep).touch l).finish m .gntS 0 0 d
        | st => s.serveRead l m fun s d => ((s.grantLine l ep x.way st).touch l).finish m (if st = .M then .gntM else .gntE) 0 0 d
  | .rdOwn | .upgrade =>
    if s.uncachable l then s.serveRead l m fun s d => s.finish m .dataNc 0 0 d
    else match e with
      | none => s.needWay l m fun s w => s.serveRead l m fun s d => ((s.grantLine l ep w .M).touch l).finish m .gntM 0 0 d
      | some x =>
        if m.op == .upgrade && x.state == .S && x.mode != 2 && x.sharers.contains ep then
          ((((s.grantLine l ep x.way .M).touch l).popHead l).finish m .gntUp 0 0 [], [l])
        else s.serveRead l m fun s d => ((s.grantLine l ep x.way .M).touch l).finish m .gntM 0 0 d
  | .rdCur => s.serveRead l m fun s d => (s.touch l).finish m .dataNc 0 0 d
  | .wrInv => s.serveWrite l m
  | .wrPart => s.serveWrite l m
  | .accLine =>
    if s.isTriple l then s.serveWrite l m
    else match s.fetch l m with
      | (s, .later) => (s, [])
      | (s, .got (.bad r)) => (((s.setDir l none).popHead l).finish m .err r 0 [], [l])
      | (s, .got (.data d)) =>
        match s.lineWrite l (accAdd d (padTo 64 m.data)) with
        | (s, none) => (((s.setDir l none).popHead l).finish m .cmp 0 0 [], [l])
        | (s, some r) => (((s.setDir l none).popHead l).finish m .err r 0 [], [l])
  | .writeFill | .readDrain | .readFull | .addSat =>
    if !s.lineOpen l (m.op == .writeFill || m.op == .addSat) then (s, [])
    else
      let s := (s.setDir l none).popHead l
      match s.syncOp m with
      | (s, .err r) => (s.finish m .err r 0 [], [l])
      | (s, .val st v) => (if m.op = .writeFill then s.finish m .cmp 0 st [] else s.finish m .syncVal 0 st v, [l])
      | (s, .waits) => (s, [l])
  -- an eviction or a sweep of every copy: none is left, whatever groups a coarse entry still marks (R173)
  | .recall => ((s.setDir l none).popHead l, [l])
  | _ => (s.popHead l, [l])

/-- The head of line `l` makes one step: waits, probes, or is performed. The lines that may go on. -/
def State.serveOnce (s : State) (l : Nat) : State × List Nat :=
  match s.lock l with
  | none => (s, [])
  | some k =>
    if k.reading || k.probes.any (!·.answered) then (s, [])
    else match k.queue with
      | [] => ({ s with locks := Tab.set none s.locks l none }, [])
      | m :: _ =>
        -- a sweep probes once: a coarse entry stays when its probes are answered (R160)
        match (if k.probed && m.op == MsgOp.inv then [] else s.conflicts l m) with
        | [] => s.perform l m
        | ts =>
          let owner := ts.any (·.1 != .inv)
          let held := match s.dirEnt l with | some e => decide (s.clk.elapsed < e.holdUntil) | none => false
          if owner && held then (s, []) else (s.sendProbes l m ts, [])

/-- Requests waiting for a way of the line's set: the first for which a way is free may go on at its line's head. -/
def State.wake (s : State) (l : Nat) : State × List Nat :=
  match (Tab.get [] s.wayWait (setKey l)).find? fun m => (s.freeWay (m.dpa / 64)).isSome && ((s.lock (m.dpa / 64)).bind (·.way)).isNone with
  | none => (s, [])
  | some m => (s, [m.dpa / 64])

/-- A line's lock holds the eviction of its entry for another line (R173). -/
def Lock.evicts (k : Lock) : Bool := k.queue.any fun r => r.src.isNone && r.op == .recall && r.aux == 1

/-- In a starved set, one with more requests waiting than ways on their way out, a way whose transaction has closed becomes the
victim for the first of the way-wait queue that may use it; the requests still queued on its line come after the eviction, and join
the way-wait queue at its tail when they are served (R174). -/
def State.starvedVictim (s : State) (l : Nat) : State × List Nat :=
  let q := Tab.get [] s.wayWait (setKey l)
  let out := (s.locks.filter fun p => setKey p.1 == setKey l && (p.2.map Lock.evicts).getD false).length
  match q.find? (fun m => bit (s.wayMask (m.dpa / 64)) ((s.dirEnt l).map (·.way) |>.getD 16)), s.lock l, s.dirEnt l with
  | some m, some k, some _ =>
    if decide (out < q.length) && !(k.reading || k.probes.any (!·.answered)) && (s.freeWay (m.dpa / 64)).isNone &&
        !(k.queue.any fun r => r.src.isNone && (r.op == .recall || r.op == .inv)) then
      let s := s.modSlice (homeTile l) fun x => { x with evictions := satInc 32 x.evictions }
      ({ s with locks := Tab.set none s.locks l (some { queue := { op := .recall, holder := m.holder, dpa := 64 * l, aux := 1 } :: k.queue }) }, [l])
    else (s, [])
  | _, _, _ => (s, [])

/-- Serves the lines of a work list until none can go on, at most `n` steps. -/
def State.serveWork (s : State) : Nat → List Nat → State
  | 0, _ => s
  | _ + 1, [] => s
  | n + 1, l :: t =>
    let (s, a) := s.serveOnce l
    let (s, v) := if a.contains l then s.starvedVictim l else (s, [])
    let (s, w) := s.wake l
    State.serveWork s n (w ++ v ++ a ++ t)

/-- Serves line `l` and what follows from it. -/
def State.serve (s : State) (l : Nat) : State := s.serveWork 256 [l]

/-! ## Arrival at the home (R115, R168, R169) -/

/-- A request joins its line's queue, taking a lock where the line has none; false when no lock of its share is free. -/
def State.enqueue (s : State) (l : Nat) (m : Req) : State × Bool :=
  match s.lock l with
  | some k => ({ s with locks := Tab.set none s.locks l (some { k with queue := k.queue ++ [m] }) }, true)
  | none =>
    let i := homeTile l
    let key := s.poolKey l
    if s.locksUsed i key < s.poolShare i key 2048 then ({ s with locks := Tab.set none s.locks l (some { queue := [m] }) }, true)
    else (s, false)

/-- The epoch check (R115). -/
def Cord.admits (c : Cord) (m : Req) : Bool :=
  (m.region == c.region) && ((m.epoch == c.epoch) || (decide ((m.epoch + 1) % 256 = c.epoch) && c.removed != some m.holder))

/-- The resend table's answer to a request that takes effect once (R290): returned from the table, discarded, or taken; it
waits where its share is full. -/
inductive ResendRes where
  | returned (s : State)
  | discarded
  | taken (s : State)
  | full

def State.resendCheck (s : State) (m : Req) : ResendRes :=
  let l := m.dpa / 64
  let i := homeTile l
  let ep := m.src.getD 0
  if !m.fromFabric then .taken s
  else if onceOnly m.op then
    match s.resends.find? fun e => e.slice == i && e.src == ep && e.txn == m.txn with
    | some e =>
      match e.done with
      | some c =>
        .returned { s with completions := s.completions ++ [{ c with req := m }],
                           resends := s.resends.map fun x => if x = e then { x with storedAt := s.clk.elapsed } else x }
      | none => .discarded
    | none =>
      let key := s.poolKey l
      if (s.resends.filter fun e => e.slice == i && e.key == key).length < s.poolShare i key 4096 then
        .taken { s with resends := s.resends ++ [{ slice := i, key, src := ep, txn := m.txn }] }
      else .full
  else if m.op == .readFull && bit m.aux 0 && s.syncWaits.any (fun w => w.req.src == m.src && w.req.txn == m.txn) then .discarded
  else .taken s

/-- Removes the `n`-th request in the mesh. -/
def State.takeMesh (s : State) (n : Nat) : State := { s with mesh := s.mesh.eraseIdx n }

/-- Two entries of a point's open requests are one request. -/
def Req.sameOpen (m x : Req) : Bool := (x.point == m.point) && (x.src == m.src) && (x.txn == m.txn) && (x.holder == m.holder) && (x.op == m.op)

/-- The pool address a request names: the host's lies within its Dynamic Capacity region. -/
def Req.pool (m : Req) : Nat := if m.src = some 0x7FFF then m.addr % 2 ^ 42 else m.addr

/-- The home of a request on its line is still the one its address resolves to (R130). -/
def State.stillHome (s : State) (m : Req) : Bool :=
  match Tab.get [] s.gmap (m.pool / 2 ^ 28) with
  | c :: _ => decide (cordDpa c + m.pool % 2 ^ 28 = m.dpa)
  | [] => true

/-- A request reaches its home: in its owner's slot it passes the resend table and the epoch check and joins its line's queue,
which is then served; one stamped with an old mapping goes back to its stamping point (R115, R130, R290, R315). -/
def State.arrive (s : State) (n : Nat) (m : Req) : State :=
  let l := m.dpa / 64
  if !s.serves (homeTile l) resChannel m.holder then s
  else if (s.cord (lineCord l)).cutover then s
  else if !s.stillHome m then
    { s.takeMesh n with stampQ := Tab.modify [] s.stampQ m.point (m :: ·),
                        openStamps := s.openStamps.eraseP m.sameOpen,
                        caches := Tab.modify [] s.caches m.point fun c => c.map fun e =>
                          if e.holder = m.holder ∧ e.region = m.region then { e with inflight := e.inflight - 1 } else e }
  else match s.resendCheck m with
    | .returned t => t.takeMesh n
    | .discarded =>
      { s.takeMesh n with openStamps := s.openStamps.eraseP m.sameOpen, caches := Tab.modify [] s.caches m.point fun c => c.map fun e =>
          if e.holder = m.holder ∧ e.region = m.region then { e with inflight := e.inflight - 1 } else e }
    | .full => s
    | .taken t =>
      if !(s.cord (lineCord l)).admits m then (t.takeMesh n).finish m .err 10 0 []
      else match t.enqueue l m with
        | (t, true) => (t.takeMesh n).serve l
        | (_, false) => s

/-! ## Answers (R165, R171, R172) -/

/-- A late or unmatched WB, EVICT or answer is discarded, counted, and logged once a millisecond (R172). -/
def State.lateAnswer (s : State) (l ep : Nat) : State :=
  let i := homeTile l
  let first := firstInMs s.clk.nt (s.slice i).lateLogged
  let s := s.modSlice i fun x => { x with lateResp := satInc 16 x.lateResp, lateLogged := some (s.clk.nt / 1000000) }
  if first then s.log 0x0302 none (some (64 * l)) (natLE 2 ep ++ natLE 1 i) else s

/-- The open probe of a line that a WB or EVICT of an endpoint answers (R172). -/
def Lock.ownerProbe (k : Lock) (ep : Nat) : Option Probe :=
  k.probes.find? fun p => p.target == ep && !p.answered && p.kind != .inv

/-- The transaction by which an endpoint's answers name a probe: the host's answers to its snoops carry none. -/
def Probe.answerTxn (p : Probe) : Nat := if p.target = 0x7FFF then 0 else p.txn

/-- The open probe of a line that an answer matches, by its endpoint and transaction: one sent before a time-out matches no later
probe (R172). -/
def Lock.probeOf (k : Lock) (ep txn : Nat) : Option Probe :=
  k.probes.find? fun p => p.target == ep && !p.answered && p.answerTxn == txn

/-- The data an owner returned is written, unless the head overwrites the line whole (R166, R177). -/
def State.ownerData (s : State) (l : Nat) (k : Lock) (data : Bytes) : State :=
  if (k.queue.head?.map (·.op)) == some .wrInv then s else s.queueLine l ((k.queue.head?.map (·.holder)).getD 0) (some data)

/-- The entry after an owner's or sharer's answer; `kept`: it holds the line S from now on. -/
def State.afterAnswer (s : State) (l : Nat) (p : Probe) (kept : Bool) : State :=
  match s.dirEnt l with
  | none => s
  | some e =>
    match p.kind with
    | .inv => s.setDir l (e.drop p.target)
    | .recall => s.setDir l none
    | .downgrade => if kept then s.setDir l (some { e with state := .S, sharers := [p.target], mode := 0 }) else s.setDir l none

/-- A recall of a revocation sweep has been settled: its counts (R124). -/
def State.countSweep (s : State) (l : Nat) (k : Lock) (p : Probe) (lost : Bool) : State :=
  match k.queue.head? with
  | some m =>
    if m.src.isNone && m.op == .inv && p.kind == .recall then
      s.modRegion (s.lineRegion l) fun r => { r with steps := r.steps.map fun st =>
        if st.started ∧ st.holder = m.holder then { st with recalled := st.recalled + 1, cindered := st.cindered + b2n lost } else st }
    else s
  | none => s

/-- A probe is settled; when it is the last, the coarse entry of a line whose every copy is gone is freed, and the queue goes
on. -/
def State.settle (s : State) (l : Nat) (p : Probe) : State :=
  let s := s.modLock l fun k => { k with probes := k.probes.map fun x => if x = p then { x with answered := true } else x }
  match s.lock l with
  | none => s
  | some k =>
    if k.probes.all (·.answered) then
      let s := match s.dirEnt l, k.queue.head? with
        | some e, some m => if e.mode == 2 && e.state == LineState.S && m.op != MsgOp.inv then s.setDir l none else s
        | _, _ => s
      (s.modLock l fun k => { k with probes := [] }).serve l
    else s

/-- An agent's answer to a probe: RSP_DATA, RSP_ACK or RSP_NONE (R166, R171, R172). -/
def State.answered (s : State) (n : Nat) (m : Req) : State :=
  let l := m.dpa / 64
  let ep := m.src.getD 0
  let s := s.takeMesh n
  if s.excused.contains (l, ep, m.txn) then
    if m.op = .rspNone then { s with excused := s.excused.filter (· != (l, ep, m.txn)) } else s.lateAnswer l ep
  else match s.lock l with
    | none => s.lateAnswer l ep
    | some k =>
      match k.probeOf ep m.txn with
      | none => s.lateAnswer l ep
      | some p =>
        if p.discard then s
        else
          let s := if m.op = .rspData && p.kind != .inv then s.ownerData l k m.data else s
          -- the host's BIRspI follows its dirty data
          let s := if m.op = .rspData && ep == 0x7FFF then { s with excused := s.excused ++ [(l, ep, 0)] } else s
          let s := s.countSweep l k p false
          (s.afterAnswer l p (m.op != .rspNone)).settle l p

/-- A WB or EVICT: an open probe's answer, the owner's own return, or discarded; always CMP (R166, R172). -/
def State.ownerReturns (s : State) (n : Nat) (m : Req) : State :=
  let l := m.dpa / 64
  let ep := m.src.getD 0
  let data := m.op == .wb
  match s.resendCheck m with
  | .returned t => t.takeMesh n
  | .discarded => s.takeMesh n
  | .full => s
  | .taken s =>
    let s := (s.takeMesh n)
    match (s.lock l).bind fun k => (k.ownerProbe ep).map fun p => (k, p) with
    | some (k, p) =>
      let s := if data then s.ownerData l k m.data else s
      let s := s.countSweep l k p false
      let s := s.finish { m with dpa := 64 * l } .cmp 0 0 []
      ({ s.setDir l none with excused := s.excused ++ [(l, ep, p.answerTxn)] }).settle l p
    | none =>
      match s.dirEnt l with
      | some e =>
        if e.state != .S && e.sharers.head? == some ep then
          let s := if data then s.queueLine l m.holder (some m.data) else s
          let s := (s.setDir l none).finish m .cmp 0 0 []
          let (s, w) := s.wake l
          s.serveWork 256 (l :: w)
        else (s.lateAnswer l ep).finish m .cmp 0 0 []
      | none => (s.lateAnswer l ep).finish m .cmp 0 0 []

/-- Queued requests that end with `ERR` `CINDER` after a recall time-out: all but what follows a WR_INV (R171). -/
def splitCinder : List Req → List Req × List Req
  | [] => ([], [])
  | m :: t =>
    if m.op = .wrInv then ([], m :: t)
    else if m.src.isNone && (m.op == .recall || m.op == .inv) then let (a, b) := splitCinder t; (a, m :: b)
    else let (a, b) := splitCinder t; (m :: a, b)

/-- An answer of an endpoint for a line has reached the home's router, in the pool or before it (R169, R317). -/
def State.answerArrived (s : State) (l ep : Nat) : Bool :=
  let hit (m : Req) : Bool := decide (m.dpa / 64 = l) && (m.src == some ep) &&
    [MsgOp.rspData, .rspAck, .rspNone, .wb, .evict].contains m.op
  s.mesh.any hit || (Tab.get [] s.answerWait (homeTile l)).any hit

/-- T_recall has passed for line `l` (R171); an answer that has arrived counts as in time. -/
def State.recallExpired (s : State) (l : Nat) : State :=
  match s.lock l with
  | none => s
  | some k =>
    let i := homeTile l
    let open_ := k.probes.filter fun p => !p.answered && (p.discard || !s.answerArrived l p.target)
    let s := open_.foldl (fun t p =>
      match p.kind with
      | .inv =>
        let t := t.modSlice i fun x => { x with invTimeouts := satInc 16 x.invTimeouts }
        (t.rise (srcDirTimeout (tileHearth i))).afterAnswer l p false
      | _ =>
        let t := ((t.countSweep l k p true).queueLine l ((k.queue.head?.map (·.holder)).getD 0) none).setDir l none
        let t := t.log 0x0301 none (some (64 * l)) (natLE 2 p.target ++ natLE 1 i)
        (t.modSlice i fun x => { x with recallTimeouts := satInc 16 x.recallTimeouts }).rise (srcDirTimeout (tileHearth i))) s
    let lost := open_.any (·.kind != .inv)
    let s := match s.dirEnt l, k.queue.head? with
      | some e, some m => if e.mode == 2 && e.state == LineState.S && m.op != MsgOp.inv then s.setDir l none else s
      | _, _ => s
    let (dead, live) := if lost then splitCinder k.queue else ([], k.queue)
    let s := s.modLock l fun k => { k with probes := k.probes.filter fun p => !p.answered && !open_.contains p, queue := live, probed := k.probed && !lost }
    let s := dead.foldl (fun t m => t.finish m .err 2 0 []) s
    s.serve l

end Sys2Proof.Machine
end

