-- ==== Sys2Proof/Machine/Operands.lean ====
section
/-! DEFINITION. The operands of a command packet: its fields (Table 2.1), the parameter bytes each opcode uses (chapter 16), data
addresses (R456), and the pool memory a command's context reaches. -/

set_option Elab.async false

namespace Sys2Proof.Machine

/-! ## Statuses (Table 2.5) -/
def stOk : Nat := 0x00
def stDeferred : Nat := 0x01
def stBusy : Nat := 0x02
def stDuplicate : Nat := 0x03
def stBadOpcode : Nat := 0x10
def stBadParam : Nat := 0x11
def stBadCheck : Nat := 0x12
def stNoContext : Nat := 0x13
def stNoRight : Nat := 0x14
def stNoSpace : Nat := 0x20
def stRevoked : Nat := 0x21
def stLeaseExpired : Nat := 0x22
def stInUse : Nat := 0x23
def stRefused : Nat := 0x30
def stFenced : Nat := 0x31
def stInternal : Nat := 0x40
def stAttest : Nat := 0x41
def stConfidential : Nat := 0x42

/-! ## Packet fields (Tables 2.1, 2.2) -/

def pktOpcode (b : Bytes) : Nat := fieldAt b 0 1
def pktFlags (b : Bytes) : Nat := fieldAt b 1 1
def pktCtxField (b : Bytes) : Nat := fieldAt b 2 2
def pktCtx (b : Bytes) : Nat := fieldAt b 2 2 % 4096
def pktTag (b : Bytes) : Nat := fieldAt b 4 4
def pktReply (b : Bytes) : Nat := fieldAt b 8 8
def pktSync (b : Bytes) : Bool := bit (pktFlags b) 0
def pktFence (b : Bytes) : Bool := bit (pktFlags b) 1
def pktNoReply (b : Bytes) : Bool := bit (pktFlags b) 2

/-- The conditions of R33 on the reply address. -/
def replyAddrOk (b : Bytes) : Bool :=
  let a := pktReply b
  let host := bit a 63
  decide (a % 32 = 0) && !(host && bits a 48 15 != 0) && !(host && pktSync b)

/-- The opcodes of Table 16.1. -/
def opcodes : List Nat :=
  [0x00, 0x01, 0x02, 0x03, 0x04, 0x05, 0x06, 0x10, 0x11, 0x12, 0x13, 0x14, 0x15, 0x16, 0x17, 0x18, 0x19, 0x20, 0x21, 0x22,
   0x30, 0x31, 0x32, 0x33, 0x34, 0x38, 0x40, 0x41, 0x42, 0x43, 0x44, 0x50, 0x51, 0x52, 0x54, 0x55, 0x60, 0x61]

/-- The privileged opcodes of Table 2.7. -/
def privileged : List Nat :=
  [0x01, 0x02, 0x04, 0x10, 0x11, 0x16, 0x19, 0x40, 0x41, 0x42, 0x43, 0x44, 0x50, 0x51, 0x52, 0x54, 0x55]

/-- Opcodes whose first firmware reply is always DEFERRED (Table 16.1); TRIPLEX_MODE defers its actions 1 to 3, PLAN_LOAD a
count above 64 when it runs, SELFTEST answers for itself (R490). -/
def alwaysDeferred (b : Bytes) : Bool :=
  [0x02, 0x05, 0x11, 0x14, 0x16, 0x17, 0x18, 0x19, 0x31, 0x33, 0x34, 0x40, 0x41, 0x42, 0x51, 0x52, 0x54].contains (pktOpcode b) ||
  (pktOpcode b == 0x55 && [1, 2, 3].contains (fieldAt b 16 1))

/-- What a confidential context's page executes from the host (Table 11.3). -/
def confAllowed : List Nat := [0x20, 0x21, 0x22, 0x03, 0x05, 0x15]

/-- The parameter bytes an opcode uses, as (first, count), with the bits of a byte it uses where not all (R11, R455,
chapter 16). The last component is a mask of the used bits of the field. -/
def paramFields (op : Nat) : List (Nat × Nat × Nat) :=
  match op with
  | 0x01 => [(16, 2, 0xFFF), (18, 1, 3), (19, 1, 0xFF), (20, 32, 2 ^ 256 - 1), (52, 8, 2 ^ 64 - 1)]
  | 0x02 | 0x03 => [(16, 2, 0xFFF)]
  | 0x04 => [(16, 2, 0xFFF), (18, 1, 1), (20, 8, 2 ^ 64 - 1)]
  | 0x05 => [(16, 8, 2 ^ 64 - 1), (24, 32, 2 ^ 256 - 1), (56, 3, 0xFFFFFF), (59, 1, 1)]
  | 0x06 => [(16, 8, 2 ^ 64 - 1)]
  | 0x10 => [(16, 6, 2 ^ 48 - 1), (22, 2, 0x7FFF), (24, 2, 0xFFFF), (26, 1, 0xFF), (28, 32, 2 ^ 256 - 1)]
  | 0x11 => [(16, 6, 2 ^ 48 - 1), (22, 2, 0xFFF), (24, 2, 0xFFFF)]
  | 0x12 => [(16, 8, 2 ^ 64 - 1), (24, 2, 0xFFFF), (26, 1, 7), (28, 2, 0xFFFF), (32, 4, 0xFFFFFFFF)]
  | 0x13 => [(16, 2, 0xFFFF), (18, 2, 0xFFFF), (20, 1, 0x1F), (21, 1, 0xFF), (24, 4, 0xFFFFFFFF)]
  | 0x14 => [(16, 2, 0xFFFF), (18, 2, 0xFFFF)]
  | 0x15 => [(16, 2, 0xFFFF), (18, 1, 0xFF), (20, 32, 2 ^ 256 - 1)]
  | 0x16 => [(16, 2, 0xFFFF), (20, 2, 0xFFFF), (22, 2, 0xFFFF)]
  | 0x17 => [(16, 8, 2 ^ 64 - 1), (24, 8, 2 ^ 64 - 1)]
  | 0x18 => [(16, 8, 2 ^ 64 - 1), (24, 8, 2 ^ 64 - 1), (32, 1, 0xFF)]
  | 0x19 => [(16, 2, 0xFFFF)]
  | 0x20 => [(16, 8, 2 ^ 64 - 1), (24, 2, 0xFFFF)]
  | 0x21 => [(16, 8, 2 ^ 64 - 1), (24, 4, 0xFFFFFFFF)]
  | 0x22 => [(16, 1, 0xFF), (17, 1, 0xFF), (18, 2, 0xFFFF), (20, 4, 0xFFFFFFFF)]
  | 0x30 => [(16, 8, 2 ^ 64 - 1)]
  | 0x31 => [(16, 2, 0xFFFF)]
  | 0x32 => [(16, 2, 0xFFFF), (18, 1, 0xFF), (20, 8, 2 ^ 64 - 1)]
  | 0x33 => [(16, 2, 0xFFFF), (18, 1, 1)]
  | 0x34 => [(16, 8, 2 ^ 64 - 1), (24, 8, 2 ^ 64 - 1), (32, 8, 2 ^ 64 - 1), (40, 1, 0xFF), (44, 12, 2 ^ 96 - 1)]
  | 0x38 => [(16, 8, 2 ^ 64 - 1), (24, 4, 0xFFFFFFFF), (28, 1, 1), (32, 8, 2 ^ 64 - 1)]
  | 0x40 => [(16, 8, 2 ^ 64 - 1), (24, 4, 0xFFFFFFFF)]
  | 0x41 => [(16, 8, 2 ^ 64 - 1), (24, 8, 2 ^ 64 - 1)]
  | 0x42 => [(16, 1, 3), (24, 8, 2 ^ 64 - 1)]
  | 0x43 => [(16, 2, 0xFFFF), (18, 1, 0xFF), (20, 4, 0xFFFFFFFF), (24, 4, 0xFFFFFFFF), (28, 1, 0xFF)]
  | 0x44 => [(16, 2, 0xFFFF), (18, 1, 0xFF), (19, 1, 1), (20, 16, 2 ^ 128 - 1), (36, 1, 0xFF)]
  | 0x50 => [(16, 1, 0xFF), (18, 2, 0xFFFF), (20, 1, 0x0F)]
  | 0x51 => [(16, 2, 0xFFFF), (18, 1, 3)]
  | 0x52 => [(16, 1, 0xFF), (18, 2, 0xFFFF)]
  | 0x54 => [(16, 8, 2 ^ 64 - 1), (24, 4, 0xFFFFFFFF), (28, 1, 0xFF)]
  | 0x55 => [(16, 1, 0xFF), (17, 1, 0xFF)]
  | 0x60 => [(16, 1, 0xFF), (18, 2, 0xFFFF), (20, 8, 2 ^ 64 - 1), (28, 4, 0xFFFFFFFF)]
  | 0x61 => [(16, 8, 2 ^ 64 - 1), (24, 4, 0xFFFFFFFF), (28, 4, 0xFFFFFFFF)]
  | _ => []

/-- The used bits of byte `i` of an opcode's parameters. -/
def usedBits (op i : Nat) : Nat :=
  ((paramFields op).filter fun f => decide (f.1 ≤ i) && decide (i < f.1 + f.2.1)).map (fun f => bits f.2.2 (8 * (i - f.1)) 8) |>.sum

/-- The first parameter byte with a reserved bit set, if any (R11). -/
def reservedAt (b : Bytes) : Option Nat :=
  ((List.range 44).map (16 + ·)).find? fun i =>
    (List.range 8).any fun k => bit (fieldAt b i 1) k && !bit (usedBits (pktOpcode b) i) k

/-- The data-address fields of an opcode (R456): their first bytes. -/
def dataAddrs (op : Nat) : List Nat :=
  match op with
  | 0x05 | 0x12 | 0x40 | 0x54 | 0x61 => [16]
  | 0x41 => [16, 24]
  | 0x60 => [20]
  | _ => []

/-- The pool-address fields of an opcode: bits [63:48] are zero as in a data address, and no host flag is allowed. -/
def poolAddrs (op : Nat) : List Nat :=
  match op with
  | 0x06 | 0x17 | 0x18 | 0x30 | 0x38 => [16]
  | 0x32 => [20]
  | 0x34 => [16, 24]
  | _ => []

/-- The first data address that breaks the form of R456: bits [62:48] not zero, or host space in a packet that did not arrive
through BAR2. -/
def badDataAddr (b : Bytes) (host : Bool) : Option Nat :=
  match (dataAddrs (pktOpcode b)).find? fun o =>
      let a := fieldAt b o 8
      bits a 48 15 != 0 || (bit a 63 && !host) with
  | some o => if pktOpcode b = 0x54 && fieldAt b 28 1 = 1 then none else some o
  | none => none

/-! ## Commands in flight -/

/-- The command a row names. -/
def State.cmd (s : State) (c t : Nat) : Option Cmd := s.cmds.find? fun x => x.ctx == c && x.tag == t

def State.modCmd (s : State) (c t : Nat) (f : Cmd → Cmd) : State :=
  { s with cmds := s.cmds.map fun x => if x.ctx = c ∧ x.tag = t then f x else x }

/-- A parameter of `k` bytes at packet byte `o`. -/
def Cmd.par (c : Cmd) (o k : Nat) : Nat := fieldAt c.bytes o k

/-- The first nonzero byte from `lo` to below `hi`, bytes that the packet's own fields leave unused (R11, log 121). -/
def Cmd.unusedAt (c : Cmd) (lo hi : Nat) : Option Nat := ((List.range (hi - lo)).map (lo + ·)).find? fun i => c.par i 1 != 0

/-- The command came from the host through BAR2. -/
def Cmd.byHost (c : Cmd) : Bool := c.via == .bar2

/-- Context 0 through BAR2 (R459, Own/0). -/
def Cmd.mgmt (c : Cmd) : Bool := c.byHost && c.ctx == 0

/-- A control unit hands a reply to the stage under its claim (R55, R363); it is released once the other units have taken
part (R365, R366). -/
def State.hand (s : State) (c t status : Nat) (results : Bytes) (isFinal : Bool) : State :=
  let others := (List.range 3).any fun u => some u != s.triplex.holder && (s.cu u).state == .serving
  { s with cuOut := s.cuOut ++ [{ unit := s.triplex.holder.getD 0, claim := s.triplex.claim, ctx := c, tag := t, status,
                                  results := padTo 24 results, isFinal, released := !others }] }

/-- The final reply of a command. -/
def State.final (s : State) (k : Cmd) (status : Nat) (results : Bytes := []) : State :=
  (s.modCmd k.ctx k.tag fun x => { x with phase := .ended }).hand k.ctx k.tag status results true

/-- A final reply of status 0x10 or above: byte 8 names the packet byte at fault, or 0xFF (R44). -/
def State.refuse (s : State) (k : Cmd) (status : Nat) (byte : Nat := 0xFF) (more : Bytes := []) : State :=
  s.final k status (natLE 1 byte ++ more)

/-- The command runs on after its first step, with a DEFERRED first reply where none has been given (R54). -/
def State.running (s : State) (k : Cmd) : State :=
  let s := if k.deferred then s else s.hand k.ctx k.tag stDeferred [] false
  s.modCmd k.ctx k.tag fun x => { x with phase := .running, deferred := true }

/-- The complex acts: a unit holds the token, it has not stopped, the start-up has ended. -/
def State.complexActs (s : State) : Bool := s.ready && s.triplex.holder.isSome && !s.triplex.stopped

/-- The DEFERRED first reply, once (R54). -/
def State.deferOnce (s : State) (k : Cmd) : State :=
  if k.deferred then s else (s.hand k.ctx k.tag stDeferred [] false).modCmd k.ctx k.tag fun x => { x with deferred := true }

/-- The first-reply bound of Table 2.8, in ns. -/
def firstReplyNs : Nat := 20000

/-- A command that cannot end in this step: its row is made again later. Past the first-reply bound it gives DEFERRED (R54). -/
def State.again (s : State) (k : Cmd) : State := if k.acceptedAt + firstReplyNs ≤ s.clk.nt then s.deferOnce k else s

/-- The meaning of an opcode row: it acts on the taken command of that opcode. -/
def State.withTaken (s : State) (c t op : Nat) (f : Cmd → State → State) : State :=
  match s.cmd c t with
  | some k => if k.phase == .taken && pktOpcode k.bytes == op && s.triplex.holder.isSome && !s.triplex.stopped then f k s else s
  | none => s

/-- The row that ends a running command of an opcode. -/
def State.withRunning (s : State) (c t op : Nat) (f : Cmd → State → State) : State :=
  match s.cmd c t with
  | some k => if k.phase == .running && pktOpcode k.bytes == op then f k s else s
  | none => s

/-! ## Pool memory as a holder reaches it (R106, R107, R118, R456) -/

/-- Where a pool address lies: its region and DPA. -/
def State.resolve (s : State) (a : Nat) : Option (Nat × Nat) :=
  if 2 ^ 42 ≤ a then none
  else match Tab.get [] s.gmap (a / 2 ^ 28) with
    | c :: _ => some ((s.cord c).region, cordDpa c + a % 2 ^ 28)
    | [] => none

/-- Rights of Table 4.5 as bits. -/
def rightRead : Nat := 0
def rightWrite : Nat := 1
def rightSync : Nat := 2
def rightShare : Nat := 3
def rightOwn : Nat := 4

/-- A holder's right on a region at execution: none, or in force (R118). -/
def State.hasRight (s : State) (h r right : Nat) : Bool :=
  match s.grant h r with
  | some g => g.inForce s.clk.nt && bit g.rights right && g.accepted
  | none => false

/-- Why a holder lacks a right on a region: removed, lapsed, or not given (Table 2.5). -/
def State.rightStatus (s : State) (h r : Nat) : Nat :=
  match s.grant h r with
  | some g => if (g.tombstone || g.leaving) && !g.lapsed then stRevoked
              else if g.lapsed || decide (g.expiry ≤ s.clk.nt) then stLeaseExpired else stNoRight
  | none => stNoRight

/-- What reaching a pool range answers: a status of refusal, or that a line is held by an agent and its probe is out, so the step
is made again later (log 41). -/
inductive Pool (α : Type) where
  | ok (v : α)
  | fail (status : Nat)
  | busy
  deriving DecidableEq, Repr

/-- Every line of a range lies in a mapped granule on which the holder has the right. -/
def State.rangeStatus (s : State) (h a len right : Nat) : Option Nat :=
  let lo := a / 2 ^ 28
  let hi := (a + len - 1) / 2 ^ 28
  if len = 0 then none
  else (List.range (hi - lo + 1)).findSome? fun i =>
    match s.resolve ((lo + i) * 2 ^ 28) with
    | none => some stBadParam
    | some (r, _) => if s.hasRight h r right then none else some (s.rightStatus h r)

/-- Owner of a line, whose copy an internal access needs first. -/
def State.owned (s : State) (l : Nat) : Bool :=
  match s.dirEnt l with
  | some e => e.state != .S
  | none => false

/-- An internal request joins the line's queue and is served. -/
def State.internal (s : State) (m : Req) : State :=
  let l := m.dpa / 64
  let k := (s.lock l).getD {}
  ({ s with locks := Tab.set none s.locks l (some { k with queue := k.queue ++ [m] }) }).serve l

/-- The line may be read where it lies: no owner, no lock with work before it, otherwise the owner's copy is called for. -/
def State.readyToRead (s : State) (l h : Nat) : State × Bool :=
  if (s.lock l).isSome then (s, false)
  else if s.owned l then (s.internal { op := .rdCur, holder := h, dpa := 64 * l }, false)
  else (s, true)

/-- The lines from DPA `lo` to below `hi` that agents hold have been called back and no work waits on one; else the copies are called for,
and the row is made again. -/
def State.linesFree (s : State) (h lo hi : Nat) : State × Bool :=
  let inside (l : Nat) : Bool := decide (lo ≤ 64 * l) && decide (64 * l < hi)
  if s.locks.any fun p => inside p.1 then (s, false)
  else
    let held := (s.dir.filter fun p => inside p.1).map Prod.fst
    (held.foldl (fun t l => t.internal { op := .recall, holder := h, dpa := 64 * l, region := (t.cord (lineCord l)).region }) s, held.isEmpty)

/-- The same for the part of a pool range from `a` to below `hi` that lies in a granule, which goes from `base` to below `top`. -/
def State.granuleFree (s : State) (h a hi base top : Nat) : State × Bool :=
  match s.resolve base with
  | none => (s, true)
  | some (_, dpa) => s.linesFree h (dpa + (max a base - base)) (dpa + (min hi top - base))

/-- The granules of a pool range: the first address of each and the first after it. -/
def granules (a len : Nat) : List (Nat × Nat) :=
  (List.range ((a + len - 1) / 2 ^ 28 - a / 2 ^ 28 + 1)).map fun i => ((a / 2 ^ 28 + i) * 2 ^ 28, (a / 2 ^ 28 + i + 1) * 2 ^ 28)

/-- The same for a pool range, granule by granule. -/
def State.rangeFree (s : State) (h a len : Nat) : State × Bool :=
  (granules a len).foldl (fun (t : State × Bool) g =>
    let w := t.1.granuleFree h a (a + len) g.1 g.2
    (w.1, t.2 && w.2)) (s, true)

/-- Bytes of pool memory for a holder, read through their homes: `k` lines from line `a` on. -/
def State.readLines (s : State) (h : Nat) : Nat → Nat → State × Pool Bytes
  | _, 0 => (s, .ok [])
  | a, k + 1 =>
    match s.resolve (64 * a) with
    | none => (s, .fail stBadParam)
    | some (_, dpa) =>
      match s.readyToRead (dpa / 64) h with
      | (s, false) => (s, .busy)
      | (s, true) =>
        if !s.lineOpen (dpa / 64) false then (s, .busy)
        else match s.homeRead (dpa / 64) (some h) with
        | (s, .bad _) => (s, .fail stBadParam)
        | (s, .data d) =>
          match State.readLines s h (a + 1) k with
          | (s, .ok t) => (s, .ok (d ++ t))
          | r => r

/-- `len` bytes from pool address `a`, with a right checked on every line (R456). -/
def State.poolRead (s : State) (h a len right : Nat) : State × Pool Bytes :=
  match s.rangeStatus h a len right with
  | some st => (s, .fail st)
  | none =>
    match s.readLines h (a / 64) ((a % 64 + len + 63) / 64) with
    | (s, .ok d) => (s, .ok ((d.drop (a % 64)).take len))
    | r => r

/-- Bytes written to pool memory, line by line, as the home's writes of the holder (WR_INV for a whole line, WR_PART for a
part); the copies of agents are removed first. The writing ends at a line that its channel does not take: false. -/
def State.poolWrite (s : State) (h : Nat) : Nat → Nat → Bytes → State × Bool
  | 0, _, _ => (s, true)
  | n + 1, a, d =>
    if d = [] then (s, true)
    else
      let k := min (64 - a % 64) d.length
      let w : State × Option Nat := match s.resolve a with
        | none => (s, none)
        | some (r, dpa) =>
          if (s.lock (dpa / 64)).isNone && (s.dirEnt (dpa / 64)).isNone && s.lineOpen (dpa / 64) (k != 64) then
            if k = 64 then s.homeWrite (dpa / 64) (d.take 64)
            else s.homePartial (dpa / 64) h (placed (a % 64) (d.take k)) (spanMask (a % 64) k)
          else if k = 64 then (s.internal { op := .wrInv, holder := h, dpa, region := r, data := d.take 64 }, none)
          else (s.internal { op := .wrPart, holder := h, dpa, region := r, aux := k, data := placed (a % 64) (d.take k) }, none)
      if w.2.isSome then (w.1, false) else State.poolWrite w.1 h n (a + k) (d.drop k)

/-- `len` bytes of a source data address (R456): host memory as `host` gives it, or pool memory with the read right. -/
def State.readIn (s : State) (k : Cmd) (addr len : Nat) (host : Option Bytes) : State × Pool Bytes :=
  if bit addr 63 then
    match host with
    | some d => if s.cxl.busMaster && s.cxl.linkUp && decide (len ≤ d.length) then (s, .ok (d.take len)) else (s, .fail stBadParam)
    | none => (s, .fail stBadParam)
  else
    match s.poolRead k.ctx (addr % 2 ^ 48) len rightRead with
    | (s, .fail _) => (s, .fail stBadParam)
    | r => r

/-- A destination data address written with a record (R456): through the host link or to pool memory. The status that ends the
command where it cannot be. -/
def State.writeOut (s : State) (k : Cmd) (addr : Nat) (d : Bytes) (hostOk : Bool) : State × Option Nat :=
  if bit addr 63 then
    if hostOk && s.cxl.busMaster && s.cxl.linkUp then (s.emit (.hostWrite (addr % 2 ^ 48) d), none) else (s, some stBadParam)
  else
    let a := addr % 2 ^ 48
    match s.rangeStatus k.ctx a d.length rightWrite with
    | some _ => (s, some stBadParam)
    | none =>
      match s.poolWrite k.ctx (d.length / 64 + 2) a d with
      | (s, ok) => (s, if ok then none else some stBadParam)

end Sys2Proof.Machine
end

