-- ==== Sys2Proof/Machine/Access.lean ====
section
/-! DEFINITION. The access check and the removal of rights: stamping points, grant caches, epoch steps, leases, reclaim,
zeroisation, moving cords (chapter 4). -/

set_option Elab.async false

namespace Sys2Proof.Machine

/-! ## Stamping points (R113, R114) -/

/-- A point's grant cache, its entries from the least recently used. -/
def State.cache (s : State) (p : Nat) : List CacheEnt := Tab.get [] s.caches p
def State.modCache (s : State) (p : Nat) (f : List CacheEnt → List CacheEnt) : State :=
  { s with caches := Tab.modify [] s.caches p f }

/-- Entries of a point's cache: 1,024 at a port, 64 at an Ember, 256 on the CXL path (R113). -/
def cacheSize (p : Nat) : Nat := if p < 32 then 1024 else if p < 288 then 64 else 256

/-- The right an operation needs (Tables 4.5, 6.2). -/
def neededRight : MsgOp → Right
  | .rdShared | .rdCur => .read
  | .rdOwn | .upgrade | .wrInv | .wrPart => .write
  | .accLine | .writeFill | .readDrain | .readFull | .addSat => .sync
  | _ => .none

/-- A set of rights holds the right an operation needs. -/
def Right.within (r : Right) (rights : Nat) : Bool :=
  match r with
  | .read => bit rights rightRead
  | .write => bit rights rightWrite
  | .sync => bit rights rightSync
  | .none => true

/-- The entry of a holder and a region. -/
def cacheFind (l : List CacheEnt) (h r : Nat) : Option CacheEnt := l.find? fun e => e.holder == h && e.region == r

/-- An entry used: it becomes the most recent. -/
def cacheTouch (l : List CacheEnt) (e : CacheEnt) : List CacheEnt :=
  (l.filter fun x => !(x.holder == e.holder && x.region == e.region)) ++ [e]

/-- An entry filled; a full cache gives up the least recently used entry with nothing in flight. None: no entry may go. -/
def cacheFill (size : Nat) (l : List CacheEnt) (e : CacheEnt) : Option (List CacheEnt) :=
  let l := l.filter fun x => !(x.holder == e.holder && x.region == e.region)
  if l.length < size then some (l ++ [e])
  else (l.find? (·.inflight == 0)).map fun o => l.erase o ++ [e]

/-- A request ends at its stamping point. -/
def State.endAtPoint (s : State) (m : Req) (reason : Nat) : State := s.answer { req := m, op := .err, reason }

/-- The steps of R114 for a request already out of its point's queue: it ends, waits for a fill, waits at the point, or is
stamped and leaves for its home. Requests to a Hearth in partial reset wait at the point (R427). -/
def State.stamp (s : State) (p : Nat) (m : Req) : State :=
  match s.resolve m.pool with
  | none => s.endAtPoint m 8
  | some (r, dpa) =>
    if m.fromFabric && !((s.ctx m.holder).map (·.hasSender (m.src.getD 0))).getD false then s.endAtPoint m 9
    else if (s.boot.hreset.map (·.hearth)) == some (chanHearth (dpa / 2 ^ 32)) then
      { s with stampQ := Tab.modify [] s.stampQ p (· ++ [m]) }
    else match cacheFind (s.cache p) m.holder r with
      | none => { s with fillQ := Tab.modify [] s.fillQ p (· ++ [m]) }
      | some e =>
        if e.tombstone then (s.modCache p (cacheTouch · e)).endAtPoint m 10
        else if !(neededRight m.op).within e.rights then (s.modCache p (cacheTouch · e)).endAtPoint m 9
        else if 65535 ≤ e.inflight then { s with stampQ := Tab.modify [] s.stampQ p (· ++ [m]) }
        else
          let m := { m with region := r, dpa, epoch := e.epoch, point := p, lastPending := s.clk.elapsed }
          ({ s.modCache p (cacheTouch · { e with inflight := e.inflight + 1 }) with openStamps := s.openStamps ++ [m] }).toHome m

/-- REQUEST_STAMP (R114): the `n`-th request waiting at a point. -/
def execRequestStamp (point n : Nat) (s : State) : Out :=
  done (match (Tab.get [] s.stampQ point)[n]? with
    | none => s
    | some m => { s with stampQ := Tab.modify [] s.stampQ point (·.eraseIdx n) }.stamp point m)

/-- GRANT_FILL (R113): a miss of (holder, region) is filled from the grant table, tombstones included, and the requests that
waited for it go on; with no grant, or one the host has not accepted (R132), they end with `DENIED`. -/
def execGrantFill (point holder region : Nat) (s : State) : Out :=
  done (
    let mine (m : Req) : Bool := (m.holder == holder) && ((s.resolve m.pool).map (·.1)).getD 0 == region
    let ws := (Tab.get [] s.fillQ point).filter mine
    if ws = [] then s
    else
      let s' := { s with fillQ := Tab.modify [] s.fillQ point (·.filter fun m => !mine m) }
      match s.grant holder region, s.region region with
      | some g, some r =>
        if !g.accepted && !g.tombstone then ws.foldl (fun t m => t.endAtPoint m 9) s'
        else
          match cacheFill (cacheSize point) (s.cache point)
              { holder, region, rights := g.rights, epoch := r.epoch, tombstone := g.tombstone } with
          | none => s
          | some l => ws.foldl (fun t m => t.stamp point m) (s'.modCache point fun _ => l)
      | _, _ => ws.foldl (fun t m => t.endAtPoint m 9) s')

/-- A request leaves its point's books: one less in flight for its grant, unless it needed none (R114), and no `PENDING` for it any
more (R288). -/
def State.landed (s : State) (m : Req) : State :=
  let t := if m.op = .wb ∨ m.op = .evict ∨ m.op = .fence then s else s.modCache m.point fun l => l.map fun e =>
    if e.holder = m.holder ∧ e.region = m.region then { e with inflight := e.inflight - 1 } else e
  { t with openStamps := s.openStamps.eraseP m.sameOpen }

/-- COMPLETION_PASSES_STAMP (R114): the `n`-th completion passes its point and answers the requester. -/
def execCompletionPassesStamp (n : Nat) (s : State) : Out :=
  done (match s.completions[n]? with
    | none => s
    | some c => ({ s with completions := s.completions.eraseIdx n }.landed c.req).answer c)

/-! ## Epoch steps (R120-R124, R210) -/

/-- Cords of a region, every copy of a triplet included. -/
def Region.cords (r : Region) : List Nat := r.granules.flatten

/-- Lines with directory entries in the cords of a set. -/
def State.cachedLines (s : State) (cs : List Nat) : List Nat :=
  (s.dir.filter fun p => cs.contains (lineCord p.1)).map (·.1)

/-- The arms of a holder on a region go, with the triggers held for their plans; each is logged (R210). -/
def State.dropArms (s : State) (h r : Nat) : State :=
  (s.arms.filter fun a => a.ctx == h && a.region == r).foldl (fun t a =>
    let t := { t with arms := t.arms.filter (· != a) }
    let t := t.modPlan a.plan fun p => match p.state with
      | .armed => { p with state := .loaded }
      | .armedRunning => { p with state := .running }
      | _ => p
    t.log 0x0203 (some h) none (natLE 2 a.plan ++ natLE 2 r)) s

/-- Every read of a holder that waits on a word of some cords ends as timed out (R121, R126). -/
def State.endWaits (s : State) (which : Req → Bool) : State :=
  (s.syncWaits.filter fun w => which w.req).foldl (fun t w =>
    let t := { t with syncWaits := t.syncWaits.filter (· != w) }
    let t := t.modSlice (homeTile (w.req.dpa / 64)) fun x => { x with syncTimeouts := satInc 32 x.syncTimeouts }
    t.endWait w (syncStatus false false (t.word w.req.dpa).flag true) (zeros 8)) s

/-- A request that makes its source a holder of the line (Table 6.4). -/
def makesHolder : MsgOp → Bool
  | .rdShared | .rdOwn | .upgrade => true
  | _ => false

/-- Lines of a set of cords with an open transaction that will make an endpoint of a holder a holder of the line (R180). -/
def State.grantsQueued (s : State) (cs : List Nat) (h : Nat) : List Nat :=
  (s.locks.filter fun p => cs.contains (lineCord p.1) && match p.2 with
    | some k => k.queue.any fun m => makesHolder m.op && m.holder == h && m.src.isSome
    | none => false).map Prod.fst

/-- The homes of a region sweep for a removed holder (R121): a recall for each line that its endpoints hold, and one behind each open
transaction that will give them a line (Table 6.6). -/
def State.sweepHolder (s : State) (h r : Nat) (cs : List Nat) : State :=
  let s := s.endWaits fun m => m.holder == h && m.region == r
  let m (l : Nat) : Req := { op := .inv, holder := h, dpa := 64 * l, region := r }
  let q := s.grantsQueued cs h
  let s := q.foldl (fun t l => t.internal (m l)) s
  ((s.cachedLines cs).filter fun l => !q.contains l).foldl (fun t l => if t.conflicts l (m l) = [] then t else t.internal (m l)) s

/-- The extents of a Dynamic Capacity grant: runs of whole granules of one region (R132). -/
def State.extents (s : State) (g : Grant) : List Extent :=
  match g.dcRegion, s.region g.region with
  | some d, some r => if r.granules = [] then [] else [{ base := d * 2 ^ 42 + r.base * 2 ^ 28, len := r.granules.length * 2 ^ 28 }]
  | _, _ => []

/-- A Dynamic Capacity event to the host (R132, R133, R391). -/
def State.dcEvent (s : State) (kind : Nat) (e : Extent) : State :=
  (s.cxlEvent 4 kind e.base 0).emit (.dcEvent kind e.base e.len)

/-- Phase 1 for the first step of a region: the new epoch and the removed holder at every home, tombstones at every point,
arms dropped, the homes' sweeps begun; the host hears of a removal it did not ask for (R133). -/
def State.epochStep (s : State) (n : Nat) (r : Region) (st : Step) : State :=
  let e := (r.epoch + 1) % 256
  let h := st.holder
  let s := s.modRegion n fun r => { r with
    epoch := e, state := .revoking, lastStep := some s.clk.elapsed
    steps := r.steps.map fun x => if x = st then { x with started := true, startedAt := s.clk.elapsed } else x }
  let s := r.cords.foldl (fun t c => t.modCord c fun c => { c with epoch := e, removed := some h }) s
  let host := (s.grant h n).filter fun g => h == 4096 && g.accepted && !st.hostRelease
  let ext := (host.map s.extents).getD []
  let s := s.modGrant h n fun g => { g with tombstone := true, leaving := false, lapsed := g.lapsed || st.lapse,
                                            forced := g.forced || host.isSome }
  let s := { s with caches := Tab.mapVals [] s.caches fun l => l.map fun (x : CacheEnt) =>
      if x.region = n then (if x.holder = h then { x with tombstone := true } else { x with epoch := e }) else x }
  -- tombstones stand in the order they were made (R117)
  let mine (g : Grant) : Bool := g.holder == h && g.region == n
  let s := { s with grants := (s.grants.filter fun g => !mine g) ++ s.grants.filter mine }
  let s := ext.foldl (fun t x => t.dcEvent dcForced x) s
  let s := s.dropArms h n
  s.sweepHolder h n r.cords

/-- EPOCH_STEP (R120, R123): serial in a region, at least 10 us after the step before. -/
def execEpochStep (region : Nat) (s : State) : Out :=
  done (match s.region region with
    | none => s
    | some r =>
      match r.steps with
      | st :: _ =>
        -- a destroyed context's replies leave before its rights do (R52)
        if st.started || (match st.destroyOf with | some c => s.cmds.any fun (k : Cmd) => k.ctx == c | none => false) then s
        else (match r.lastStep with | some t => s.untilElapsed (t + 10000) | none => s).epochStep region r st
      | [] => s)

/-- The cord leaves its region and its context. -/
def Cord.unbound (c : Cord) (st : CordState) : Cord :=
  { state := st, epoch := c.epoch }

/-- A cord begins zeroisation (R105, R125, R126); in a fenced channel nothing can be cleared, and it is `retired` at once (R103). -/
def State.startZeroise (s : State) (n : Nat) : State :=
  s.modCord n fun c =>
    if (s.chan (cordChan n)).state = .fenced ∨ (s.chan (cordChan n)).state = .retired then c.unbound .retired
    else { c with state := .zeroising, zeroPending := true, swept := false, removed := none, copied := 0, cutover := false }

/-- The slice of a cord. -/
def cordSlice (n : Nat) : Nat := chanTile (cordChan n)

/-- A partition lasts while a region its context has defined has a cord homed in the slice; the ways it had from the shared
class go back there (R176). -/
def State.prunePartitions (s : State) : State :=
  let kept (p : Partition) : Bool := s.cords.any fun q => cordSlice q.1 == p.slice &&
    (q.2.state == CordState.bound || q.2.state == CordState.migrating) &&
    (match s.region q.2.region with
      | some r => r.isolated && r.definer == p.ctx
      | none => false)
  let s' := (s.partitions.filter fun p => !kept p).foldl (fun (t : State) p => t.modSlice p.slice fun x => { x with wayShared := x.wayShared ||| p.shared }) s
  { s' with partitions := s.partitions.filter kept }

/-- What waited for cords that are free, retired or left zeroising goes on (R103, R105, R125, R127). -/
def State.settleCords (s : State) : State :=
  let busy (c : Cord) : Bool := c.state == CordState.zeroising
  -- CORD_FREE: the final reply follows the last cord's zeroisation
  let s := s.frees.foldl (fun (t : State) (f : Freeing) =>
    let left := f.cords.filter fun n => busy (s.cord n)
    if left = [] then
      let t := { t with frees := t.frees.filter (· != f) }
      match t.cmd f.ctx f.tag with
      | some k => t.final k stOk
      | none => t
    else { t with frees := t.frees.map fun x => if x = f then { x with cords := left } else x }) s
  let s := { s with destroys := Tab.mapVals none s.destroys fun d => d.map fun (d : Destroy) =>
      { d with cords := d.cords.filter fun n => busy (s.cord n) && (s.cord n).zeroPending } }
  -- a region under reclaim ends when no cord's record names it
  let s := s.regions.foldl (fun (t : State) (p : Nat × Option Region) =>
    match p.2 with
    | some r =>
      if r.state == RegionState.reclaiming && !(r.cords.any fun n => (t.cord n).region == p.1 && busy (t.cord n) && (t.cord n).zeroPending) then
        { t with regions := Tab.set none t.regions p.1 none }
      else t
    | none => t) s
  s.prunePartitions

/-- The last grant of a region is gone: granules unmapped, cords to `zeroising`, tombstones discarded (R125). A move of one of
its cords ends; the commands that moved them are refused (log 42). The host's extents in it leave with the grants, those of a forced
removal that it has not yet released too, which the manual leaves open (R133; log 151). -/
def State.reclaim (s : State) (n : Nat) (r : Region) : State :=
  let s := { s with gmap := Tab.clearRange s.gmap r.base (r.base + r.granules.length),
                    grants := s.grants.filter (·.region != n),
                    caches := Tab.mapVals [] s.caches fun l => l.filter (·.region != n) }
  let s := s.modRegion n fun r => { r with state := .reclaiming, steps := [], tripling := none }
  let s := r.cords.foldl (fun t c =>
    let k := t.cord c
    let t := (k.dest.toList ++ k.extraDest).foldl (fun t d => t.startZeroise d) t
    (t.modCord c fun c => { c with dest := none, extraDest := [] }).startZeroise c) s
  let gone := s.cmds.filter fun k => k.phase == .running &&
    ((pktOpcode k.bytes == 0x16 && k.par 16 2 == n) || (pktOpcode k.bytes == 0x19 && k.par 16 2 == n))
  let s := gone.foldl (fun t k => t.refuse k stBadParam 16) s
  let s := r.cords.foldl (fun t c => t.modChan (cordChan c) fun x => { x with retireCords := x.retireCords.filter (· != c) }) s
  s.settleCords

/-- Microseconds, to the nearest. -/
def toMicros (ns : Nat) : Nat := roundDiv ns 1000

/-- Everything phase 2 waits for is over: no request of the removed grant in flight, no sweep request at a home (R121). -/
def State.phase2Done (s : State) (n h : Nat) : Bool :=
  !(s.caches.any fun p => p.2.any fun e => e.holder == h && e.region == n && e.inflight != 0) &&
  !(s.locks.any fun p => match p.2 with
    | some k => k.queue.any fun m => m.src.isNone && m.op == MsgOp.inv && m.holder == h && m.region == n
    | none => false)

/-- A destroy waits for the zeroisation of more cords (R355, order 2). -/
def State.destroyWaits (s : State) (c : Option Nat) (l : List Nat) : State :=
  match c with
  | none => s
  | some c => { s with destroys := Tab.modify none s.destroys c (Option.map fun d => { d with cords := d.cords ++ l }) }

/-- REVOKE_PHASE2_END (R121, R124, R131). -/
def execRevokePhase2End (region : Nat) (s : State) : Out :=
  done (match s.region region with
    | none => s
    | some r =>
      match r.steps with
      | st :: rest =>
        if !st.started || !s.phase2Done region st.holder then s
        else
          let us := toMicros (s.clk.elapsed - st.startedAt)
          let s := s.modRegion region fun r => { r with steps := rest, state := .active }
          let reply (t : State) (w : Nat × Nat) (a b d : Nat) : State :=
            match t.cmd w.1 w.2 with
            | some k => t.final k stOk (natLE 4 a ++ natLE 4 b ++ natLE 4 d)
            | none => t
          let s := match st.waiters with
            | [] => s
            | w :: ws => ws.foldl (fun t x => reply t x 0 0 0) (reply s w st.recalled st.cindered us)
          let s := match st.destroyOf with
            | some c => { s with destroys := Tab.modify none s.destroys c (Option.map fun d =>
                { d with revoked := d.revoked + 1, cindered := d.cindered + st.cindered }) }
            | none => s
          if s.grants.any fun g => g.region == region && !g.tombstone then s
          else match s.region region with
            | some r => (s.destroyWaits st.destroyOf (r.cords ++ r.cords.flatMap fun n => (s.cord n).dest.toList ++ (s.cord n).extraDest)).reclaim region r
            | none => s
      | [] => s)

/-- A renewal by the grant's holder, or by context 0 for the host, that was accepted before the grant's expiry is still on its way through
firmware (R117-R119). -/
def State.renewalWaits (s : State) (g : Grant) : Bool :=
  s.cmds.any fun k => pktOpcode k.bytes == 0x15 && (k.phase == .waiting || k.phase == .taken) && decide (k.acceptedAt < g.expiry) &&
    (k.par 16 2 == g.holder) && (k.ctx == g.holder || (g.holder == 4096 && k.ctx == 0)) &&
    ((List.range (min 16 (k.par 18 1))).any fun i => k.par (20 + 2 * i) 2 == g.region || k.par (20 + 2 * i) 2 == 0)

/-- A step of a region joins its queue; its grant is leaving until the step starts. -/
def State.queueStep (s : State) (r : Nat) (st : Step) : State :=
  (s.modGrant st.holder r fun g => { g with leaving := true, lapsed := g.lapsed || st.lapse }).modRegion r fun x =>
    { x with steps := x.steps ++ [st] }

/-- An armed injection of kind 5 acts at the examination: the grant named lapses; the arm ends without effect where none is in
force, and a confidential holder is passed over (Table 17.13). -/
def State.injectLapse (s : State) : State :=
  if !(s.diag.injArm && s.diag.injKind == 5) then s
  else
    let h := s.diag.injParam % 8192
    let r := s.diag.injParam / 2 ^ 16 % 8192
    let s := { s with diag := { s.diag with injArm := false } }
    match s.grant h r with
    | some g =>
      if g.tombstone || g.leaving || !g.accepted || s.ctxConf h then s
      else ((s.injected 0x24 r).queueStep r { holder := h, lapse := true }).log 0x0201 (if h < 4096 then some h else none) none
        (natLE 2 h ++ natLE 2 r)
    | none => s

/-- LEASE_EXAMINATION (R119), at the next multiple of 250 us; none in a supply episode, whose length is added to every expiry (R429). -/
def execLeaseExamination (s : State) : Out :=
  done (if !s.complexActs || s.held then s
    else
      let s := s.untilElapsed ((s.clk.elapsed / 250000 + 1) * 250000)
      let s := s.injectLapse
      (s.grants.filter fun g => !g.tombstone && !g.leaving && g.accepted && decide (g.expiry ≤ s.clk.nt) && !s.renewalWaits g).foldl
        (fun t g =>
          (t.queueStep g.region { holder := g.holder, lapse := true }).log 0x0201
            (if g.holder < 4096 then some g.holder else none) none (natLE 2 g.holder ++ natLE 2 g.region)) s)

/-! ## Zeroisation (R126, R127, R536) -/

/-- The cords homed in a slice. -/
def sliceCords (i : Nat) : List Nat := (List.range 24).map (24 * i + ·)

/-- A cord's work below and at its home is over: no entry, lock or waiting request names one of its lines. -/
def State.cordQuiet (s : State) (n : Nat) : Bool :=
  !(s.dir.any fun p => lineCord p.1 == n) && !(s.locks.any fun p => lineCord p.1 == n) &&
  !(s.wayWait.any fun p => p.2.any fun m => lineCord (m.dpa / 64) == n)

/-- Recalls of every cached line of a cord join the lines' queues. -/
def State.recallCord (s : State) (n : Nat) : State :=
  (s.cachedLines [n]).foldl (fun t l => t.internal { op := .recall, dpa := 64 * l }) s

/-- ZEROISE_SWEEP (R126, R536): the orders pending at a slice share one sweep. -/
def execZeroiseSweep (slice : Nat) (s : State) : Out :=
  done (((sliceCords slice).filter fun n => (s.cord n).zeroPending && !(s.cord n).swept).foldl (fun t n =>
    let t := t.modChan (cordChan n) fun c => { c with
      merge := c.merge.filter fun e => lineCord e.line != n
      rmw := c.rmw.filter fun e => lineCord e.line != n }
    let t := t.endWaits fun m => lineCord (m.dpa / 64) == n
    (t.recallCord n).modCord n fun c => { c with swept := true }) s)

/-- The full and flag bits of a cord's words are cleared (R126). -/
def State.clearShadow (s : State) (lo hi : Nat) : State := { s with shadow := Tab.clearRange s.shadow (lo / 8) (hi / 8) }

/-- A poisoned range lies within a cord. -/
def State.cordPoisoned (s : State) (n : Nat) : Bool := (s.chan (cordChan n)).poisoned.any fun i => i / 128 == n % 12

/-- CORD_ZEROISED (R126, R127, R536): the bits of a swept cord are cleared and read back, in cord-number order. It becomes free, a
cord of a migrating channel too (R103), or stays `zeroising` on a poisoned range. -/
def execCordZeroised (cord : Nat) (s : State) : Out :=
  done (
    let c := s.cord cord
    let before := (sliceCords (cordSlice cord)).any fun n => decide (n < cord) && (s.cord n).swept && (s.cord n).zeroPending
    if !(c.state == .zeroising && c.zeroPending && c.swept) then s.settleCords
    else if before || !s.cordQuiet cord || s.banked (cordChan cord) then s
    else
      match s.zeroiseCord cord with
      | (s, _, _) =>
        let s := s.clearShadow (cordDpa cord) (cordDpa cord + 2 ^ 28)
        let s := if (s.cord cord).state == .retired then s
          else if s.cordPoisoned cord then s.modCord cord fun c => { c with zeroPending := false, swept := false, region := 0, ctx := c.ctx }
          else s.modCord cord fun c => c.unbound .free
        (s.log 0x0202 none (some (cordDpa cord)) (natLE 2 cord)).settleCords)

/-! ## Moving cords (R128-R130, R374) -/

/-- A line written: the data, or cinder where there is none (R97, R129). -/
def State.putOne (s : State) (l : Nat) (d : Option Bytes) : State :=
  match d with
  | some b => (s.writeLine l b).1
  | none => s.makeCinder l

/-- Line `i` of a block written at each destination cord. -/
def State.putCopies (s : State) (blk : Nat) (ds : List Nat) (i : Nat) (d : Option Bytes) : State :=
  ds.foldl (fun t x => t.putOne (cordLine x + 64 * blk + i) d) s

/-- Line `l`, the `i`th of a block, copied, added to the counts of lines copied and of lines made cinder. -/
def State.copyLine (a : State × Nat × Nat) (l blk : Nat) (ds : List Nat) (i : Nat) : State × Nat × Nat :=
  match a.1.readLine l none with
  | (t, .data d) => (t.putCopies blk ds i (some d), a.2.1 + 1, a.2.2)
  | (t, .bad 2) => (t.putCopies blk ds i none, a.2.1 + 1, a.2.2)
  | (t, .bad _) => (t.putCopies blk ds i none, a.2.1, a.2.2 + 1)

/-- Merge entries of lines `L` from `l0` on flushed. -/
def State.flushFrom (s : State) (l0 : Nat) (L : List Nat) : State := L.foldl (fun t i => (t.flushLine (l0 + i) []).1) s

/-- The lines `L` of the block at line `l0` copied: a clear bit is skipped; a line that cannot be read becomes cinder at each
destination, as all those of a fenced channel do (R97, R129). `lost`: the channel is fenced, or the block lies in a poisoned range, whose
bits nothing can tell, so every line of it becomes cinder (log 139). Lines copied and lines made cinder. -/
def State.copyLines (s : State) (L : List Nat) (l0 : Nat) (lost : Bool) (blk : Nat) (ds : List Nat) : State × Nat × Nat :=
  if lost then (L.foldl (fun (t : State) i => t.putCopies blk ds i none) s, 0, L.length)
  else
    let s := s.flushFrom l0 L
    if !s.blockValid l0 then (s, 0, 0) else L.foldl (fun (a : State × Nat × Nat) i => State.copyLine a (l0 + i) blk ds i) (s, 0, 0)

/-- Block `blk` of cord `n` copied to cords `ds`. -/
def State.copyBlock (s : State) (n blk : Nat) (ds : List Nat) : State × Nat × Nat :=
  let l0 := cordLine n + 64 * blk
  let c := s.chan (cordChan n)
  s.copyLines (List.range 64) l0 (c.state == .fenced || c.poisoned.contains (lineBitmap l0)) blk ds

/-- The next block of a moving cord is copied. -/
def State.copyNext (s : State) (n : Nat) (ds : List Nat) : State :=
  match s.copyBlock n (s.cord n).copied ds with
  | (s, k, b) => s.modCord n fun c => { c with copied := c.copied + 1, linesCopied := c.linesCopied + k, linesCindered := c.linesCindered + b }

/-- The access of the service port that the next block of a moving cord needs (R129). -/
def State.copyReq (s : State) (n l0 : Nat) : MemReq :=
  { port := 3, line := l0, entered := s.clk.elapsed, owner := s.poolKey l0, dest := .copy n }

/-- CORD_COPY_BLOCK (R129): the next 4 KiB block of a moving cord, in DPA order, through the service port of its channel. A block with a
line in service waits; blocks of a cord of a `banked` stack wait; a fenced channel is not read. -/
def execCordCopyBlock (cord : Nat) (s : State) : Out :=
  done (
    let c := s.cord cord
    let blk := c.copied
    let l0 := cordLine cord + 64 * blk
    let ds := c.dest.toList ++ c.extraDest
    let tripling (n : Nat) : Bool := ((s.region (s.cord n).region).bind (·.tripling)).isSome
    -- a tripling copies one cord of a source channel at a time (R374)
    let before := tripling cord && (List.range (cord % 12)).any fun i =>
      let n := cord - cord % 12 + i
      (s.cord n).state == .migrating && decide ((s.cord n).copied < 65536) && tripling n
    if !(c.state == .migrating && decide (blk < 65536) && c.dest.isSome) || before then s
    else if (cord :: ds).any (fun n => s.banked (cordChan n)) || s.locks.any (fun p => decide (l0 ≤ p.1) && decide (p.1 < l0 + 64)) then s
    else if (s.chan (cordChan cord)).state == .fenced then s.copyNext cord ds
    else match s.portTurn (s.copyReq cord l0) with
      | (s, true) => s.copyNext cord ds
      | (s, false) => s)

/-- A sync cord's words, waiting reads and arms pass to its new place (R130). -/
def State.moveSync (s : State) (n d : Nat) : State :=
  let lo := cordDpa n
  let inside (a : Nat) : Bool := decide (lo ≤ a) && decide (a < lo + 2 ^ 28)
  let at' (a : Nat) : Nat := cordDpa d + (a - lo)
  let moved := s.shadow.filter fun p => inside (8 * p.1)
  let s := s.clearShadow lo (lo + 2 ^ 28)
  { s with shadow := moved.foldl (fun t p => Tab.set {} t (at' (8 * p.1) / 8) p.2) s.shadow,
           syncWaits := s.syncWaits.map fun w => if inside w.req.dpa then { w with req := { w.req with dpa := at' w.req.dpa } } else w,
           arms := s.arms.map fun a => if inside a.word then { a with word := at' a.word } else a }

/-- The copies a granule has after a cutover: a tripling adds the destinations after the surviving copies, a move puts the
destination in the cord's place (R130, R374, R378). -/
def State.granuleAfter (s : State) (tripling : Bool) (n : Nat) (ds : List Nat) (old : List Nat) : List Nat :=
  if tripling then
    (old.filter fun c => c == n || !((s.chan (cordChan c)).state == .retired || s.hearthLost (chanHearth (cordChan c)))) ++ ds
  else old.map fun c => if c = n then ds.headD n else c

/-- The replies that wait for a cutover: REGION_MIGRATE, and REGION_TRIPLE at its last cord. -/
def State.cutoverReplies (s : State) (n rn : Nat) (c : Cord) : State :=
  match (s.region rn).bind (·.tripling) with
  | some w =>
    let s := s.modRegion rn fun r => { r with triplesLeft := r.triplesLeft - 1, triplesDone := r.triplesDone + 1 }
    match s.region rn, s.cmd w.1 w.2 with
    | some r, some k =>
      if r.triplesLeft = 0 then
        (s.modRegion rn fun r => { r with tripling := none }).final k stOk (natLE 4 r.triplesDone)
      else s
    | _, _ => s
  | none =>
    let ch := s.chan (cordChan n)
    if ch.retiring.isSome && ch.retireCords.contains n then
      s.modChan (cordChan n) fun x => { x with retireCords := x.retireCords.filter (· != n), retireMoved := x.retireMoved + 1,
                                               retireCinder := x.retireCinder + c.linesCindered }
    else
      match s.cmds.find? fun k => k.phase == .running && pktOpcode k.bytes == 0x16 && k.par 16 2 == rn && k.par 20 2 == n with
      | some k => s.final k stOk (natLE 2 (c.dest.getD 0) ++ zeros 2 ++ natLE 4 c.linesCopied ++ natLE 4 c.linesCindered)
      | none => s

/-- CORD_CUTOVER (R130): the home of a copied cord stops admission and recalls its cached lines; when none is left, the granule
maps to the destination, whose home takes the current epoch. It waits for a phase 2 of its region (R131). -/
def execCordCutover (cord : Nat) (s : State) : Out :=
  done (
    let c := s.cord cord
    let rn := c.region
    match s.region rn, c.dest with
    | some r, some d =>
      if !(c.state == .migrating && decide (65536 ≤ c.copied)) || r.state != .active then s
      else
        let s := (s.modCord cord fun c => { c with cutover := true }).recallCord cord
        if !s.cordQuiet cord then s
        else
          let tripling := r.tripling.isSome
          let ds := d :: c.extraDest
          let s := ds.foldl (fun t x => t.modCord x fun y => { y with state := .bound, ctx := c.ctx, region := rn, epoch := r.epoch, removed := c.removed }) s
          let new (old : List Nat) : List Nat := if old.contains cord then s.granuleAfter tripling cord ds old else old
          let s := { s.modRegion rn fun r => { r with granules := r.granules.map new } with gmap := Tab.mapVals [] s.gmap new }
          let s := if tripling then s.modCord cord fun c => { c with state := .bound, dest := none, extraDest := [], copied := 0, cutover := false,
                                                                     linesCopied := 0, linesCindered := 0 }
            else
              let s := s.moveSync cord d
              let s := s.modChan (cordChan cord) fun x => { x with
                merge := x.merge.filter fun e => lineCord e.line != cord
                rmw := x.rmw.filter fun e => lineCord e.line != cord }
              (s.modCord cord fun c => c.unbound .free).startZeroise cord
          s.cutoverReplies cord rn c
    | _, _ => s)

end Sys2Proof.Machine
end

