-- ==== Sys2Proof/Machine/HomeRows.lean ====
section
/-! DEFINITION. The commands at a home: the messages of Tables 6.2 and 6.3, time-outs, resends, triple-placed accesses (chapters 6,
9 and 12). -/

set_option Elab.async false

namespace Sys2Proof.Machine

/-- The place of a message among those that one directory cycle presents (R168): answers, write-backs and evictions first, then requests
by the router input on which they arrived. -/
def Req.rank (m : Req) : Nat :=
  if [MsgOp.rspData, .rspAck, .rspNone, .wb, .evict].contains m.op then 0 else 1 + m.input

/-- No other message that the slice serves now and that arrived in the same cycle as this one, the present, comes before it (R168; log
146). -/
def State.cycleTurn (s : State) (m : Req) : Bool :=
  let i := homeTile (m.dpa / 64)
  !decide (m.arrived = s.clk.elapsed) || !s.mesh.any fun x =>
    decide (homeTile (x.dpa / 64) = i) && decide (x.arrived = m.arrived) && decide (x.rank < m.rank) && s.serves i resChannel x.holder

/-- The `n`-th message of the mesh, when it is of kind `op` and its turn in the cycle has come. -/
def State.meshOp (s : State) (n : Nat) (op : MsgOp) (f : Req → State) : State :=
  match s.mesh[n]? with
  | some m => if m.op = op && s.cycleTurn m then f m else s
  | none => s

/-! ## Requests (Table 6.2) -/

/-- RD_SHARED (R166). -/
def execRdShared (n : Nat) (s : State) : Out := done (s.meshOp n .rdShared fun m => s.arrive n m)
/-- RD_OWN (R166). -/
def execRdOwn (n : Nat) (s : State) : Out := done (s.meshOp n .rdOwn fun m => s.arrive n m)
/-- UPGRADE (R166). -/
def execUpgrade (n : Nat) (s : State) : Out := done (s.meshOp n .upgrade fun m => s.arrive n m)
/-- RD_CUR (R166). -/
def execRdCur (n : Nat) (s : State) : Out := done (s.meshOp n .rdCur fun m => s.arrive n m)
/-- WR_INV (R177). -/
def execWrInv (n : Nat) (s : State) : Out := done (s.meshOp n .wrInv fun m => s.arrive n m)
/-- WR_PART (R166). -/
def execWrPart (n : Nat) (s : State) : Out := done (s.meshOp n .wrPart fun m => s.arrive n m)
/-- ACC_LINE (R256). -/
def execAccLine (n : Nat) (s : State) : Out := done (s.meshOp n .accLine fun m => s.arrive n m)
/-- WRITE_FILL (R183). -/
def execWriteFill (n : Nat) (s : State) : Out := done (s.meshOp n .writeFill fun m => s.arrive n m)
/-- READ_DRAIN (R183). -/
def execReadDrain (n : Nat) (s : State) : Out := done (s.meshOp n .readDrain fun m => s.arrive n m)
/-- READ_FULL (R183). -/
def execReadFull (n : Nat) (s : State) : Out := done (s.meshOp n .readFull fun m => s.arrive n m)
/-- ADD_SAT (R183). -/
def execAddSat (n : Nat) (s : State) : Out := done (s.meshOp n .addSat fun m => s.arrive n m)

/-- A write that FENCE orders. -/
def isWrite : MsgOp → Bool
  | .wb | .wrInv | .wrPart | .accLine | .writeFill | .addSat => true
  | _ => false

/-- A write of the fence's source that entered before it and whose completion has not left its home (R187). -/
def State.earlierWrite (s : State) (f : Req) : Bool :=
  let mine (m : Req) : Bool := (m.src == f.src) && isWrite m.op && decide (m.entered < f.entered)
  let left (m : Req) : Bool := s.completions.any fun c => c.req.src == m.src && c.req.txn == m.txn && c.req.op == m.op
  (s.stampQ.any fun p => p.2.any mine) || (s.fillQ.any fun p => p.2.any mine) ||
  let wb (m : Req) : Bool := mine m && m.op == MsgOp.wb
  let flit (f : Flit) : Bool := match f.load with
    | .request m => wb m
    | .packet .. => false
  -- a packet still in a port's buffers carries no time: every write of the source there is waited for
  let packet (k : Packet) : Bool := (f.src == some k.src) && ((msgOf k.opcode).map isWrite).getD false
  (s.openStamps.any fun m => mine m && !left m) || s.mesh.any wb || s.flits.any flit || (s.answerWait.any fun p => p.2.any wb) ||
  s.ports.any fun p => p.2.rxQ.any packet || p.2.deliverQ.any packet

/-- FENCE (R187). -/
def execFence (n : Nat) (s : State) : Out :=
  done (s.meshOp n .fence fun m => if s.earlierWrite m then s else (s.takeMesh n).finish m .cmp 0 0 [])

/-! ## Answers (Table 6.3, R169, R317) -/

/-- Whose lookup an answer is (R317): that of the request whose probe it answers, of the line's definer for a probe of an eviction, a sweep
or a zeroisation, else of the context that the message names. -/
def State.answerParty (s : State) (m : Req) : Nat :=
  let l := m.dpa / 64
  match (s.lock l).bind fun k => (if k.probes.any fun p => some p.target == m.src && !p.answered then k.queue.head? else none) with
  | some h => if h.src.isNone && (h.op == .recall || h.op == .inv) then s.poolKey l else s.party h.holder
  | none => s.party m.holder

/-- The slice looks an answer up in this slot (R317). -/
def State.answerTurn (s : State) (m : Req) : Bool :=
  (s.owner (homeTile (m.dpa / 64)) resChannel == s.answerParty m) && !(s.listPos (homeTile (m.dpa / 64))).shareEnded

/-- Messages of the answer pool of a slice that draw on the share of `key` (R169, R333). -/
def State.answersHeld (s : State) (i key : Nat) : Nat :=
  ((Tab.get [] s.answerWait i).filter fun m => s.poolKey (m.dpa / 64) == key).length

/-- The answer pool takes the `n`-th message of the mesh, or it waits in the home router (R169). -/
def State.poolAdmit (s : State) (n : Nat) (m : Req) : State :=
  let i := homeTile (m.dpa / 64)
  let key := s.poolKey (m.dpa / 64)
  if s.answersHeld i key < s.poolShare i key 512 then { s.takeMesh n with answerWait := Tab.modify [] s.answerWait i (· ++ [m]) }
  else s

/-- The lookup of an answer. -/
def State.takeAnswer (s : State) (n : Nat) (m : Req) : State :=
  if m.op = .wb ∨ m.op = .evict then s.ownerReturns n m else s.answered n m

/-- An answer at its home: looked up in its slot, else pooled. -/
def State.answerComes (s : State) (n : Nat) (m : Req) : State :=
  if s.answerTurn m then s.takeAnswer n m else s.poolAdmit n m

/-- The pooled answers of a slice whose slot has come are looked up in order (R317). -/
def State.drainAnswers (s : State) (i : Nat) : State :=
  ((Tab.get [] s.answerWait i).filter fun m => s.answerTurn m).foldl (fun t m =>
    let t := { t with answerWait := Tab.modify [] t.answerWait i (·.erase m), mesh := t.mesh ++ [m] }
    t.takeAnswer (t.mesh.length - 1) m) s

/-- WB (R172). -/
def execWb (n : Nat) (s : State) : Out := done (s.meshOp n .wb fun m => s.answerComes n m)
/-- EVICT (R172). -/
def execEvict (n : Nat) (s : State) : Out := done (s.meshOp n .evict fun m => s.answerComes n m)
/-- RSP_DATA (R166). -/
def execRspData (n : Nat) (s : State) : Out := done (s.meshOp n .rspData fun m => s.answerComes n m)
/-- RSP_ACK (R165). -/
def execRspAck (n : Nat) (s : State) : Out := done (s.meshOp n .rspAck fun m => s.answerComes n m)
/-- RSP_NONE (R172). -/
def execRspNone (n : Nat) (s : State) : Out := done (s.meshOp n .rspNone fun m => s.answerComes n m)

/-- HOST_SNOOP_RESPONSE (R178): BIRspS keeps the line shared, BIRspI drops it; dirty data that the host writes back first comes as RSP_DATA,
and the BIRspI after it is excused; a BIConflict is acknowledged, and the snoop stays open (log 138). -/
def execHostSnoopResponse (line : Nat) (rsp : SnoopRsp) (s : State) : Out :=
  done (if !s.cxl.linkUp then s
    else if rsp = .biConflict then s.emit (.conflictAck line)
    else
      let m : Req := match rsp with
        | .biConflict => {}
        | .biRspS => { op := .rspAck, src := some 0x7FFF, holder := 4096, dpa := 64 * line }
        | .biRspI => { op := .rspNone, src := some 0x7FFF, holder := 4096, dpa := 64 * line }
        | .dirty d => { op := .rspData, src := some 0x7FFF, holder := 4096, dpa := 64 * line, data := padTo 64 d }
      let t := { s with mesh := s.mesh ++ [m] }
      t.answerComes s.mesh.length m)

/-- ANSWER_POOL_ADMIT (R169): the first waiting answer of a slice whose share has a slot enters the pool. -/
def execAnswerPoolAdmit (slice : Nat) (s : State) : Out :=
  done (
    let fits (m : Req) : Bool := [MsgOp.rspData, .rspAck, .rspNone, .wb, .evict].contains m.op && homeTile (m.dpa / 64) == slice &&
      decide (s.answersHeld slice (s.poolKey (m.dpa / 64)) < s.poolShare slice (s.poolKey (m.dpa / 64)) 512)
    match s.mesh.findIdx? fits with
    | some n =>
      match s.mesh[n]? with
      | some m => s.poolAdmit n m
      | none => s
    | none => s)

/-! ## Time-outs (R170, R171, R185, R287, R290) -/

/-- MIN_HOLD_EXPIRY (R170). -/
def execMinHoldExpiry (line : Nat) (s : State) : Out :=
  done (match s.dirEnt line with
    | some e => (s.untilElapsed e.holdUntil).serve line
    | none => s)

/-- RECALL_TIMEOUT (R171). -/
def execRecallTimeout (line : Nat) (s : State) : Out :=
  done (match s.lock line with
    | some k => if k.probes.any (!·.answered) then s.atTimer k.deadline fun s => s.recallExpired line else s
    | none => s)

/-- SYNC_WAIT_TIMEOUT (R185): the `n`-th waiting read ends with timed out and the value zero. -/
def execSyncWaitTimeout (n : Nat) (s : State) : Out :=
  done (match s.syncWaits[n]? with
    | none => s
    | some w => s.atTimer w.deadline fun s =>
        let s := { s with syncWaits := s.syncWaits.eraseIdx n }
        let s := s.modSlice (homeTile (w.req.dpa / 64)) fun x => { x with syncTimeouts := satInc 32 x.syncTimeouts }
        s.endWait w (syncStatus false false (s.word w.req.dpa).flag true) (zeros 8))

/-- A probe sent again with its transaction and the resend flag. -/
def State.resendProbe (s : State) (l : Nat) (p : Probe) : State :=
  let op : MsgOp := match p.kind with | .recall => .recall | .downgrade => .downgrade | .inv => .inv
  let c := ((s.lock l).bind (·.queue.head?)).map (·.holder)
  (s.source { opcode := msgCode op, dst := p.target, ctx := (c.filter (· < 4096)).getD 0, txn := p.txn, resend := true,
              addr := s.poolOf (64 * l) % 2 ^ 48 }).1

/-- PROBE_RESEND (R287): probes of a line to agents that have gone 20 us without an answer, up to 3 times each. -/
def execProbeResend (line : Nat) (s : State) : Out :=
  done (match s.lock line with
    | none => s
    | some k =>
      let open_ := k.probes.filter fun p => !p.answered && p.target != 0x7FFF && decide (p.resends < 3)
      match open_ with
      | [] => s
      | q :: _ =>
        let due := open_.foldl (fun t p => min t (p.sentAt + 20000)) (q.sentAt + 20000)
        s.atTimer due fun s =>
          (open_.filter fun p => decide (p.sentAt + 20000 ≤ s.clk.timer)).foldl (fun t p =>
            (t.resendProbe line p).modLock line fun k => { k with probes := k.probes.map fun x =>
              if x = p then { x with resends := x.resends + 1, sentAt := t.clk.timer } else x }) s)

/-- RESEND_ENTRY_EXPIRY (R290): 50 us after its completion was stored or last returned. -/
def execResendEntryExpiry (n : Nat) (s : State) : Out :=
  done (match s.resends[n]? with
    | some e => if e.done.isSome then s.atElapsed (e.storedAt + 50000) fun s => { s with resends := s.resends.eraseIdx n } else s
    | none => s)

/-! ## Triple-placed lines (R376, R377) -/

/-- Every present copy of the line is in a slot of the holder, and no stack of them is `banked` or at an edge guard (R376). -/
def State.copiesOpen (s : State) (l holder : Nat) : Bool :=
  (s.copies l).all fun c =>
    let g := lineChan c.2
    s.serves (chanTile g) resChannel holder && !(s.chan g).banked && !(s.chan g).guard

/-- The outcome of the head's access at the channels; the queue goes on. -/
def State.headDone (s : State) (l : Nat) (data : Option Bytes) (failed : Option Nat) : State :=
  (s.modLock l fun k => { k with data, failed, reading := false }).serve l

/-- TRIPLET_WRITE_ISSUE (R376). -/
def execTripletWriteIssue (n : Nat) (s : State) : Out :=
  done (match s.tripWrites[n]? with
    | none => s
    | some m =>
      let l := m.dpa / 64
      if !s.copiesOpen l m.holder then s
      else
        let s := { s with tripWrites := s.tripWrites.eraseIdx n }
        let (s, r) := match m.op with
          | .wrPart => s.homePartial l m.holder m.data (spanMask (m.dpa % 64) m.aux)
          | .accLine =>
            match s.readVote l (some m.holder) with
            | (s, .data d) => s.writeCopies l (accAdd d (padTo 64 m.data))
            | (s, .bad r) => (s, some r)
          | _ => s.writeCopies l m.data
        match r with
        | none => s.headDone l (some []) none
        | some r => s.headDone l none (some r))

/-- TRIPLET_READ_VOTE (R377). -/
def execTripletReadVote (n : Nat) (s : State) : Out :=
  done (match s.tripReads[n]? with
    | none => s
    | some m =>
      let l := m.dpa / 64
      if (s.copies l).any fun c => (s.chan (lineChan c.2)).banked then s
      else
        match { s with tripReads := s.tripReads.eraseIdx n }.readVote l (some m.holder) with
        | (s, .data d) => s.headDone l (some d) none
        | (s, .bad r) => s.headDone l none (some r))

end Sys2Proof.Machine
end

