-- ==== Sys2Proof/Machine/ChannelRows.lean ====
section
/-! DEFINITION. The commands of a channel controller: its scheduler, decoder, merge buffer, bitmap, refresh, calibration,
frequency changes and faults (chapter 3). -/

set_option Elab.async false

namespace Sys2Proof.Machine

/-! ## Scheduling (R63-R66) -/

/-- The outcome of an access goes to its line's head; after a write that no head waits for, the line's queue goes on. -/
def State.deliver (s : State) (q : MemReq) (data : Option Bytes) (failed : Option Nat) : State :=
  match q.dest with
  | .home l => s.headDone l data failed
  | _ => s.serve q.line

/-- What a write at the channel answers. -/
def State.written (p : State × Option Nat) (q : MemReq) : State :=
  match p.2 with
  | none => p.1.deliver q (some []) none
  | some r => p.1.deliver q none (some r)

/-- A request leaves its port and is issued: a write is performed, filling a clear block through BLOCK_FILL_DONE (R83); a read goes to
the decoder; an Ember's, a scrub's or a move's access is left to its own row. Only an access to DRAM opens a row (R83). -/
def State.issue (s : State) (g : Nat) (q : MemReq) : State :=
  let s := s.modChan g fun c => { c with waiting := c.waiting.erase q }
  let s := if s.blockValid q.line then s.modChan g fun c => c.openRow q.line else s
  match q.dest, q.write with
  | .ember _, _ | .scrub _ _, _ | .copy _, _ => s.modChan g fun c => { c with granted := c.granted ++ [q] }
  | _, some d =>
    match s.refusedLine q.line with
    | some r => s.deliver q none (some r)
    | none =>
      if s.blockValid q.line then State.written (s.lineWrite q.line d) q
      else s.modChan g fun c => { c with filling := c.filling ++ [q] }
  | _, none => s.modChan g fun c => { c with reads := c.reads ++ [q] }

/-- SCHEDULER_ISSUE (R65): the request that goes before all others; none of a `banked` stack (R74). -/
def execSchedulerIssue (g : Nat) (s : State) : Out :=
  done (
    let s := s.modChan g fun c => c.restoke s.clk.elapsed
    if s.banked g then s
    else match s.nextIssue g with
      | none => s
      | some q => s.issue g q)

/-- STOKE_LEVEL_CHANGE (R65): the `n`-th waiting request, partial writes after the others, reaches the next fraction of its target. -/
def execStokeLevelChange (g n : Nat) (s : State) : Out :=
  done (match ((s.chan g).waiting ++ (s.chan g).partials)[n]? with
    | none => s
    | some q =>
      let t := (s.chan g).target q.port
      let next := if q.level = 0 then (t + 1) / 2 else if q.level = 1 then (3 * t + 3) / 4 else t
      if q.level = 3 then s
      else s.atElapsed (q.entered + next) fun s => s.modChan g fun c => c.restoke s.clk.elapsed)

/-- A read that has been issued comes back with `noise` of its own. -/
def State.readBack (s : State) (q : MemReq) (noise : List (Nat × Byte)) : State :=
  match s.readLine q.line (some q.ctx) noise with
  | (s, .data d) => s.deliver q (some d) none
  | (s, .bad r) => s.deliver q none (some r)

/-- READ_DECODE (R77): the oldest issued read of the channel returns with `noise` of its own. -/
def execReadDecode (g : Nat) (noise : List (Nat × Byte)) (s : State) : Out :=
  done (match (s.chan g).reads with
    | [] => s
    | q :: rest => (s.modChan g fun c => { c with reads := rest }).readBack q noise)

/-- The lines of channel `g` whose heads wait at the home for the channel are served. -/
def State.serveChan (s : State) (g : Nat) : State :=
  ((s.locks.map Prod.fst).filter fun l => lineChan l == g).foldl (fun t l => t.serve l) s

/-- The oldest fill of a channel is over: its bit is set, and what waited for the block goes on (R83). -/
def State.fillDone (s : State) (g : Nat) : State :=
  match (s.chan g).filling with
  | [] => s
  | q :: rest =>
    let s := s.modChan g fun c => { c with filling := rest }
    (State.written (s.lineWrite q.line (q.write.getD [])) q).serveChan g

/-- BLOCK_FILL_DONE (R83): the 64 writes of the oldest fill are done and the bit is set. -/
def execBlockFillDone (g : Nat) (s : State) : Out := done (s.fillDone g)

/-! ## The merge buffer (R79-R81) -/

/-- PARTIAL_WRITE_ENTRY (R65, R79): the partial write that goes before all others; none of a `banked` stack (R74), and none during the
edge guard (R66). -/
def execPartialWriteEntry (g : Nat) (s : State) : Out :=
  done (
    let s := s.modChan g fun c => c.restoke s.clk.elapsed
    if s.banked g || (s.chan g).guard then s
    else match s.nextPartial g with
      | none => s
      | some q =>
        let s := s.modChan g fun c => { c with partials := c.partials.erase q }
        State.written (s.linePartial q.line q.ctx (q.write.getD []) q.mask) q)

/-- MERGE_ENTRY_AGE_OUT (R80): an entry 2 us old is flushed with the others of its row; one that needs a read waits for it. -/
def execMergeEntryAgeOut (g line : Nat) (s : State) : Out :=
  done (match (s.chan g).merge.find? (·.line == line) with
    | none => s
    | some e =>
      if s.banked g then s
      else s.atElapsed (e.entered + 2000) fun s =>
        let row := (s.chan g).merge.filter fun x => x.line == line || sameRow x.line line
        let s := s.modChan g fun c => { c with merge := c.merge.filter fun x => !row.contains x }
        row.foldl (fun t x => if t.needsRead x then t.modChan g fun c => { c with rmw := c.rmw ++ [x] } else (t.flushEntry x []).1) s)

/-- MERGE_RMW_COMPLETE (R81): the read of the oldest read-modify-write returns. -/
def execMergeRmwComplete (g : Nat) (s : State) : Out :=
  done (match (s.chan g).rmw with
    | [] => s
    | e :: rest => ((s.modChan g fun c => { c with rmw := rest }).flushEntry e []).1)

/-! ## The bitmap (R82, R85) -/

/-- BITMAP_LINE_FETCH (R82, R85): both copies of an uncached line are read, each with symbols in error of its own at this read. -/
def execBitmapLineFetch (g idx : Nat) (noiseA noiseB : List (Nat × Byte)) (s : State) : Out :=
  done (
    let c := s.chan g
    if c.bmCache.any (·.idx == idx) || c.poisoned.contains idx || c.state == .fenced || c.state == .retired || c.banked then s
    else match s.bitmapCheck g idx false noiseA noiseB with
      | (s, true) => s.bitmapCache g idx false
      | (s, false) => s.settleCords)

/-! ## Slot edges of a channel (R66, R316) -/

/-- The outgoing owner's entries are flushed and dirty bitmap lines written back. -/
def State.emptyChan (s : State) (g : Nat) : State :=
  let s := s.flushAll g
  let dirty := (s.chan g).bmCache.filter (·.dirty)
  let s := dirty.foldl (fun t b => t.bitmapWrite g b.idx) s
  s.modChan g fun c => { c with bmCache := c.bmCache.map fun b => { b with dirty := false } }

/-- The edge guard begins (R66): no partial write enters from here to the edge. -/
def State.guardChan (s : State) (g : Nat) : State := (s.modChan g fun c => { c with guard := true }).emptyChan g

/-- The edge itself: the bitmap cache invalid, every bank precharged (R66, R316); nothing of the outgoing owner crosses it. -/
def State.edgeChan (s : State) (g : Nat) : State :=
  ((s.emptyChan g).modChan g fun c => { c with bmCache := [], openRows := [], guard := false }).serveChan g

/-- CHANNEL_EDGE_GUARD (R66, R327): the last 200 ns of the usable share. -/
def execChannelEdgeGuard (g : Nat) (s : State) : Out :=
  done (if s.guardedEdge (chanTile g) resChannel then (s.untilNt (s.shareEnd (chanTile g) - 200)).guardChan g else s)

/-! ## Refresh and calibration (R67-R71) -/

/-- The channel is refreshed: trained, its DRAM neither in self-refresh nor out of use. -/
def Chan.refreshed (c : Chan) : Bool := c.trained && !c.banked && c.state != .retired

/-- Refresh-emergency source (Table 13.9): that of the tile's memory service. -/
def State.refEmergency (s : State) (g : Nat) : State :=
  let c := s.chan g
  let n := (c.refDebt - 448).toNat
  let s := s.modChan g fun c => { c with refDebt := 448, refEmerg := satAdd 16 c.refEmerg n, emergLogged := true }
  -- each of these refreshes raises the source (R69)
  let s := (List.range n).foldl (fun t _ => t.rise (srcMemSvc (chanTile g))) s
  if c.emergLogged then s else s.log 0x0106 none none (natLE 2 g ++ natLE 2 (toBits 16 c.refDebt))

/-- REFRESH_DEBT_TICK (R67, R69, R429). -/
def execRefreshDebtTick (g : Nat) (s : State) : Out :=
  done (if !(s.chan g).refreshed then s
    else s.atElapsed ((s.chan g).debtNext) fun s =>
      let s := s.modChan g fun c => { c with refDebt := c.refDebt + 1, debtNext := c.debtNext + 3906 }
      -- in a supply episode every refresh owed is made at once, in any slot, and counted nowhere (R429)
      if s.held then s.modChan g fun c => { c with refDebt := min c.refDebt 0 }
      else if 480 ≤ (s.chan g).refDebt then s.refEmergency g else s)

/-- Refreshes of 350 ns each while the debt is above `floor` and the time allows: the debt and the time left. -/
def refreshes : Nat → Int → Nat → Int → Int × Nat
  | 0, debt, left, _ => (debt, left)
  | n + 1, debt, left, floor => if floor < debt ∧ 350 ≤ left then refreshes n (debt - 1) (left - 350) floor else (debt, left)

/-- A CALIBRATE whose tasks have run on every channel ends (R71). -/
def State.calibrated (s : State) (w : Nat × Nat) : State :=
  if s.chans.any (fun p => p.2.state != .fenced && p.2.state != .retired && p.2.calCmds.contains w) then s
  else match s.cmd w.1 w.2 with
    | some k => s.final k stOk
    | none => s

/-- Base-die temperature of a stack as last read, in 1/16 degree (Table 15.1). -/
def State.dieTemp (s : State) (stack : Nat) : Int := s.bell.die.getD (4 + stack) 0

/-- One calibration task of channel `g`, when it is due or asked for and fits (R70, R71). -/
def State.calibrateTask (s : State) (g : Nat) (t : CalTask) (left : Nat) : State × Nat :=
  let c := s.chan g
  let (due, cost) := match t with
    | .zq => (c.zqDue || c.calZq, 500)
    | .retrain => (c.rtDue || c.calRt, 2000)
  if due && decide (cost ≤ left) then
    let s := s.modChan g fun c => match t with
      | .zq => { c with zqDue := false, calZq := false, zqLast := s.clk.elapsed }
      | .retrain => { c with rtDue := false, calRt := false, rtLast := s.clk.elapsed, rtTemp := s.dieTemp (chanStack g) }
    let c := s.chan g
    if !c.calZq && !c.calRt then
      let ws := c.calCmds
      (ws.foldl (fun t w => t.calibrated w) (s.modChan g fun c => { c with calCmds := [] }), left - cost)
    else (s, left - cost)
  else (s, left)

/-- The calibration task that fell due first (R70): its period's end, or the time at which the temperature had moved. -/
def Chan.firstTask (c : Chan) : CalTask := if c.rtDue && (!c.zqDue || decide (c.rtDueAt < c.zqDueAt)) then .retrain else .zq

/-- The refresh debt of a channel set. -/
def State.setDebt (s : State) (g : Nat) (d : Int) : State := s.modChan g fun c => { c with refDebt := d }

/-- The work of a maintenance slot of `len` ns: refreshes owed, due tasks the oldest first, refreshes pulled in; at most `n` and `m`
refreshes. -/
def State.maintainFor (s : State) (n m g len : Nat) : State :=
  let owed := refreshes n (s.chan g).refDebt len 0
  let s := s.setDebt g owed.1
  let first := (s.chan g).firstTask
  let a := s.calibrateTask g first owed.2
  let b := a.1.calibrateTask g (if first = .zq then .retrain else .zq) a.2
  b.1.setDebt g (refreshes m owed.1 b.2 (-8)).1

/-- The work of a maintenance slot (R67): 600 refreshes are more than the debt can hold, 16 more than can be pulled in. -/
def State.maintain (s : State) (g len : Nat) : State := if !(s.chan g).refreshed then s else s.maintainFor 600 16 g len

/-- The base-die temperature has moved by more than 4 degrees since the channel's last retraining (Table 3.5). -/
def State.dieMoved (s : State) (g : Nat) : Bool := decide (64 < (s.dieTemp (chanStack g) - (s.chan g).rtTemp).natAbs)

/-- CALIBRATION_DUE (R70). -/
def execCalibrationDue (g : Nat) (task : CalTask) (s : State) : Out :=
  done (if !(s.chan g).trained then s
    else match task with
      | .zq =>
        if (s.chan g).zqDue then s
        else s.atElapsed ((s.chan g).zqLast + 64000000) fun s =>
          s.modChan g fun c => { c with zqDue := true, zqDueAt := c.zqLast + 64000000 }
      | .retrain =>
        if (s.chan g).rtDue then s
        else if s.dieMoved g then s.modChan g fun c => { c with rtDue := true, rtDueAt := s.clk.elapsed }
        else s.atElapsed ((s.chan g).rtLast + 256000000) fun s =>
          s.modChan g fun c => { c with rtDue := true, rtDueAt := c.rtLast + 256000000 })

/-! ## Frequency change and faults (R72, R73, R96) -/

/-- The tiles that serve a stack. -/
def stackTiles (k : Nat) : List Nat := (List.range 16).map (16 * k + ·)
/-- The channels of a stack. -/
def stackChans (k : Nat) : List Nat := (List.range 32).map (32 * k + ·)

/-- Start and length of an entry of a gate list, in 8 ns units. -/
def slotSpan (l : List Slot) (i : Nat) : Nat × Nat := (((l.take i).map (·.len)).sum, (l.getD i {}).len)

/-- The slot that a tile's list stands in is a stack maintenance slot (R68): one of 4 us or more that every tile of the stack has as
a maintenance slot on the same interval. -/
def State.stackSlot (s : State) (tile : Nat) : Bool :=
  let here := slotSpan (s.gateList tile) (s.listPos tile).entry
  s.inMaint tile resChannel && decide (500 ≤ here.2) && (stackTiles (tile / 16)).all fun t =>
    (List.range (s.gateList t).length).any fun i =>
      decide (slotSpan (s.gateList t) i = here) && (((s.gateList t).getD i {}).owners.getD resChannel ownerClosed == ownerMaint)

/-- The operating point a stack is to run at (R72, Table 10.9): 1 (6.4 Gbit/s) at throttle level 3; else that of the SELFTEST margin
test of one of its channels, 6.4 and then 4.8 Gbit/s (R490); else 8.0 Gbit/s. -/
def State.wantPoint (s : State) (stack : Nat) : Nat :=
  let m := ((stackChans stack).map fun g => (s.chan g).margin).filter (· != 0)
  if s.sched.level = 3 then 1 else if m = [] then 0 else if m.contains 1 then 1 else 2

/-- A frequency change of the stack is wanted, and none is in progress. -/
def State.changeDue (s : State) (stack : Nat) : Bool :=
  !s.held && (stackChans stack).all (fun g => !s.banked g) && (stackChans stack).any fun g => (s.chan g).activePoint != s.wantPoint stack

/-- A margin test goes on to its next point when its stack has reached the present one (R490). -/
def Chan.marginPast (c : Chan) (point : Nat) : Chan := if c.margin = point && decide (0 < point) then { c with margin := point + 1 } else c

/-- Accesses in progress in a channel complete, its merge buffer is flushed and its banks are precharged (Table 3.6, R80). -/
def State.drainChan (s : State) (g : Nat) : State :=
  let s := (s.chan g).reads.foldl (fun t q => t.readBack q []) (s.modChan g fun c => { c with reads := [] })
  let s := (List.range (s.chan g).filling.length).foldl (fun t _ => t.fillDone g) s
  (s.flushAll g).modChan g fun c => { c with openRows := [] }

/-- A frequency change of the stack is due, and every tile of it stands at the start of a stack maintenance slot (R68, R73). -/
def State.changeStarts (s : State) (stack : Nat) : Bool :=
  s.changeDue stack && (stackTiles stack).all fun t => s.stackSlot t && decide (s.nextEdge t = s.clk.nt + 8 * (s.slot t).len)

/-- A frequency change begins (Table 3.6): firmware loads the shadow set for the target point, and the stack is `banked`. -/
def State.beginChange (s : State) (stack : Nat) : State :=
  let want := s.wantPoint stack
  let s := (stackChans stack).foldl (fun t g => t.drainChan g) s
  (stackChans stack).foldl (fun t g => t.modChan g fun c =>
    { c with banked := true, changing := some (s.clk.elapsed + 4000), shadowPoint := want }) s

/-- It ends 4 us after the slot's start (R67, R73): the sets are swapped, the debt is as before the pause, and the maintenance of the slot's
rest follows. -/
def State.endChange (s : State) (stack : Nat) : State :=
  let off := (s.boot.episode.map fun (e : Episode) => e.banked).getD false
  (stackChans stack).foldl (fun t g =>
    let t := t.modChan g fun c =>
      ({ c with banked := off, changing := none, activePoint := c.shadowPoint, shadowPoint := c.activePoint,
                debtNext := c.debtNext + 4000 }).marginPast c.shadowPoint
    (t.maintain g (8 * (t.slot (chanTile g)).len - 4000)).serveChan g) s

/-- FREQUENCY_CHANGE (R73): a change that runs ends; else one that is wanted begins, at the start of a stack maintenance slot. -/
def execFrequencyChange (stack : Nat) (s : State) : Out :=
  done (match (stackChans stack).findSome? fun g => (s.chan g).changing with
    | some t => s.atElapsed t fun s => s.endChange stack
    | none =>
      if !s.changeDue stack then (stackChans stack).foldl (fun t g => t.modChan g fun c => c.marginPast c.activePoint) s
      else if s.changeStarts stack then s.beginChange stack
      else s)

/-- CONTROLLER_FAULT (R96, R103). -/
def execControllerFault (g : Nat) (s : State) : Out :=
  done (match (s.chan g).state with
    | .retired | .fenced => s
    | _ => (s.fenceChan g 2).settleCords)

end Sys2Proof.Machine
end

