-- ==== Sys2Proof/Machine/Schedule.lean ====
section
/-! DEFINITION. Schedules: gate images with the checks of Table 10.7, route images, and the schedule commands (chapters 9, 10, 14
and 16). -/

set_option Elab.async false

namespace Sys2Proof.Machine

/-! ## Gate images (R312) -/

/-- A router-list entry (Table 10.4) and whether its reserved bits are zero. -/
def routerSlot (v : Nat) : Slot × Bool :=
  ({ len := bits v 0 17, owners := (List.range 7).map fun j => bits v (17 + 13 * j) 13 }, decide (v / 2 ^ 108 = 0))

/-- A port-list or control-list entry (Table 10.5). -/
def portSlot (v : Nat) : Slot × Bool := ({ len := bits v 0 17, owners := [bits v 17 13] }, decide (v / 2 ^ 30 = 0))

/-- The lists of an image: `n` more from number `k` on. None: a count out of range, reserved bits set, or the image ends. -/
def readLists : Nat → Nat → Bytes → Option (List (List Slot))
  | 0, _, _ => some []
  | n + 1, k, b =>
    let c := fieldAt b 0 8
    let w := if k < 256 then 16 else 8
    if c = 0 ∨ 1024 < c ∨ b.length < 8 + c * w then none
    else
      let es := (List.range c).map fun i => (if k < 256 then routerSlot else portSlot) (fieldAt b (8 + i * w) w)
      if es.all (·.2) then (readLists n (k + 1) (b.drop (8 + c * w))).map fun t => es.map (·.1) :: t else none

/-- The power profile of an image (R441): none where it is absent or malformed. -/
def readProfile (b : Bytes) : Option Profile :=
  let o := fieldAt b 20 4
  let p := (b.drop o).take 64
  if o = 0 ∨ o % 64 ≠ 0 ∨ p.length < 64 ∨ fieldAt p 0 4 ≠ 0x50524F46 ∨ (p.drop 18).any (· != 0) then none
  else some { meanW := fieldAt p 4 2, peakW := fieldAt p 6 2 }

/-- The header and lists of an image (Table 10.6; step 2). -/
def readGates (b : Bytes) : Option Gates :=
  let res := ((b.drop 6).take 2 ++ (b.drop 24).take 40).all (· == 0)
  let portOrNone (v : Nat) : Bool := decide (v < 32) || v == 0xFF
  let cycle := fieldAt b 8 4
  if b.length < 64 ∨ fieldAt b 0 4 ≠ 0x47415445 ∨ fieldAt b 4 2 ≠ 1 ∨ !res ∨ cycle < 125 ∨ 125000 < cycle ∨ cycle ≤ fieldAt b 12 4 ∨
      !portOrNone (fieldAt b 16 1) ∨ !portOrNone (fieldAt b 17 1) ∨ 1024 < fieldAt b 18 2 then none
  else (readLists 289 0 (b.drop 64)).map fun l =>
    { installed := true, fresh := true, cycle, phase := fieldAt b 12 4, parent := fieldAt b 16 1, backup := fieldAt b 17 1, reserve := fieldAt b 18 2,
      profile := readProfile b, lists := ((List.range 289).zip l), digest := Config.sm3 b }

/-- An owner code allowed in resource `j` of list `k` (Table 10.3). -/
def ownerValid (k j o : Nat) : Bool :=
  (decide (1 ≤ o) && decide (o ≤ ownerClosed)) && (o != ownerMaint || (decide (k < 256) && decide (j < 2)))

/-- Where a check fails: step, list, entry. -/
abbrev GateFail := Nat × Nat × Nat

/-- The first entry of any list that breaks `ok`. -/
def firstBad (g : Gates) (step : Nat) (ok : Nat → Nat → Slot → Bool) : Option GateFail :=
  g.lists.findSome? fun p => ((List.range p.2.length).zip p.2).findSome? fun e =>
    if ok p.1 e.1 e.2 then none else some (step, p.1, e.1)

/-- Step 3: durations and owner codes. -/
def gateStep3 (g : Gates) : Option GateFail :=
  match firstBad g 3 fun k _ x => decide (1 ≤ x.len) && ((List.range x.owners.length).zip x.owners).all fun o => ownerValid k o.1 o.2 with
  | some f => some f
  | none => g.lists.findSome? fun p => if (p.2.map (·.len)).sum = g.cycle then none else some (3, p.1, 0)

/-! ### Intervals of a list, in 8 ns units from a cycle's start -/

/-- The slots of a list with their start. -/
def slotStarts : Nat → List Slot → List (Nat × Slot)
  | _, [] => []
  | t, x :: r => (t, x) :: slotStarts (t + x.len) r

/-- Adjacent intervals joined. -/
def joinIntervals (l : List (Nat × Nat)) : List (Nat × Nat) :=
  l.foldr (fun p acc => match acc with
    | q :: t => if p.2 = q.1 then (p.1, q.2) :: t else p :: q :: t
    | [] => [p]) []

/-- The intervals of a list, over two cycles, in which resource `j` is `o`'s. -/
def ownedIntervals (g : Gates) (k j o : Nat) : List (Nat × Nat) :=
  let l := g.list k
  joinIntervals (((slotStarts 0 (l ++ l)).filter fun p => p.2.owners.getD j ownerClosed == o).map fun p => (p.1, p.1 + p.2.len))

/-- Common parts of two lists of intervals. -/
def meetIntervals (a b : List (Nat × Nat)) : List (Nat × Nat) :=
  a.flatMap fun x => b.filterMap fun y =>
    let lo := max x.1 y.1
    let hi := min x.2 y.2
    if lo < hi then some (lo, hi) else none

/-- Three channels are together in `o`'s slots for at least 1 us of every cycle. -/
def tripletMeets (g : Gates) (o : Nat) (ch : List Nat) : Bool :=
  let iv := ch.map fun c => ownedIntervals g (chanTile c) resChannel o
  match iv with
  | [] => true
  | x :: t => (t.foldl meetIntervals x).any fun p => decide (125 ≤ p.2 - p.1)

/-- The holders of a region, by owner code. -/
def State.holderOwners (s : State) (r : Nat) : List Nat :=
  ((s.grants.filter fun g => g.region == r && !g.tombstone).map fun g => s.party g.holder).eraseDups

/-- The parties whose cords lie in a cord's place: its context when allocated, its region's holders when bound. -/
def State.cordOwners (s : State) (c : Cord) : List Nat :=
  match c.state with
  | .allocated => [s.party c.ctx]
  | .bound | .migrating => s.holderOwners c.region
  | _ => []

/-- The isolated owners an image names. -/
def gateIsos (g : Gates) : List Nat := ((g.lists.flatMap fun p => p.2.flatMap (·.owners)).filter isoOwner).eraseDups

/-- Step 4: isolated owners exist; a channel with a cord of theirs gives them a slot; triplets meet. -/
def State.gateStep4 (s : State) (g : Gates) : Option GateFail :=
  match firstBad g 4 fun _ _ x => x.owners.all fun o => !isoOwner o || s.ctxIso o with
  | some f => some f
  | none =>
    match s.cords.findSome? fun p => (s.cordOwners p.2).findSome? fun o =>
        if isoOwner o && ownedIntervals g (cordSlice p.1) resChannel o == [] then some (4, cordSlice p.1, 0) else none with
    | some f => some f
    | none => s.regions.findSome? fun p =>
        match p.2 with
        | some r => r.granules.findSome? fun t =>
            if t.length < 2 then none
            else (s.holderOwners p.1).findSome? fun o =>
              if tripletMeets g o (t.map cordChan) then none else some (4, cordSlice (t.headD 0), 0)
        | none => none

/-- Step 5: maintenance slots of every channel (R68). -/
def gateStep5 (g : Gates) : Option GateFail :=
  let maint (k : Nat) : List (Nat × Slot) := (slotStarts 0 (g.list k)).filter fun p => p.2.owners.getD resChannel 0 == ownerMaint
  (List.range 256).findSome? fun k =>
    let m := maint k
    let cap := (m.map fun p => 8 * p.2.len / 350).sum
    let common := m.any fun p => decide (500 ≤ p.2.len) &&
      (List.range 16).all fun i => (maint (16 * (k / 16) + i)).any fun q => q.1 == p.1 && q.2.len == p.2.len
    if m.all (fun p => decide (50 ≤ p.2.len)) && common && decide (8600 ≤ cap * (4000000 / g.cycle)) then none else some (5, k, 0)

/-- Step 6: the least lengths of isolated slots. -/
def State.gateStep6 (s : State) (g : Gates) : Option GateFail :=
  firstBad g 6 fun k _ x =>
    if k < 256 then (!isoOwner (x.owners.getD 0 0) || decide (2000 ≤ x.len)) && (!isoOwner (x.owners.getD 1 0) || decide (125 ≤ x.len))
    else k == 288 || !isoOwner (x.owners.getD 0 0) || decide (8 * (s.port (k - 256)).linkGuard ≤ 8 * x.len)

/-- Owned time of a list before offset `x`, over as many cycles as it takes. -/
def ownedBefore (l : List Slot) (cycle o x : Nat) : Nat :=
  let within (y : Nat) : Nat := ((slotStarts 0 l).map fun p => if p.2.owners.getD 0 0 = o then min y (p.1 + p.2.len) - min y p.1 else 0).sum
  x / cycle * within cycle + within (x % cycle)

/-- Step 7: control slots of at least 1 us in every window of 16 us. -/
def gateStep7 (g : Gates) : Option GateFail :=
  let l := g.list 288
  let starts := (slotStarts 0 l).flatMap fun p => [p.1, p.1 + p.2.len, p.1 + 2000 * g.cycle - 2000, p.1 + p.2.len + 2000 * g.cycle - 2000]
  if (gateIsos g).all fun o => starts.all fun x => decide (125 ≤ ownedBefore l g.cycle o (x + 2000) - ownedBefore l g.cycle o x) then none
  else some (7, 288, 0)

/-- Steps 3 to 7 of Table 10.7, in order. -/
def State.gateChecks (s : State) (g : Gates) : Option GateFail :=
  (gateStep3 g).orElse fun _ => (s.gateStep4 g).orElse fun _ => (gateStep5 g).orElse fun _ => (s.gateStep6 g).orElse fun _ => gateStep7 g

/-! ## GATE_INSTALL (R304, R313, R485) -/

/-- The version that names the time parent: the active one, or before the first gate switch the installed inactive one (R304). -/
def State.timeImage (s : State) : Gates :=
  if s.sched.defaultLists then s.sched.versions.getD (1 - s.sched.active) {} else s.gates

/-- The time parent and the grandmaster follow the governing image. -/
def State.setParent (s : State) : State :=
  let g := s.timeImage
  if !g.installed then s
  else { s with net := { s.net with parent := if g.parent < 32 then g.parent else 0, grandmaster := g.parent == 0xFF,
                                    distance := if g.parent = 0xFF then 0 else if s.net.grandmaster then 15 else s.net.distance } }

/-- Ten microseconds have passed since a version was active. -/
def State.restedSince (s : State) (last : Option Nat) : Bool :=
  match last with
  | some t => decide (t + 10000 ≤ s.clk.elapsed)
  | none => true

/-- The refusal of an image: step, list and entry at fault. -/
def State.gateRefuse (s : State) (k : Cmd) (st : Nat) (f : GateFail) : State :=
  s.refuse k st 0xFF (natLE 1 f.1 ++ natLE 2 f.2.1 ++ natLE 2 f.2.2)

/-- GATE_INSTALL (R313). -/
def execGateInstall (ctx tag : Nat) (hostData : Option Bytes) (s : State) : Out :=
  done (s.withTaken ctx tag 0x40 fun k s =>
    let v := 1 - s.sched.active
    let old := s.sched.versions.getD v {}
    if !s.restedSince old.lastActive || s.sched.pendingGates then s.gateRefuse k stInUse (1, 0, 0)
    else match s.readIn k (k.par 16 8) (k.par 24 4) hostData with
      | (s, .busy) => s
      | (s, .fail st) => s.refuse k st 16
      | (s, .ok b) =>
        match readGates b with
        | none => s.gateRefuse k stBadParam (2, 0, 0)
        | some g =>
          match s.gateChecks g with
          | some f => s.gateRefuse k stBadParam f
          | none =>
            let s := { s with sched := { s.sched with versions := s.sched.versions.set v { g with lastActive := old.lastActive } } }
            let s := if fieldAt b 20 4 ≠ 0 ∧ g.profile.isNone then s.log 0x0A02 else s
            s.setParent.final k stOk (padTo 16 g.digest ++ natLE 1 v))

/-! ## ROUTE_INSTALL (R295, R417, R418, R486) -/

/-- A table of the non-zero words of an image, `w` bytes each. -/
def wordTable (b : Bytes) (n w : Nat) : Tab Nat :=
  (List.range n).filterMap fun i => let v := fieldAt b (i * w) w; if v = 0 then none else some (i, v)

/-- A version as its image and topology table give it; none without exactly one valid local entry. -/
def readRoutes (img topo : Bytes) : Option Routes :=
  let entries := wordTable img 32768 8
  let selector := (List.range 4096).filterMap fun c =>
    let v := bits (fieldAt img (262144 + c / 4) 1) (2 * (c % 4)) 2
    if v = 0 then none else some (c, v)
  match entries.filter fun p => reValid p.2 && reLocal p.2 with
  | [p] => some { installed := true, entries, selector, topology := wordTable topo 32 4, localIdx := p.1, digest := Config.sm3 img }
  | _ => none

/-- ROUTE_INSTALL (R295). -/
def execRouteInstall (ctx tag : Nat) (hostImage hostTopology : Option Bytes) (s : State) : Out :=
  done (s.withTaken ctx tag 0x41 fun k s =>
    let v := 1 - s.routeActive
    let old := s.routes.getD v {}
    if !s.restedSince old.lastActive || s.sched.pendingRoutes then s.refuse k stInUse
    else match s.readIn k (k.par 16 8) 263168 hostImage with
      | (s, .busy) => s
      | (s, .fail st) => s.refuse k st 16
      | (s, .ok img) =>
        match s.readIn k (k.par 24 8) 128 hostTopology with
        | (s, .busy) => s
        | (s, .fail st) => s.refuse k st 24
        | (s, .ok topo) =>
          match readRoutes img topo with
          | none => s.refuse k stBadParam
          | some r =>
            let s := { s with routes := s.routes.set v { r with lastActive := old.lastActive } }
            (if s.routeSwitched then s else s.setClasses).final k stOk (natLE 2 r.localIdx ++ natLE 1 v))

/-! ## EPOCH_SWITCH (R295, R314, R422, R487) -/

/-- A network time is a cycle start of a version. -/
def cycleStart (g : Gates) (t : Nat) : Bool := decide ((t + 8 * g.cycle - 8 * g.phase % (8 * g.cycle)) % (8 * g.cycle) = 0)

/-- A port is active beside the partner its topology entry expects. -/
def State.partnerMatches (s : State) (p w : Nat) : Bool :=
  (s.port p).partnerSeen && (s.port p).partner.endpoint == topoPartner w && (s.port p).partner.port == topoPort w

/-- The first port that fails the topology check of version `v` (R422). -/
def State.topologyFault (s : State) (v : Nat) : Option Nat :=
  let topo := (s.routes.getD v {}).topology
  (List.range 32).find? fun p =>
    let w := Tab.get 0 topo p
    let up := (s.port p).state == LinkState.active
    (topoExpected w && !(up && s.partnerMatches p w)) || (s.routeSwitched && up && !s.partnerMatches p w)

/-- EPOCH_SWITCH (R314): the switch is set for T. A second one while one is set is refused (log 44). -/
def execEpochSwitch (ctx tag : Nat) (s : State) : Out :=
  done (s.withTaken ctx tag 0x42 fun k s =>
    let wantR := bit (k.par 16 1) 0
    let wantG := bit (k.par 16 1) 1
    let t := k.par 24 8
    let g := s.sched.versions.getD (1 - s.sched.active) {}
    let now : Gates := if s.sched.defaultLists then {} else s.gates
    if !wantR && !wantG then s.refuse k stBadParam 16
    else if (s.sched.pendingT).isSome then s.refuse k stInUse
    else if t < k.acceptedAt + 50000 then s.refuse k stBadParam 24
    else if wantG && !g.installed then s.refuse k stBadParam 16
    else if wantG && !(cycleStart now t && cycleStart g t) then s.refuse k stBadParam 24
    else if wantG && !(s.net.state == 1 || s.net.grandmaster) then s.refuse k stInUse
    else if wantR && !(s.routes.getD (1 - s.routeActive) {}).installed then s.refuse k stBadParam 16
    else match (if wantR then s.topologyFault (1 - s.routeActive) else none) with
      | some p => s.refuse k stBadParam 0xFF (natLE 1 p)
      | none =>
        { s with sched := { s.sched with pendingT := some t, pendingRoutes := wantR, pendingGates := wantG, pendingCmd := some (k.ctx, k.tag) } }.running k)

/-! ## Shapers and policers (R321, R323, R324) -/

/-- The place in a port's list of the entry of a context, or the first free one, of 256. -/
def slotFor {α : Type} (l : List α) (mine free : α → Bool) : Option Nat :=
  match l.findIdx? mine with
  | some i => some i
  | none =>
    match l.findIdx? free with
    | some i => some i
    | none => if l.length < 256 then some l.length else none

/-- Writes a place of a list, at most one beyond its end. -/
def putAt {α : Type} (l : List α) (i : Nat) (v : α) : List α := if i < l.length then l.set i v else l ++ [v]

/-- SHAPER_SET (R321). -/
def execShaperSet (ctx tag : Nat) (s : State) : Out :=
  done (s.withTaken ctx tag 0x43 fun k s =>
    let c := k.par 16 2
    let p := k.par 18 1
    let rate := k.par 20 4
    let burst := k.par 24 4
    let l := Tab.get [] s.sched.shapers p
    if 4096 ≤ c then s.refuse k stBadParam 16
    else if !s.ctxLive c then s.refuse k stNoContext 16
    else if 32 ≤ p then s.refuse k stBadParam 18
    else if 1600000 < rate then s.refuse k stBadParam 20
    else if rate ≠ 0 ∧ (burst < 256 ∨ 1048576 < burst) then s.refuse k stBadParam 24
    else if rate ≠ 0 ∧ 63 < k.par 28 1 then s.refuse k stBadParam 28
    else
      let mine (h : Shaper) : Bool := h.bound && h.ctx == c
      if rate = 0 then
        ({ s with sched := { s.sched with shapers := Tab.set [] s.sched.shapers p (l.map fun h => if mine h then { h with pending := some (0, 0, 0) } else h) } }).final k stOk [0xFF]
      else match slotFor l mine (fun h => !h.bound) with
        | none => s.refuse k stNoSpace
        | some i =>
          let h := l.getD i {}
          let h : Shaper := { (if mine h then h else { ctx := c }) with pending := some (rate, burst, k.par 28 1) }
          ({ s with sched := { s.sched with shapers := Tab.set [] s.sched.shapers p (putAt l i h) } }).final k stOk (natLE 1 i))

/-- POLICER_SET (R324). -/
def execPolicerSet (ctx tag : Nat) (s : State) : Out :=
  done (s.withTaken ctx tag 0x44 fun k s =>
    let c := k.par 16 2
    let p := k.par 18 1
    let cir := k.par 20 4
    let pir := k.par 24 4
    let cbs := k.par 28 4
    let pbs := k.par 32 4
    let l := Tab.get [] s.sched.policers p
    let badBurst (b : Nat) : Bool := decide (b < 256) || decide (1048576 < b)
    if 4096 ≤ c then s.refuse k stBadParam 16
    else if !s.ctxLive c then s.refuse k stNoContext 16
    else if 32 ≤ p then s.refuse k stBadParam 18
    else if 1600000 < cir then s.refuse k stBadParam 20
    else if cir ≠ 0 ∧ (pir < cir ∨ 1600000 < pir) then s.refuse k stBadParam 24
    else if cir ≠ 0 ∧ badBurst cbs then s.refuse k stBadParam 28
    else if cir ≠ 0 ∧ badBurst pbs then s.refuse k stBadParam 32
    else if cir ≠ 0 ∧ 63 < k.par 36 1 then s.refuse k stBadParam 36
    else
      let used (h : Policer) : Bool := h.cir != 0 || h.pending.isSome
      let mine (h : Policer) : Bool := used h && h.ctx == c
      if cir = 0 then
        ({ s with sched := { s.sched with policers := Tab.set [] s.sched.policers p (l.map fun h => if mine h then { h with pending := some [0] } else h) } }).final k stOk
      else match slotFor l mine (fun h => !used h) with
        | none => s.refuse k stNoSpace
        | some i =>
          let h := l.getD i {}
          let h : Policer := { (if mine h then h else { ctx := c }) with pending := some [cir, pir, cbs, pbs, k.par 36 1, k.par 19 1] }
          ({ s with sched := { s.sched with policers := Tab.set [] s.sched.policers p (putAt l i h) } }).final k stOk)

/-- Takes a pending change, with the credit clamped to the new burst (R323). -/
def Shaper.refill (h : Shaper) : Shaper :=
  let h := match h.pending with
    | some (0, _, _) => { h with rate := 0, pending := none, credit := 0, ctx := 0 }
    | some (r, b, o) => { h with rate := r, burst := b, overhead := o, pending := none, credit := min h.credit (1024 * b : Nat) }
    | none => h
  if h.rate = 0 then h else { h with credit := min (h.credit + (1024 * h.rate / 125 : Nat)) (1024 * h.burst : Nat) }

/-- The same for a policer; a newly bound one starts with full buckets, as RFC 2698 has it (log 45). -/
def Policer.refill (h : Policer) : Policer :=
  let h := match h.pending with
    | some [cir, pir, cbs, pbs, o, aware] =>
      { h with cir, pir, cbs, pbs, overhead := o, aware := aware == 1, pending := none,
               tc := if h.cir = 0 then 1024 * cbs else min h.tc (1024 * cbs), tp := if h.cir = 0 then 1024 * pbs else min h.tp (1024 * pbs) }
    | some _ => {}
    | none => h
  if h.cir = 0 then h
  else { h with tc := min (h.tc + 1024 * h.cir / 125) (1024 * h.cbs), tp := min (h.tp + 1024 * h.pir / 125) (1024 * h.pbs) }

/-- SHAPER_REFILL (R322): at the next multiple of 64 ns of network time. -/
def execShaperRefill (s : State) : Out :=
  done (
    let s := s.untilNt ((s.clk.nt / 64 + 1) * 64)
    let s := { s with sched := { s.sched with
      shapers := Tab.mapVals [] s.sched.shapers fun l => l.map Shaper.refill,
      policers := Tab.mapVals [] s.sched.policers fun l => l.map Policer.refill } }
    (s.sched.shapers.map Prod.fst).foldl (fun t p => t.pump p) s)

end Sys2Proof.Machine
end

