-- ==== Sys2Proof/Machine/CmdContext.lean ====
section
/-! DEFINITION. The commands on contexts, measurements, attestation, keys and ingests (chapters 2, 11 and 16). -/

set_option Elab.async false

namespace Sys2Proof.Machine

/-- NOP (R460). -/
def execNop (ctx tag : Nat) (s : State) : Out := done (s.withTaken ctx tag 0x00 fun k s => s.final k stOk (natLE 8 s.clk.nt))

/-! ## Reservations (R333) -/

/-- The listed contexts. -/
def State.allCtxs (s : State) : List (Nat × Ctx) := s.ctxs.filterMap fun p => p.2.map fun c => (p.1, c)

/-- What isolated-class contexts other than `c` have reserved of a pool. -/
def State.reserved (s : State) (c : Nat) (f : Ctx → Nat) : Nat :=
  ((s.allCtxs.filter fun p => p.1 != c && p.2.isolated).map fun p => f p.2).sum

/-- Plans of a context, descriptors of a plan. -/
def State.plansOf (s : State) (c : Nat) : List Plan := (s.plans.filterMap (·.2)).filter fun p => p.ctx == c
def State.sharedPlans (s : State) : List Plan := (s.plans.filterMap (·.2)).filter fun p => !s.ctxIso p.ctx

/-- Region numbers of a definer. -/
def State.regionsOf (s : State) (c : Nat) : Nat := (s.regions.filter fun p => (p.2.map (·.definer)) == some c).length

/-- Session-key entries of a context, old keys included (R353). -/
def State.sessionEntries (s : State) (which : Nat → Bool) : Nat :=
  ((s.sec.sessionKeys.filter fun k => which k.ctx).map fun k => 1 + k.olds.length).sum

/-- Weight-key slots held by shared-class contexts. -/
def State.sharedWeightKeys (s : State) : Nat := (s.sec.weightKeys.filter fun k => !s.ctxIso k.ctx).length

/-- A context's reservations, as bytes 52-59 of Table 16.2 give them. -/
def Ctx.withReserve (x : Ctx) (b : Bytes) : Ctx :=
  { x with plansRes := fieldAt b 0 2, descRes := 64 * fieldAt b 2 2, grantsRes := fieldAt b 4 2, regionsRes := fieldAt b 6 1,
           keysRes := 16 * fieldAt b 7 1 }

/-- The reservations of context `c` can be met from what no other party holds (R333). -/
def State.reserveMet (s : State) (c : Nat) (x : Ctx) : Bool :=
  let shared := fun n => !s.ctxIso n
  decide (x.plansRes + s.reserved c (·.plansRes) + s.sharedPlans.length ≤ 8191) &&
  decide (x.descRes + s.reserved c (·.descRes) + (s.sharedPlans.map (·.bytes.length)).sum ≤ 1048576) &&
  decide (x.grantsRes + s.reserved c (·.grantsRes) + (s.grants.filter fun g => shared g.holder).length ≤ 65536) &&
  decide (x.regionsRes + s.reserved c (·.regionsRes) +
    (s.regions.filter fun p => (p.2.map fun r => shared r.definer).getD false).length ≤ 8191) &&
  decide (x.keysRes + s.reserved c (·.keysRes) + s.sessionEntries shared ≤ 16384) &&
  (!x.conf || decide (16 + s.reserved c (fun y => if y.conf then 16 else 0) + s.sharedWeightKeys ≤ 8192))

/-! ## CTX_CREATE, CTX_QUERY, CTX_SET_CLASS (R461, R463, R464) -/

/-- The sender ranges of Table 16.2. -/
def Cmd.ranges (k : Cmd) : List (Nat × Nat) := (List.range (k.par 19 1)).map fun i => (k.par (20 + 4 * i) 2, k.par (22 + 4 * i) 2)

/-- A well-formed range of endpoints. -/
def rangeOk (r : Nat × Nat) : Bool := decide (1 ≤ r.1) && decide (1 ≤ r.2) && decide (r.1 + r.2 ≤ 0x7FFF)

/-- The security engine is out of reach: H3 lost, or its key store fenced (Table 1.9, R355). -/
def State.engineLost (s : State) : Bool := s.hearthLost 3
def State.keysLost (s : State) : Bool := s.hearthLost 3 || s.sec.keystoreFenced

/-- CTX_CREATE (R461). -/
def execCtxCreate (ctx tag : Nat) (s : State) : Out :=
  done (s.withTaken ctx tag 0x01 fun k s =>
    let conf := bit (k.par 18 1) 0
    let iso := bit (k.par 18 1) 1
    let asked := k.par 16 2 % 4096
    let number := if asked ≠ 0 then some asked else ((List.range 4096).drop 1).find? fun n => (s.ctx n).isNone
    if 8 < k.par 19 1 then s.refuse k stBadParam 19
    else match k.ranges.findIdx? fun r => !rangeOk r with
      | some i => s.refuse k stBadParam (20 + 4 * i)
      | none =>
        if let some i := k.unusedAt (20 + 4 * k.par 19 1) 52 then s.refuse k stBadParam i
        else if !iso && k.par 52 8 != 0 then s.refuse k stBadParam (((List.range 8).find? fun i => k.par (52 + i) 1 != 0).getD 0 + 52)
        else match number with
          | none => s.refuse k stNoSpace
          | some n =>
            if (s.ctx n).isSome then s.refuse k stInUse 16
            else if conf && s.sec.jtagLevel == 2 then s.refuse k stConfidential 18
            else if conf && s.keysLost then s.refuse k stInternal
            else
              let x := ({ conf, isolated := iso, senders := k.ranges, createdSeq := s.diag.nextSeq, measure := zeros 32 } : Ctx).withReserve (k.bytes.drop 52)
              if iso && !s.reserveMet n x then s.refuse k stNoSpace
              else
                let (d, s) := if conf then s.draw else (0, s)
                ({ s with ctxs := Tab.set none s.ctxs n (some { x with ephemeral := d }), windows := Tab.set [] s.windows n [] }).final k stOk (natLE 2 n))

/-- Commands of a context in flight. -/
def State.flying (s : State) (c : Nat) : Nat := (s.cmds.filter (·.ctx == c)).length

/-- CTX_QUERY (R463). -/
def execCtxQuery (ctx tag : Nat) (s : State) : Out :=
  done (s.withTaken ctx tag 0x03 fun k s =>
    let c := k.par 16 2
    if c ≠ k.ctx ∧ !k.mgmt then s.refuse k stNoRight 16
    else match s.ctx c with
      | none => s.refuse k stNoContext 16
      | some x =>
        let flags := b2n x.conf + 2 * b2n x.isolated + 4 * b2n x.attested + 8 * b2n x.destroying
        let body := natLE 1 flags ++ natLE 1 s.boot.envInForce ++ natLE 2 x.undelivered ++ natLE 2 (s.flying c) ++
          natLE 2 (s.grants.filter fun g => g.holder == c && !g.tombstone).length ++ natLE 2 (s.plansOf c).length ++
          natLE 2 (s.cords.filter fun p => p.2.state == CordState.allocated && p.2.ctx == c).length ++ zeros 4 ++
          natLE 8 Config.serial.toNat
        (s.modCtx c fun x => { x with undelivered := 0 }).final k stOk body)

/-- A gate list of either version names the context (Table 10.10). -/
def State.gatesName (s : State) (c : Nat) : Bool := s.sched.versions.any fun g => (gateIsos g).contains c

/-- CTX_SET_CLASS (R464). Context 0 is never of the isolated class (Table 10.3). -/
def execCtxSetClass (ctx tag : Nat) (s : State) : Out :=
  done (s.withTaken ctx tag 0x04 fun k s =>
    let c := k.par 16 2
    let iso := bit (k.par 18 1) 0
    match s.ctx c with
    | none => s.refuse k stNoContext 16
    | some x =>
      if x.destroying then s.refuse k stNoContext 16
      else if iso && c == 0 then s.refuse k stBadParam 16
      else if let some i := (if iso then none else k.unusedAt 20 28) then s.refuse k stBadParam i
      else if x.isolated = iso then s.final k stOk
      else if s.grants.any (fun g => g.holder == c && !g.tombstone) || s.cords.any (fun p => p.2.state == CordState.allocated && p.2.ctx == c) ||
          s.plansOf c != [] || s.gatesName c then s.refuse k stInUse 16
      else
        let y := if iso then { x with isolated := true }.withReserve (k.bytes.drop 20) else { x with isolated := false }.withReserve (zeros 8)
        if iso && !s.reserveMet c y then s.refuse k stNoSpace
        else (s.modCtx c fun _ => y).final k stOk)

/-! ## CTX_DESTROY (R52, R124, R355, R462) -/

/-- The next waiting ingest starts. -/
def startIngest : List Ingest → List Ingest
  | [] => []
  | x :: t => if x.running then x :: startIngest t else { x with running := true } :: t

/-- Waiting ingests start while fewer than four run (R352). -/
def startIngests (l : List Ingest) : List Ingest :=
  (List.range 4).foldl (fun l _ => if (l.filter (·.running)).length < 4 then startIngest l else l) l

/-- The Embers drop every run of a context at once, without records (Table 7.12); their registers show class CONTEXT_ENDED (R223). -/
def State.dropRuns (s : State) (c : Nat) : State :=
  let gone (w : SyncWait) : Bool := w.req.src.isNone && w.req.holder == c
  let s := (s.syncWaits.filter gone).foldl (fun t w => t.waitLeaves w) s
  let s := { s with
    chans := Tab.mapVals {} s.chans fun x =>
      let theirs (q : MemReq) : Bool := q.ctx == c && match q.dest with
        | .ember _ | .scrub _ _ => true
        | _ => false
      { x with waiting := x.waiting.filter (!theirs ·), granted := x.granted.filter (!theirs ·) }
    scrubs := s.scrubs.filter fun (x : Scrub) => x.ctx != c
    embers := Tab.mapVals {} s.embers fun e =>
      let mine := (e.run.map fun (r : Run) => r.ctx) == some c
      let ended := (e.run.toList ++ e.queue).find? fun (r : Run) => r.ctx == c && !s.ctxConf c
      let e := match ended with
        | some r => { e with errClass := 0xB, errReason := 0, errIndex := r.pc, errCva := noAddr }
        | none => e
      { e with run := if mine then none else e.run, queue := e.queue.filter fun (r : Run) => r.ctx != c,
               state := if mine then (match e.state with | .fenced => .fenced | .testing => .testing | _ => .idle) else e.state }
    starts := s.starts.filter fun (x : Start) => ((s.plan x.plan).map fun (p : Plan) => p.ctx) != some c
    ends := s.ends.filter fun (x : EndMsg) => ((s.plan x.plan).map fun (p : Plan) => p.ctx) != some c
    arms := s.arms.filter fun (x : Arm) => x.ctx != c
    syncWaits := s.syncWaits.filter fun w => !gone w
    faultQs := Tab.mapVals {} s.faultQs fun q =>
      { q with raised := q.raised.filter (fun (x : XFault) => x.ctx != c), stall := q.stall.filter (fun (x : XFault) => x.ctx != c)
               slots := Tab.mapVals none q.slots fun e => e.map fun (f : FqEnt) =>
                 if f.fault.ctx = c then { f with mask := [], writers := [] } else f } }
  { s with plans := Tab.mapVals none s.plans fun p => p.map fun p => if p.ctx = c then { p with state := .loaded, active := none } else p }

/-- Every command of a context in flight ends with `NO_CONTEXT` (R52). -/
def State.endCommands (s : State) (c : Nat) : State :=
  (s.cmds.filter fun x => x.ctx == c && x.phase != .ended).foldl (fun t x => t.refuse x stNoContext) s

/-- CTX_DESTROY (R52). -/
def execCtxDestroy (ctx tag : Nat) (s : State) : Out :=
  done (s.withTaken ctx tag 0x02 fun k s =>
    let c := k.par 16 2
    match s.ctx c with
    | none => s.refuse k stNoContext 16
    | some x =>
      if c = 0 then s.refuse k stBadParam 16
      else if x.destroying then s.refuse k stInUse 16
      else
        let s := (s.modCtx c fun x => { x with destroying := true }).endCommands c
        let s := { s with sec := { s.sec with ingests := startIngests (s.sec.ingests.filter (·.ctx != c)), signings := s.sec.signings.filter (·.ctx != c) } }
        let s := s.dropRuns c
        let held := s.grants.filter fun g => g.holder == c && !g.tombstone
        let s := held.foldl (fun t g =>
          if g.leaving then t.modRegion g.region fun r => { r with steps := r.steps.map fun st =>
            if st.holder = c then { st with destroyOf := some c } else st }
          else t.queueStep g.region { holder := c, destroyOf := some c }) s
        let cs := (s.cords.filter fun p => p.2.state == CordState.allocated && p.2.ctx == c).map Prod.fst
        let s := cs.foldl (fun t n => t.startZeroise n) s
        { s with destroys := Tab.set none s.destroys c (some { tag := k.tag, cords := cs }) }.running k)

/-- Keys of a context are in the key store or the ports' tables. -/
def State.keysOf (s : State) (c : Nat) : Bool :=
  s.ctxConf c || s.sec.weightKeys.any (·.ctx == c) || s.sec.sessionKeys.any (·.ctx == c)

/-- Step 3 of Table 11.9: the keys of a context are overwritten and read back; where one does not read as zero the key store is fenced
(R355; log 93). -/
def State.eraseKeys (s : State) (c : Nat) : State :=
  if !s.keysOf c then s
  else
    let (d, s) := s.draw
    let s := { s with sec := { s.sec with weightKeys := s.sec.weightKeys.filter fun (w : WeightKey) => w.ctx != c,
                                          sessionKeys := s.sec.sessionKeys.filter fun (w : SessionKey) => w.ctx != c } }
    if Config.readBackZero d || s.sec.keystoreFenced then s
    else { s with sec := { s.sec with keystoreFenced := true } }.log 0x0701 none none []

/-- Steps 4 and 5: the local store of every Ember that has held the context since its last zeroing, its translations, its fault entries, which
close as abort. -/
def State.eraseEngines (s : State) (c : Nat) : State :=
  { s with
    embers := Tab.mapVals {} s.embers fun e =>
      let e := if e.dirtyCtx.contains c then { e with store := [], descs := [], dirtyCtx := [] } else e
      { e with tb := e.tb.filter (fun (x : TbEnt) => x.ctx != c), wc := e.wc.filter (fun (x : WcEnt) => x.ctx != c),
               preloads := e.preloads.filter fun p => ((s.plan p).map fun (x : Plan) => x.ctx) != some c }
    faultQs := Tab.mapVals {} s.faultQs fun q =>
      let slots := Tab.mapVals none q.slots fun e => e.filter fun (f : FqEnt) => f.fault.ctx != c
      { q with slots, unread := q.unread.filter (fun i => (Tab.get none slots i).isSome)
               rewalk := q.rewalk || (decide (slots.length < q.slots.length) && q.stall != [])
               full := q.full && !(decide (slots.length < 1024) && q.stall == []) } }

/-- Steps 6 and 7: plans, measurements, log and duplicate window, with the context itself. -/
def State.eraseRecords (s : State) (c : Nat) : State :=
  { s with
    plans := Tab.mapVals none s.plans fun p => p.filter fun (x : Plan) => x.ctx != c
    windows := Tab.set [] s.windows c []
    ctxs := Tab.set none s.ctxs c none
    destroys := Tab.set none s.destroys c none }

/-- CTX_DESTROY_COMPLETE (R355): every grant revoked and every cord settled, those of the reclaimed regions among them, the state of Table
11.9 is erased in its order and the final reply follows. -/
def execCtxDestroyComplete (c : Nat) (s : State) : Out :=
  done (match Tab.get none s.destroys c with
    | none => s
    | some d =>
      let s := s.settleCords
      let left := ((Tab.get none s.destroys c).map (·.cords)).getD []
      if s.grants.any (fun g => g.holder == c && !g.tombstone) || left != [] || s.cmds.any (·.ctx == c) ||
          s.regions.any (fun p => (p.2.map fun r => r.steps.any fun st => st.destroyOf == some c).getD false) then s
      else
        let s := ((s.eraseKeys c).eraseEngines c).eraseRecords c
        match s.cmd 0 d.tag with
        | some k => s.final k stOk (natLE 4 d.revoked ++ natLE 4 d.cindered)
        | none => s)

/-! ## Measurements (R345, R346) -/

/-- The 48 bytes of a log entry (Table 11.4). -/
def Meas.bytes (m : Meas) : Bytes := natLE 1 m.kind ++ zeros 3 ++ natLE 4 m.object ++ natLE 8 m.aux ++ padTo 32 m.digest

/-- A measured event is refused: the log of a confidential context is full (R346). -/
def Ctx.logFull (x : Ctx) : Bool := x.conf && decide (256 ≤ x.log.length)

/-- A measured event. -/
def State.measured (s : State) (c : Nat) (m : Meas) : State :=
  s.modCtx c fun x =>
    let l := x.log ++ [m]
    { x with log := if l.length > 256 then l.drop 1 else l, truncated := x.truncated || decide (l.length > 256),
             measure := Config.sm3 (x.measure ++ m.bytes) }

/-! ## Signatures, identity and images (R336-R340) -/

/-- The default signer ID of GB/T 32918 (R338). -/
def signerId : Bytes := (List.range 16).map fun i => BitVec.ofNat 8 (0x31 + i % 8)

/-- The hash that an SM2 signature under a public key covers: SM3 over the Z value and the message (R338). -/
def sm2Hash (key msg : Bytes) : Bytes :=
  Config.sm3 (Config.sm3 (natBE 2 (8 * signerId.length) ++ signerId ++ Config.sm2Curve ++ padTo 64 key) ++ msg)

/-- A signature as it is stored: r, then s, 32 bytes each, big-endian (R338). -/
def sm2Sign (key : SignKey) (draw : Nat) (msg : Bytes) : Bytes :=
  let p := Config.sm2Raw key draw (sm2Hash (Config.signPublic key) msg)
  natBE 32 p.1 ++ natBE 32 p.2

/-- A stored signature verifies. -/
def sm2Verify (key msg sig : Bytes) : Bool :=
  sig.length == 64 && Config.sm2Check key (sm2Hash key msg) (leNat (sig.take 32).reverse) (leNat (sig.drop 32).reverse)

/-- Kindling's checks of an image, and its measurements (R339, R340): header and body, then 64 bytes of signature over their SM3 digest. -/
def imageCheck (b : Bytes) : ImageCheck :=
  { keyOk := decide (64 < b.length) && Config.sm3 (Config.imageKey b) == Config.vendorKeyDigest
    sigOk := decide (64 < b.length) && sm2Verify (Config.imageKey b) (Config.sm3 (b.take (b.length - 64))) (b.drop (b.length - 64))
    svn := Config.imageSvn b, stateFormat := Config.imageFormat b
    digest := Config.sm3 (Config.imageFirmware b), tables := Config.sm3 (Config.imageTables b) }

/-- SM3 digest of Kindling (R339, R340). -/
def kindlingDigest : Bytes := Config.sm3 Config.kindlingRom

/-- The attestation key pair of a boot, its certificate and the signature of Table 11.5, made at a full reset (R337). -/
def State.issueAttest (s : State) : State :=
  let (d, s) := s.draw
  let (e, s) := s.draw
  let (f, s) := s.draw
  let pub := padTo 64 (Config.signPublic (.attest d))
  let body := Config.certBody pub Config.serial.toNat s.kept.bootCount
  { s with sec := { s.sec with
      attestReady := true, attestKey := d, attestCert := Config.certificate body (sm2Sign .identity e body)
      attestSig := sm2Sign .identity f (Config.sm3 (pub ++ natLE 8 Config.serial.toNat ++ natLE 4 s.kept.bootCount)) } }

/-- The chain of certificate slot 0 (R337). -/
def State.chain (s : State) : Bytes := Config.vendorCert ++ Config.identityCert ++ s.sec.attestCert

/-! ## Attestation (R347, R348, R465) -/

/-- Control units run different images (R347, Table 11.12): a reloaded unit counts also while it is out (Table 11.10). -/
def State.imagesDiffer (s : State) : Bool :=
  match (s.triplex.units.filter fun u => u.state != CuState.failed && u.state != CuState.lost).map fun u => (u.digest, u.tables, u.svn) with
  | d :: t => t.any (· != d)
  | [] => false

/-- The active unit. -/
def State.activeCu (s : State) : Cu := s.cu (s.triplex.holder.getD 0)

/-- The mode in effect: lockstep needs three units that serve the same image (R364). -/
def State.lockstep (s : State) : Bool :=
  !s.triplex.hotRequested && (s.triplex.units.all fun u => u.state == CuState.serving) && !s.imagesDiffer

/-- A report up to its signature (Table 11.5). -/
def State.report (s : State) (c : Nat) (x : Ctx) (nonce : Bytes) (seq : Nat) : Bytes :=
  let n := x.log.length
  let flags := b2n x.conf + 2 * b2n x.isolated + 4 * b2n x.truncated + 8 * b2n s.sec.chipUnlocked + 16 * b2n s.sec.engineOpened +
    32 * b2n s.imagesDiffer + 64 * b2n (s.boot.envInForce == 0) + 128 * b2n x.keyBound
  let act : Gates := if s.sched.defaultLists then {} else s.gates
  let other := s.sched.versions.getD (1 - s.sched.active) {}
  let ract := if s.routeSwitched then s.routing else {}
  let rother := s.routes.getD (1 - s.routeActive) {}
  natLE 4 0x41545250 ++ natLE 2 1 ++ natLE 2 c ++ natLE 4 (704 + 48 * n) ++ natLE 4 flags ++ natLE 8 Config.serial.toNat ++
  natLE 1 s.boot.envInForce ++ natLE 1 (b2n (!s.lockstep)) ++ natLE 2 s.activeCu.svn ++ natLE 4 s.kept.bootCount ++ natLE 8 s.clk.nt ++
  natLE 4 seq ++ zeros 4 ++ padTo 32 nonce ++ padTo 32 kindlingDigest ++ padTo 32 s.activeCu.digest ++ padTo 32 s.activeCu.tables ++
  padTo 32 Config.fuseDigest ++ padTo 32 act.digest ++ padTo 32 other.digest ++ padTo 32 ract.digest ++ padTo 32 rother.digest ++
  padTo 64 (if x.conf then Config.ephemeralPublic x.ephemeral else []) ++ padTo 32 x.measure ++ natLE 2 n ++ zeros 2 ++
  padTo 64 (Config.signPublic (.attest s.sec.attestKey)) ++ padTo 64 s.sec.attestSig ++ zeros 76 ++ x.log.flatMap Meas.bytes

/-- CTX_ATTEST (R348): the length is checked and the signing begins. -/
def execCtxAttest (ctx tag : Nat) (s : State) : Out :=
  done (s.withTaken ctx tag 0x05 fun k s =>
    match s.ctx k.ctx with
    | none => s.refuse k stNoContext
    | some x =>
      let chain := bit (k.par 59 1) 0
      let need := 704 + 48 * x.log.length + (if chain then s.chain.length else 0)
      let a := k.par 16 8
      if s.engineLost || !s.sec.attestReady then s.refuse k stInternal
      else if a % 8 ≠ 0 then s.refuse k stBadParam 16
      else if k.par 56 3 < need then s.refuse k stNoSpace 0xFF (natLE 4 need)
      else if !bit a 63 && (s.rangeStatus k.ctx (a % 2 ^ 48) need rightWrite).isSome then s.refuse k stBadParam 16
      else
        let seq := s.sec.reportSeq + 1
        { s with sec := { s.sec with reportSeq := seq, signings := s.sec.signings ++
            [({ ctx := k.ctx, tag := k.tag, body := s.report k.ctx x ((k.bytes.drop 24).take 32) seq, seq, chain } : Signing)] } }.running k)

/-- REPORT_SIGNING_DONE (R348). -/
def execReportSigningDone (ctx tag : Nat) (hostOk : Bool) (s : State) : Out :=
  done (s.withRunning ctx tag 0x05 fun k s =>
    match s.sec.signings.find? fun g => g.ctx == k.ctx && g.tag == k.tag with
    | none => s
    | some g =>
      let s := { s with sec := { s.sec with signings := s.sec.signings.filter (· != g) } }
      if s.engineLost then s.refuse k stInternal
      else
        let (d, s) := s.draw
        let rep := g.body ++ sm2Sign (.attest s.sec.attestKey) d g.body
        let out := rep ++ (if g.chain then s.chain else [])
        let s := { s with sec := { s.sec with reports := satInc 32 s.sec.reports } }
        let s := s.modCtx k.ctx fun x => { x with attested := x.attested || x.conf }
        match s.writeOut k (k.par 16 8) out hostOk with
        | (s, some st) => s.refuse k st 16
        | (s, none) => s.final k stOk (natLE 4 out.length ++ natLE 4 g.seq))

/-! ## Keys (R350, R351, R353, R466) -/

/-- A plaintext that follows Table 11.7 for a context. -/
def keyPlainOk (p : Bytes) (c : Nat) : Bool :=
  let kind := fieldAt p 18 1
  let slot := fieldAt p 19 1
  let peer := fieldAt p 20 2
  decide (p.length = 24) && fieldAt p 16 2 == c && fieldAt p 22 2 == 0 &&
  ((kind == 1 && decide (slot < 16) && peer == 0) || (kind == 2 && slot == 0 && decide (1 ≤ peer) && decide (peer ≤ 0x7FFE)))

/-- The share of the key store's slots has room for one more slot of `c` (R333). -/
def State.weightRoom (s : State) (c : Nat) : Bool :=
  s.ctxIso c || decide (s.sharedWeightKeys + s.reserved 4096 (fun y => if y.conf then 16 else 0) < 8192)

/-- The share of the session-key table of `c` (R333). -/
def State.sessionRoom (s : State) (c n : Nat) : Bool :=
  if s.ctxIso c then decide (s.sessionEntries (· == c) + n ≤ ((s.ctx c).map (·.keysRes)).getD 0)
  else decide (s.sessionEntries (fun d => !s.ctxIso d) + n + s.reserved 4096 (·.keysRes) ≤ 16384)

/-- CTX_BIND_KEY (R351). -/
def execCtxBindKey (ctx tag : Nat) (s : State) : Out :=
  done (s.withTaken ctx tag 0x06 fun k s =>
    match s.ctx k.ctx with
    | none => s.refuse k stNoContext
    | some x =>
      if !x.conf then s.refuse k stBadParam
      else if !x.attested then s.refuse k stAttest
      else if s.keysLost then s.refuse k stInternal
      else match s.poolRead k.ctx (k.par 16 8) 128 rightRead with
        | (s, .busy) => s.again k
        | (s, .fail st) => s.refuse k st 16
        | (s, .ok blob) =>
          let plain := if (blob.drop 121).all (· == 0) then Config.sm2Open x.ephemeral (blob.take 121) else none
          match plain.filter (keyPlainOk · k.ctx) with
          | none =>
            ({ s with sec := { s.sec with unwrapFail := satInc 16 s.sec.unwrapFail } }).refuse k stBadParam 0xFF [0x02]
          | some p =>
            let kind := fieldAt p 18 1
            let slot := fieldAt p 19 1
            let peer := fieldAt p 20 2
            let old := s.sessionKey k.ctx peer
            let have_ := s.sec.weightKeys.any fun w => w.ctx == k.ctx && w.slot == slot
            if x.logFull then s.refuse k stNoSpace
            else if kind = 1 ∧ !have_ ∧ !s.weightRoom k.ctx then s.refuse k stNoSpace
            else if kind = 2 ∧ !s.sessionRoom k.ctx 1 then s.refuse k stNoSpace
            else
              let key := p.take 16
              let s := if kind = 1 then
                  { s with sec := { s.sec with weightKeys := (s.sec.weightKeys.filter fun (w : WeightKey) => !(w.ctx == k.ctx && w.slot == slot)) ++
                      [({ ctx := k.ctx, slot, key } : WeightKey)] } }
                else
                  { s with sec := { s.sec with sessionKeys := (s.sec.sessionKeys.filter fun (w : SessionKey) => !(w.ctx == k.ctx && w.peer == peer)) ++
                      [({ ctx := k.ctx, peer, key, olds := (old.map fun o => (o.key, s.clk.elapsed) :: o.olds).getD [] } : SessionKey)] } }
              let s := s.measured k.ctx { kind := 3, object := if kind = 1 then slot else peer, aux := kind, digest := Config.sm3 blob }
              (s.modCtx k.ctx fun x => { x with keyBound := true }).final k stOk (natLE 1 kind ++ natLE 1 slot ++ natLE 2 peer))

/-- SESSION_KEY_RETIRE (R353): the key replaced first is erased 100 us after its replacement. -/
def execSessionKeyRetire (ctx peer : Nat) (s : State) : Out :=
  done (match s.sessionKey ctx peer with
    | some k =>
      match k.olds.getLast? with
      | none => s
      | some o => s.atElapsed (o.2 + 100000) fun s => { s with sec := { s.sec with sessionKeys := s.sec.sessionKeys.map fun (w : SessionKey) =>
        if w = k then { w with olds := w.olds.dropLast } else w } }
    | none => s)

/-! ## Ingest (R352, R483) -/

/-- Zeroises a pool range, line by line of its granules (R84). -/
def State.zeroPool (s : State) (a len : Nat) : State :=
  (List.range ((a + len - 1) / 2 ^ 28 - a / 2 ^ 28 + 1)).foldl (fun t i =>
    let g := a / 2 ^ 28 + i
    let lo := max a (g * 2 ^ 28)
    let hi := min (a + len) ((g + 1) * 2 ^ 28)
    (Tab.get [] t.gmap g).foldl (fun t c => (t.zeroise (cordDpa c + lo % 2 ^ 28) (hi - lo)).1) t) s

/-- WEIGHT_INGEST (R352): the destination reads as zero from the start on; a fifth ingest waits while four run. -/
def execWeightIngest (ctx tag : Nat) (s : State) : Out :=
  done (s.withTaken ctx tag 0x34 fun k s =>
    match s.ctx k.ctx with
    | none => s.refuse k stNoContext
    | some x =>
      let src := k.par 16 8
      let dst := k.par 24 8
      let len := k.par 32 8
      let inConf := (s.resolve dst).map fun p => ((s.region p.1).map (·.conf)).getD false
      if s.keysLost then s.refuse k stInternal
      else if x.conf && !x.attested then s.refuse k stAttest
      else if src % 64 ≠ 0 then s.refuse k stBadParam 16
      else if dst % 64 ≠ 0 then s.refuse k stBadParam 24
      else if len % 64 ≠ 0 ∨ len < 64 ∨ 2 ^ 40 < len then s.refuse k stBadParam 32
      else match s.sec.weightKeys.find? fun w => w.ctx == k.ctx && w.slot == k.par 40 1 with
        | none => s.refuse k stBadParam 40
        | some w =>
          match s.rangeStatus k.ctx src (len + 16) rightRead, s.rangeStatus k.ctx dst len rightWrite with
          | some st, _ => s.refuse k st 16
          | none, some st => s.refuse k st 24
          | none, none =>
            if inConf ≠ some true then s.refuse k stBadParam 24
            else match s.rangeFree k.ctx dst len with
            | (s, false) => s.again k
            | (s, true) =>
              let s := s.zeroPool dst len
              let run := decide ((s.sec.ingests.filter (·.running)).length < 4)
              { s with sec := { s.sec with ingests := s.sec.ingests ++
                  [({ ctx := k.ctx, tag := k.tag, source := src, dest := dst, len, iv := (k.bytes.drop 44).take 12, key := w.key, running := run } : Ingest)] } }.running k)

/-- WEIGHT_INGEST_DONE (R352): the plaintext and its digest, or a failed tag, once agents' copies of the destination have been called back. It
ends with `INTERNAL_ERROR` when H3 is lost (Table 1.9). -/
def execWeightIngestDone (ctx tag : Nat) (s : State) : Out :=
  done (s.withRunning ctx tag 0x34 fun k s =>
    match s.sec.ingests.find? fun g => g.ctx == k.ctx && g.tag == k.tag, s.ctx k.ctx with
    | some g, some x =>
      if s.engineLost then { s with sec := { s.sec with ingests := s.sec.ingests.filter (· != g) } }.refuse k stInternal
      else if !g.running then s
      else match s.poolRead k.ctx g.source (g.len + 16) rightRead with
        | (s, .busy) => s
        | (s, r) =>
          match s.rangeFree k.ctx g.dest g.len with
          | (s, false) => s
          | (s, true) =>
          let s := { s with sec := { s.sec with ingests := startIngest (s.sec.ingests.filter (· != g)) } }
          match r with
          | .ok d =>
            let plain := (Config.sm4Gcm g.key g.iv [] (d.take g.len)).1
            if (Config.sm4Gcm g.key g.iv [] plain).2 ≠ d.drop g.len then
              ({ s.zeroPool g.dest g.len with sec := { s.sec with tagFail := satInc 16 s.sec.tagFail } }).refuse k stBadParam 0xFF [0x01]
            else if (s.rangeStatus k.ctx g.dest g.len rightWrite).isSome then s.refuse k (s.rightStatus k.ctx (((s.resolve g.dest).map (·.1)).getD 0)) 24
            else if x.logFull then s.refuse k stNoSpace
            else
              let h := Config.sm3 plain
              match s.poolWrite k.ctx (g.len / 64 + 2) g.dest plain with
              | (s, false) => s.refuse k stBadParam 24
              | (s, true) => (s.measured k.ctx { kind := 2, object := k.par 40 1, aux := g.dest, digest := h }).final k stOk (padTo 16 h)
          | .fail st => s.refuse k st 16
          | .busy => s
    | _, _ => s)

end Sys2Proof.Machine
end

