-- ==== Sys2Proof/Machine/CmdMemory.lean ====
section
/-! DEFINITION. The memory commands: cords, regions, grants, leases, moves, scrubs, zeroing, triple placement (chapters 3, 4, 12
and 16). -/

set_option Elab.async false

namespace Sys2Proof.Machine

/-! ## CORD_ALLOC and CORD_FREE (R104, R105, R467, R468) -/

/-- A cord of the free pool in a channel that takes new cords. -/
def State.freeCord (s : State) (n : Nat) : Bool :=
  ((s.cord n).state == .free) && ((s.chan (cordChan n)).state == .inService) && !(s.chan (cordChan n)).retiring.isSome

/-- The free cords of channels `lo` to below `hi`, lowest number first. -/
def State.freeIn (s : State) (lo hi : Nat) : List Nat := ((List.range (12 * (hi - lo))).map (12 * lo + ·)).filter s.freeCord

/-- The channels of a mode-3 list, before its end marker. -/
def channelList (sel : Bytes) : List Nat := ((List.range 16).map fun i => fieldAt sel (2 * i) 2).takeWhile (· != 0xFFFF)

/-- The tiles of a mode-4 mask, in device tile order. -/
def tileList (sel : Bytes) : List Nat := (List.range 256).filter fun t => bit (fieldAt sel (t / 8) 1) (t % 8)

/-- The first byte at fault of the placement parameters (R467, R11). -/
def Cmd.allocFault (k : Cmd) : Option Nat :=
  let mode := k.par 22 2 / 4096
  let count := k.par 24 2
  let sel := (k.bytes.drop 28).take 32
  if k.par 16 6 % 8 ≠ 0 then some 16
  else if 4 < mode then some 23
  else if count = 0 ∨ (if mode = 4 then 12 else 6144) < count then some 24
  else if mode = 1 ∧ 3 < k.par 26 1 ∨ mode = 2 ∧ 15 < k.par 26 1 then some 26
  else if mode = 3 then
    let l := channelList sel
    if l = [] then some 28
    else match l.findIdx? fun g => decide (512 ≤ g) with
      | some i => some (28 + 2 * i)
      | none => ((List.range 32).find? fun i => decide (2 * l.length + 2 ≤ i) && sel.getD i 0 != 0).map (28 + ·)
  else if mode = 4 ∧ tileList sel = [] then some 28
  else none

/-- The cords a placement takes, in assignment order (Table 4.2); none where too few are free. -/
def State.place (s : State) (k : Cmd) : Option (List Nat) :=
  let mode := k.par 22 2 / 4096
  let count := k.par 24 2
  let sel := (k.bytes.drop 28).take 32
  let u := k.par 26 1
  let take (l : List Nat) : Option (List Nat) := if count ≤ l.length then some (l.take count) else none
  match mode with
  | 0 => take (s.freeIn 0 512)
  | 1 => take (s.freeIn (128 * u) (128 * u + 128))
  | 2 => take (s.freeIn (32 * u) (32 * u + 32))
  | 3 => take ((channelList sel).eraseDups.flatMap fun g => s.freeIn g (g + 1))
  | _ => ((tileList sel).mapM fun t => take (s.freeIn (2 * t) (2 * t + 2))).map List.flatten

/-- CORD_ALLOC (R104, R467): in full or not at all. -/
def execCordAlloc (ctx tag : Nat) (hostOk : Bool) (s : State) : Out :=
  done (s.withTaken ctx tag 0x10 fun k s =>
    let c := k.par 22 2 % 4096
    match k.allocFault with
    | some i => s.refuse k stBadParam i
    | none =>
      if !s.ctxLive c then s.refuse k stNoContext 22
      else match s.place k with
        | none => s.refuse k stNoSpace
        | some l =>
          match s.writeOut k (2 ^ 63 + k.par 16 6) (l.flatMap (natLE 2)) hostOk with
          | (s, some st) => s.refuse k st 16
          | (s, none) =>
            (l.foldl (fun t n => t.modCord n fun x => { x with state := .allocated, ctx := c }) s).final k stOk (natLE 2 l.length))

/-- The cord numbers of a list in memory. -/
def cordNumbers (b : Bytes) (count : Nat) : List Nat := (List.range count).map fun i => fieldAt b (2 * i) 2

/-- The first of `l` that `bad` refuses, or that stands twice: its index and the status it gets. -/
def firstRefused (l : List Nat) (bad : Nat → Option Nat) : Option (Nat × Nat) :=
  ((List.range l.length).zip l).findSome? fun p =>
    match bad p.2 with
    | some st => some (p.1, st)
    | none => if (l.take p.1).contains p.2 then some (p.1, stBadParam) else none

/-- A cord allocated to a context. -/
def State.allocatedTo (s : State) (n c : Nat) : Bool := decide (n < 6144) && ((s.cord n).state == .allocated) && ((s.cord n).ctx == c)

/-- CORD_FREE (R105, R468): every cord is checked first; the final reply follows the last zeroisation. -/
def execCordFree (ctx tag : Nat) (hostData : Option Bytes) (s : State) : Out :=
  done (s.withTaken ctx tag 0x11 fun k s =>
    let c := k.par 22 2 % 4096
    let count := k.par 24 2
    if k.par 16 6 % 8 ≠ 0 then s.refuse k stBadParam 16
    else if count = 0 ∨ 6144 < count then s.refuse k stBadParam 24
    else if !s.ctxLive c then s.refuse k stNoContext 22
    else match s.readIn k (2 ^ 63 + k.par 16 6) (2 * count) hostData with
      | (s, .busy) => s.again k
      | (s, .fail st) => s.refuse k st 16
      | (s, .ok b) =>
        let l := cordNumbers b count
        let bad (n : Nat) : Option Nat :=
          if decide (n < 6144) && ((s.cord n).state == .bound || (s.cord n).state == .migrating) then some stInUse
          else if s.allocatedTo n c then none else some stBadParam
        match firstRefused l bad with
        | some (i, st) => s.refuse k st 16 (if st = stInUse then [] else natLE 2 i)
        | none =>
          let s := l.foldl (fun t n => t.startZeroise n) s
          ({ s with frees := s.frees ++ [({ ctx := k.ctx, tag := k.tag, cords := l } : Freeing)] }).running k)

/-! ## REGION_DEFINE (R108, R109, R176, R469) -/

/-- A lease period in ms: 0 stands for 100 (R117). -/
def leasePeriod (v : Nat) : Option Nat := if v = 0 then some 100 else if v ≤ 10000 then some v else none

/-- Grant entries left in the part that a holder draws on, tombstones counted (R110, R116, R333). -/
def State.grantRoom (s : State) (h : Nat) : Bool :=
  if s.ctxIso h then decide ((s.grants.filter (·.holder == h)).length < ((s.ctx h).map (·.grantsRes)).getD 0)
  else decide ((s.grants.filter fun g => !s.ctxIso g.holder).length + s.reserved 4096 (·.grantsRes) < 65536)

/-- The part of the grant table that two holders share. -/
def State.samePart (s : State) (h j : Nat) : Bool := if s.ctxIso h then j == h else !s.ctxIso j

/-- The oldest tombstone of the holder's part goes, with its traces at the stamping points (R116). None: there is none. -/
def State.dropTombstone (s : State) (h : Nat) : Option State :=
  (s.grants.find? fun g => g.tombstone && s.samePart h g.holder && !(match s.region g.region with
    | some r => r.steps.any fun st => st.holder == g.holder
    | none => false)).map fun o =>
    { s with grants := s.grants.filter (· != o),
             caches := Tab.mapVals [] s.caches fun l => l.filter fun (e : CacheEnt) => !(e.holder == o.holder && e.region == o.region && e.inflight == 0) }

/-- Region numbers left to a definer (R333). -/
def State.regionRoom (s : State) (c : Nat) : Bool :=
  if s.ctxIso c then decide (s.regionsOf c < ((s.ctx c).map (·.regionsRes)).getD 0)
  else decide ((s.regions.filter fun p => (p.2.map fun r => !s.ctxIso r.definer).getD false).length + s.reserved 4096 (·.regionsRes) < 8191)

/-- The lowest free region number. -/
def State.freeRegion (s : State) : Option Nat := ((List.range 8192).drop 1).find? fun n => (s.region n).isNone

/-- `n` granules from `g` on are unmapped. -/
def State.granulesFree (s : State) (g n : Nat) : Bool :=
  decide (g + n ≤ 16384) && !(s.gmap.any fun p => decide (g ≤ p.1) && decide (p.1 < g + n))

/-- Where a region begins: the granule asked for, or the lowest free run (R108, R109). -/
def State.chooseBase (s : State) (base n : Nat) : Option Nat :=
  if base = 0x3FFF then (List.range 16384).find? fun g => s.granulesFree g n
  else if s.granulesFree base n then some base else none

/-- A slice homes a sync cord. -/
def State.syncHomed (s : State) (i : Nat) : Bool := s.cords.any fun p =>
  cordSlice p.1 == i && (p.2.state == CordState.bound || p.2.state == CordState.migrating) && ((s.region p.2.region).map (·.sync)).getD false

/-- The ways that a slice can give to a partition, the best first (R176): those in no mask, then the shared class's but for its last one. -/
def State.waysToGive (s : State) (i : Nat) : List Nat :=
  let shared := (s.slice i).wayShared
  let free := (List.range 16).filter fun b => !(s.partitions.any fun p => p.slice == i && bit p.mask b)
  (free.filter fun b => !bit shared b).reverse ++ (free.filter fun b => bit shared b).reverse.dropLast

/-- A context's partition in a slice: the one it has, or two of the ways that the slice can give (R176). None: it has none to give. -/
def State.givePartition (s : State) (i c : Nat) : Option State :=
  if (s.partition i c).isSome then some s
  else
    match s.waysToGive i with
    | a :: b :: _ =>
      let m := 2 ^ a + 2 ^ b
      let old := (s.slice i).wayShared &&& m
      some { s.modSlice i fun x => { x with wayShared := x.wayShared - old } with
        partitions := s.partitions ++ [({ slice := i, ctx := c, mask := m, shared := old } : Partition)] }
    | _ => none

/-- Partitions of a definer in every slice of a list of cords. -/
def State.givePartitions (s : State) (c : Nat) (cords : List Nat) : Option State :=
  (cords.map cordSlice).eraseDups.foldl (fun (o : Option State) i => o.bind fun t => t.givePartition i c) (some s)

/-- The rights a definer receives (R108, Table 11.3). -/
def definerRights (ctxConf conf sync : Bool) : Nat := if ctxConf && !conf then 0x19 else 0x1B + 4 * b2n sync

/-- REGION_DEFINE (R108, R469). -/
def execRegionDefine (ctx tag : Nat) (hostData : Option Bytes) (s : State) : Out :=
  done (s.withTaken ctx tag 0x12 fun k s =>
    let c := k.ctx
    let count := k.par 24 2
    let iso := bit (k.par 26 1) 0
    let conf := bit (k.par 26 1) 1
    let sync := bit (k.par 26 1) 2
    if conf && !s.ctxConf c then s.refuse k stConfidential 26
    else if iso != s.ctxIso c then s.refuse k stBadParam 26
    else if count = 0 ∨ 6144 < count then s.refuse k stBadParam 24
    else if 0x3FFF < k.par 28 2 then s.refuse k stBadParam 28
    else match leasePeriod (k.par 32 4) with
      | none => s.refuse k stBadParam 32
      | some lease =>
        match s.readIn k (k.par 16 8) (2 * count) hostData with
        | (s, .busy) => s.again k
        | (s, .fail st) => s.refuse k st 16
        | (s, .ok b) =>
          let l := cordNumbers b count
          match firstRefused l fun n => if s.allocatedTo n c then none else some stBadParam with
          | some (i, st) => s.refuse k st 16 (natLE 2 i)
          | none =>
            let slices := l.map cordSlice
            let room := s.regionRoom c && s.grantRoom c && (!sync || (!(slices.any s.syncHomed) && slices.eraseDups.length == count))
            match s.freeRegion, s.chooseBase (k.par 28 2) count with
            | some r, some g =>
              match if room then (if iso then s.givePartitions c l else some s) else none with
              | none => s.refuse k stNoSpace
              | some s =>
                let s := l.foldl (fun t n => t.modCord n fun x => { x with state := .bound, region := r, epoch := 0, removed := none }) s
                let reg : Region := { definer := c, isolated := iso, conf, sync, base := g, granules := l.map fun n => [n] }
                let gr : Grant := { holder := c, region := r, rights := definerRights (s.ctxConf c) conf sync, lease,
                                    expiry := k.acceptedAt + lease * 1000000 }
                ({ s with regions := Tab.set none s.regions r (some reg), grants := s.grants ++ [gr],
                          gmap := ((List.range count).zip l).foldl (fun (t : Tab (List Nat)) (p : Nat × Nat) => Tab.set [] t (g + p.1) [p.2]) s.gmap }).final k stOk
                  (natLE 2 r ++ natLE 2 g ++ natLE 1 0)
            | _, _ => s.refuse k stNoSpace)

/-! ## REGION_SHARE (R110, R111, R116, R117, R132, R470) -/

/-- Extents offered to or held by the host (R132). -/
def State.hostExtents (s : State) : Nat := (s.grants.filter fun g => g.holder == 4096 && (!g.tombstone || g.forced)).length

/-- A holder's grant on a region is on its way out, or past its expiry (Table 4.10). -/
def State.leavingGrant (s : State) (h r : Nat) : Bool :=
  (match s.grant h r with
    | some g => !g.tombstone && (g.leaving || decide (g.expiry ≤ s.clk.nt))
    | none => false) ||
  (match s.region r with
    | some x => x.steps.any fun st => st.holder == h
    | none => false)

/-- The refusal of a share, with its byte. -/
def State.shareFault (s : State) (k : Cmd) (rn h rights dc : Nat) (r : Option Region) : Option (Nat × Nat) :=
  if 4096 < h then some (stBadParam, 18)
  else if h = 4096 ∧ 7 < dc ∨ h ≠ 4096 ∧ dc ≠ 0xFF then some (stBadParam, 21)
  else if h < 4096 ∧ !s.ctxLive h then some (stNoContext, 18)
  else if rn = 0 ∨ 8191 < rn then some (stBadParam, 16)
  else match r with
    | none => some (stNoRight, 16)
    | some r =>
      if !s.hasRight k.ctx rn rightShare then some (s.rightStatus k.ctx rn, 16)
      else if bit rights rightOwn || (s.grant k.ctx rn).any (fun g => (List.range 5).any fun i => bit rights i && !bit g.rights i) then
        some (stNoRight, 20)
      else if h = 4096 ∧ k.ctx ≠ 0 then some (stNoRight, 18)
      else if r.conf && !s.ctxConf h then some (stConfidential, 18)
      else if !r.conf && s.ctxConf h && 1 < rights then some (stConfidential, 20)
      else if r.isolated != s.ctxIso h then some (stBadParam, 18)
      else if s.leavingGrant h rn then some (stInUse, 18)
      else none

/-- A grant as it is created or widened: an offer to the host becomes usable when the host accepts it (R132). -/
def widened (old : Option Grant) (h r rights lease expiry issuer dc now : Nat) : Grant :=
  match old with
  | some g => { g with rights := g.rights ||| rights, lease, expiry,
                       issuers := if g.rights ||| rights = g.rights ∨ g.issuers.contains issuer then g.issuers else g.issuers ++ [issuer] }
  | none => { holder := h, region := r, rights, lease, expiry, issuers := [issuer], dcRegion := if h = 4096 then some dc else none,
              accepted := decide (h ≠ 4096), offered := decide (h = 4096), offeredAt := now }

/-- REGION_SHARE (R111, R470). -/
def execRegionShare (ctx tag : Nat) (s : State) : Out :=
  done (s.withTaken ctx tag 0x13 fun k s =>
    let rn := k.par 16 2
    let h := k.par 18 2
    let rights := k.par 20 1
    let dc := k.par 21 1
    match leasePeriod (k.par 24 4) with
    | none => s.refuse k stBadParam 24
    | some lease =>
      let r := (s.region rn).filter fun x => x.state != RegionState.reclaiming
      match s.shareFault k rn h rights dc r with
      | some (st, i) => s.refuse k st i
      | none =>
        let live := (s.grant h rn).filter fun g => !g.tombstone
        -- a tombstone of the holder's own gives its entry back
        let s := if live.isNone then { s with grants := s.grants.filter fun (g : Grant) => !(g.holder == h && g.region == rn) } else s
        let s? := if live.isSome || s.grantRoom h then some s else s.dropTombstone h
        match s?, r with
        | some s, some r =>
          if h = 4096 ∧ live.isNone ∧ 1024 ≤ s.hostExtents then s.refuse k stNoSpace
          else
            let expiry := k.acceptedAt + lease * 1000000
            let g := widened live h rn rights lease expiry k.ctx dc s.clk.elapsed
            let s := { s with
              grants := if live.isSome then s.grants.map fun (x : Grant) => if x.holder = h ∧ x.region = rn then g else x else s.grants ++ [g]
              caches := Tab.mapVals [] s.caches fun l => (l.filter fun (e : CacheEnt) => !(e.holder == h && e.region == rn && e.tombstone)).map
                fun (e : CacheEnt) => if e.holder = h ∧ e.region = rn then { e with rights := g.rights } else e }
            let s := if h = 4096 ∧ live.isNone then (s.extents g).foldl (fun t x => t.dcEvent dcAdd x) s else s
            s.final k stOk (natLE 8 expiry ++ natLE 1 r.epoch)
        | _, _ => s.refuse k stNoSpace)

/-! ## REGION_REVOKE and LEASE_RENEW (R112, R117, R118, R471, R472) -/

/-- REGION_REVOKE (R112, R124, R471). -/
def execRegionRevoke (ctx tag : Nat) (s : State) : Out :=
  done (s.withTaken ctx tag 0x14 fun k s =>
    let rn := k.par 16 2
    let h := k.par 18 2
    match s.region rn, s.grant h rn with
    | none, _ => s.refuse k stBadParam 16
    | some _, none => s.refuse k stBadParam 18
    | some r, some g =>
      let inStep := r.steps.any fun st => st.holder == h
      -- the issuer's own grant on the region has lapsed (R119); a revoke that meets the lapse itself waits for it (Table 4.10)
      let lapsed := !k.mgmt && ((s.grant k.ctx rn).map (·.lapsed)).getD false && !(k.ctx == h && inStep)
      if lapsed then s.refuse k stLeaseExpired 18
      else if !(k.ctx == h || g.issuers.contains k.ctx || s.hasRight k.ctx rn rightOwn || k.mgmt) then s.refuse k stNoRight 18
      else
        if inStep then
          (s.modRegion rn fun x => { x with steps := x.steps.map fun (st : Step) =>
            if st.holder = h then { st with waiters := st.waiters ++ [(k.ctx, k.tag)] } else st }).running k
        else if g.tombstone then s.final k stOk
        else (s.queueStep rn { holder := h, waiters := [(k.ctx, k.tag)] }).running k)

/-- Why a renewal accepted at `t` fails for a grant, if it does (R118, Table 4.10). -/
def renewFault (g : Option Grant) (t : Nat) : Option Nat :=
  match g with
  | none => some stNoRight
  | some g =>
    if g.tombstone || g.leaving then some (if g.lapsed then stLeaseExpired else stRevoked)
    else if g.expiry ≤ t then some stLeaseExpired
    else none

/-- LEASE_RENEW (R117, R118, R472). -/
def execLeaseRenew (ctx tag : Nat) (s : State) : Out :=
  done (s.withTaken ctx tag 0x15 fun k s =>
    let h := k.par 16 2
    let count := k.par 18 1
    let t := k.acceptedAt
    if !(h == k.ctx || (h == 4096 && k.mgmt)) then s.refuse k stNoRight 16
    else if count = 0 ∨ 16 < count then s.refuse k stBadParam 18
    else if let some i := k.unusedAt (20 + 2 * count) 52 then s.refuse k stBadParam i
    else
      let mine := s.grants.filter fun g => g.holder == h
      -- the grants each position names
      let named (i : Nat) : List (Option Grant) :=
        let r := k.par (20 + 2 * i) 2
        if r = 0 then (mine.filter fun g => !g.tombstone).map some else [mine.find? fun g => g.region == r]
      let faults := (List.range count).map fun i => (named i).findSome? fun g => renewFault g t
      let renewed := ((List.range count).flatMap fun i => (named i).filterMap fun g => if (renewFault g t).isNone then g.map (·.region) else none).eraseDups
      let s := { s with grants := s.grants.map fun (g : Grant) =>
        if g.holder = h ∧ renewed.contains g.region ∧ !g.tombstone then { g with expiry := t + g.lease * 1000000 } else g }
      let mask := ((List.range count).filter fun i => (faults.getD i none).isSome).map (2 ^ ·) |>.sum
      s.final k ((faults.findSome? id).getD stOk) (natLE 2 renewed.length ++ natLE 2 mask ++ zeros 4 ++ natLE 8 t))

/-! ## Destinations (R128, R176, R373, R378) -/

/-- The lists in force as one version. -/
def State.gatesInForce (s : State) : Gates :=
  if s.sched.defaultLists then { cycle := 12500, lists := (List.range 289).map fun k => (k, defaultList k) } else s.gates

/-- The channel triplets: those that host a cord triplet, and those that a tripling is forming (R373). -/
def State.triplets (s : State) : List (List Nat) :=
  let placed := s.regions.flatMap fun p => match p.2 with
    | some r => (r.granules.filter fun t => decide (1 < t.length)).map fun t => t.map cordChan
    | none => []
  let forming := s.cords.filterMap fun p =>
    if p.2.dest.isSome && ((s.region p.2.region).bind (·.tripling)).isSome then
      let t := ((s.region p.2.region).bind fun r => r.granules.find? (·.contains p.1)).getD []
      let keep := t.filter fun n => !((s.chan (cordChan n)).state == .retired || s.hearthLost (chanHearth (cordChan n)))
      some ((keep ++ p.2.dest.toList ++ p.2.extraDest).map cordChan)
    else none
  (placed ++ forming).eraseDups

/-- Cord `d` may take a copy of a granule of region `rn` whose other copies lie in the cords `others`; `place` is the cord whose
place it takes, none where it adds a copy (R128, R374, R378). -/
def State.destOk (s : State) (rn d : Nat) (r : Region) (others : List Nat) (place : Option Nat) : Bool :=
  let g := cordChan d
  let owners := s.holderOwners rn
  let triple := others != []
  s.freeCord d &&
  !(triple && others.any fun n => chanHearth (cordChan n) == chanHearth g) &&
  !(r.sync && s.syncHomed (cordSlice d)) &&
  !(owners.any fun o => isoOwner o && ownedIntervals s.gatesInForce (chanTile g) resChannel o == []) &&
  (!triple || owners.all fun o => tripletMeets s.gatesInForce o (g :: others.map cordChan)) &&
  -- a triplet's channel belongs to no other triplet
  (!triple || s.triplets.all fun t => !t.contains g || others.all fun n => t.contains (cordChan n)) &&
  (match place with
    | some _ => true
    | none => triple) &&
  (!r.isolated || (s.givePartition (cordSlice d) r.definer).isSome)

/-- The copies of a granule other than cord `n`. -/
def Region.others (r : Region) (n : Nat) : List Nat := (((r.granules.find? (·.contains n)).getD []).filter (· != n))

/-- A destination for cord `n`: the same stack, then the same Hearth, then any, lowest cord first (R128). -/
def State.destFor (s : State) (rn n : Nat) (r : Region) : Option Nat :=
  let g := cordChan n
  let st := chanStack g
  let h := chanHearth g
  let ok (d : Nat) : Bool := s.destOk rn d r (r.others n) (some n)
  match (s.freeIn (32 * st) (32 * st + 32)).find? ok with
  | some d => some d
  | none => match (s.freeIn (128 * h) (128 * h + 128)).find? ok with
    | some d => some d
    | none => (s.freeIn 0 512).find? ok

/-- Cord `n` begins to move, or to be copied, to reserved destinations. -/
def State.reserve (s : State) (rn n : Nat) (r : Region) (ds : List Nat) : State :=
  let s := ds.foldl (fun t d =>
    let t := if r.isolated then (t.givePartition (cordSlice d) r.definer).getD t else t
    t.modCord d fun x => { x with state := .bound, ctx := r.definer, region := rn, epoch := r.epoch }) s
  s.modCord n fun x => { x with state := .migrating, dest := ds.head?, extraDest := ds.drop 1, copied := 0, linesCopied := 0, linesCindered := 0,
                                cutover := false }

/-- REGION_MIGRATE (R128, R473). -/
def execRegionMigrate (ctx tag : Nat) (s : State) : Out :=
  done (s.withTaken ctx tag 0x16 fun k s =>
    let rn := k.par 16 2
    let n := k.par 20 2
    let g := k.par 22 2
    match s.region rn with
    | none => s.refuse k stBadParam 16
    | some r =>
      if !r.cords.contains n then s.refuse k stBadParam 20
      else if (s.cord n).state == .migrating || (s.cord n).state == .zeroising || r.tripling.isSome then s.refuse k stInUse 20
      else if g = 0xFFFF then
        match s.destFor rn n r with
        | some d => (s.reserve rn n r [d]).running k
        | none => s.refuse k stNoSpace
      else if 512 ≤ g ∨ (s.chan g).state != ChanState.inService || (s.chan g).retiring.isSome then s.refuse k stBadParam 22
      else match s.freeIn g (g + 1) with
        | [] => s.refuse k stNoSpace
        | d :: _ => if s.destOk rn d r (r.others n) (some n) then (s.reserve rn n r [d]).running k else s.refuse k stBadParam 22)

/-! ## SCRUB_RANGE (R92-R94, R474) -/

/-- The read of line `l` that a scrub makes will find one symbol to correct: there is such a read, its block valid and no entry of the
line that covers it whole, and the codeword decodes so (R92, R94). -/
def State.willCorrect (s : State) (l : Nat) : Bool :=
  let c := Tab.get {} s.code l
  s.blockValid l && !((s.chan (lineChan l)).merge.any fun e => e.line == l && !s.needsRead e) && decide (decodeClass (dataSymbols l) c.cinder c.syms c.addrSym = .corrected)

/-- A copy of a line scrubbed at its channel: the state, whether it was corrected, whether it is cinder now. -/
def State.scrubLine (s : State) (l ctx : Nat) : State × Bool × Bool :=
  let g := lineChan l
  if (s.refusedLine l).isSome || (s.chan g).poisoned.contains (lineBitmap l) then (s, false, false)
  else
    let fixes := s.willCorrect l
    let (s, r) := match s.flushLine l [] with
      | (s, some r) => (s, r)
      | (s, none) => if s.blockValid l then s.readDram l (some ctx) [] else (s, .data [])
    let cinder := match r with | .data _ => false | .bad _ => true
    (s, fixes && !cinder, cinder)

/-- The copies of a line below its home. -/
def State.copiesOf (s : State) (l : Nat) : List Nat := if s.isTriple l then (s.copies l).map Prod.snd else [l]

/-- Both copies of the bitmap line that covers a line are read and checked (R92). -/
def State.scrubBitmap (s : State) (l : Nat) : State :=
  let g := lineChan l
  let i := lineBitmap l
  if (s.refusedLine l).isSome || (s.chan g).poisoned.contains i then s
  else (s.bitmapCheck g i ((s.chan g).bmCache.any (·.idx == i))).1

/-- One line of a scrub, at pool address `a`. -/
def State.scrubAt (p : State × Scrub) (a first ctx : Nat) : State × Scrub :=
  match p.1.resolve a with
  | none => p
  | some (_, dpa) =>
    let ls := p.1.copiesOf (dpa / 64)
    let s := if a % 2 ^ 21 = 0 ∨ a = first then ls.foldl (fun t l => t.scrubBitmap l) p.1 else p.1
    let (s, c, x) := ls.foldl (fun (q : State × Nat × Nat) l =>
      let (t, c, x) := q.1.scrubLine l ctx
      (t, q.2.1 + b2n c, q.2.2 + b2n x)) (s, 0, 0)
    -- two cinder copies make a triple-placed line cinder (Table 12.4)
    let bad := decide (min 2 ls.length ≤ x) && decide (0 < x)
    (s, { p.2 with next := a + 64, scanned := p.2.scanned + 1, corrected := p.2.corrected + c, cinder := p.2.cinder + b2n bad,
                   first := if bad && p.2.first.isNone then some a else p.2.first })

/-- Why a scrub or a zeroing may not touch a range: the status, with its byte (R474, R475). -/
def State.rangeFault (s : State) (k : Cmd) (right : Nat) : Option (Nat × Nat) :=
  let a := k.par 16 8
  let n := k.par 24 8
  if a % 64 ≠ 0 then some (stBadParam, 16)
  else if n % 64 ≠ 0 then some (stBadParam, 24)
  else if 2 ^ 42 < a + n then some (stBadParam, 16)
  else
    let lo := a / 2 ^ 28
    let gs := if n = 0 then [] else (List.range ((a + n - 1) / 2 ^ 28 - lo + 1)).map (lo + ·)
    gs.findSome? fun g => match s.resolve (g * 2 ^ 28) with
      | none => some (stBadParam, 16)
      | some (r, _) =>
        if k.mgmt then (if ((s.region r).map (·.conf)).getD false then some (stConfidential, 16) else none)
        else if s.hasRight k.ctx r right then none else some (s.rightStatus k.ctx r, 16)

/-- The lines of the 4 KiB block from pool address `a` on, within a range that ends at `hi`. -/
def blockLines (a hi : Nat) : List Nat := (List.range ((min hi ((a / 4096 + 1) * 4096) - a) / 64)).map fun i => a + 64 * i

/-- The access of the service port that a scrub's next block needs (R92). -/
def State.scrubReq (s : State) (r : Scrub) (l : Nat) : MemReq :=
  { port := 3, line := l, entered := s.clk.elapsed, owner := s.poolKey l, ctx := r.ctx, dest := .scrub r.ctx r.tag }

/-- In a slot of an isolated-class context a scrub uses at most a quarter of its channel's time (R92): the ns that `n` lines take, four
times over. -/
def State.scrubPause (s : State) (l n : Nat) : Nat :=
  if isoOwner (s.poolKey l) && !s.inMaint (homeTile l) resChannel then 4 * n else 0

/-- The final reply of a scrub (R93). -/
def State.scrubDone (s : State) (k : Cmd) (r : Scrub) : State :=
  { s with scrubs := s.scrubs.filter fun x => !(x.ctx == r.ctx && x.tag == r.tag) }.final k stOk
    (natLE 5 r.scanned ++ natLE 4 r.corrected ++ natLE 4 r.cinder ++ zeros 3 ++ natLE 8 (r.first.getD noAddr))

/-- A scrub goes on (R92): its next 4 KiB block in its turn at the service port, in a slot that takes it, within its share and not while a
stack that it reads is `banked`; after the last block it answers. A block that has left the pool since is passed over. -/
def State.scrubOn (s : State) (k : Cmd) (r : Scrub) : State :=
  let a := k.par 16 8
  let hi := a + k.par 24 8
  let keep (t : State) (r : Scrub) : State := { t with scrubs := (t.scrubs.filter fun x => !(x.ctx == r.ctx && x.tag == r.tag)) ++ [r] }
  if hi ≤ r.next then s.scrubDone k r
  else match s.resolve r.next with
    | none => keep s { r with next := r.next + 64 * (blockLines r.next hi).length }
    | some (_, dpa) =>
      let l := dpa / 64
      if s.clk.elapsed < r.after || (s.copiesOf l).any fun c => s.banked (lineChan c) then keep s r
      else match s.portTurn (s.scrubReq r l) with
        | (s, false) => keep s r
        | (s, true) =>
          let ls := blockLines r.next hi
          let (s, r) := ls.foldl (fun p x => State.scrubAt p x a k.ctx) (s, { r with after := s.clk.elapsed + s.scrubPause l ls.length })
          if hi ≤ r.next then s.scrubDone k r else keep s r

/-- SCRUB_RANGE (R92, R474): the first block when the command is taken; each further row of a command that runs takes the next one. -/
def execScrubRange (ctx tag : Nat) (s : State) : Out :=
  done (match (s.cmd ctx tag).map fun (k : Cmd) => k.phase with
    | some .running => s.withRunning ctx tag 0x17 fun k s =>
        match s.scrubs.find? fun x => x.ctx == ctx && x.tag == tag with
        | some r => s.scrubOn k r
        | none => s
    | _ => s.withTaken ctx tag 0x17 fun k s =>
        match s.rangeFault k rightRead with
        | some (st, i) => s.refuse k st i
        | none =>
          let s := s.scrubOn k { ctx, tag, next := k.par 16 8 }
          if s.scrubs.any fun x => x.ctx == ctx && x.tag == tag then s.running k else s)

/-! ## ZERO_RANGE (R84, R85, R475) -/

/-- The part of a pool range in each granule: the cords of the granule, offset and length. -/
def State.rangeParts (s : State) (a n : Nat) : List (List Nat × Nat × Nat) :=
  let lo := a / 2 ^ 28
  if n = 0 then []
  else (List.range ((a + n - 1) / 2 ^ 28 - lo + 1)).map fun i =>
    let g := lo + i
    let x := max a (g * 2 ^ 28)
    let y := min (a + n) ((g + 1) * 2 ^ 28)
    (Tab.get [] s.gmap g, x % 2 ^ 28, y - x)

/-- Copies of the lines of a part of a cord are called back; true when none is left, no line is in service and the stack is not `banked`
(R74). -/
def State.recallPart (s : State) (n off len : Nat) : State × Bool :=
  let lo := cordLine n + off / 64
  let hi := lo + len / 64
  let within (l : Nat) : Bool := decide (lo ≤ l) && decide (l < hi)
  let ls := (s.dir.filter fun p => within p.1).map Prod.fst
  let s := ls.foldl (fun t l => if (t.lock l).isSome then t else t.internal { op := .recall, dpa := 64 * l }) s
  (s, !(s.dir.any fun p => within p.1) && !(s.locks.any fun p => within p.1) && !(s.cord n).cutover && !s.banked (cordChan n))

/-- A part of a cord is zeroed, with the copy that a move has made of it. -/
def State.zeroPart (s : State) (n off len : Nat) : State × Nat :=
  let c := s.cord n
  let (s, k) := s.zeroise (cordDpa n + off) len
  ((c.dest.toList ++ c.extraDest).foldl (fun t d => (t.zeroise (cordDpa d + off) len).1) s, k)

/-- Mode 0: a pool range. -/
def State.zeroRange (s : State) (k : Cmd) : State :=
  let parts := s.rangeParts (k.par 16 8) (k.par 24 8)
  let (s, quiet) := parts.foldl (fun (q : State × Bool) p =>
    let (t, b) := q.1.recallPart (p.1.headD 0) p.2.1 p.2.2
    (t, q.2 && b)) (s, true)
  if !quiet then s
  else
    let (s, n) := parts.foldl (fun (q : State × Nat) p =>
      let (t, blocks) := p.1.foldl (fun (u : State × List Nat) c =>
        let (v, b) := u.1.zeroPart c p.2.1 p.2.2
        (v, u.2 ++ [b])) (q.1, [])
      let home := cordDpa (p.1.headD 0) + p.2.1
      (t.clearShadow home (home + p.2.2), q.2 + blocks.headD 0)) (s, 0)
    s.final k stOk (natLE 4 n)

/-- Mode 1: a whole cord, whatever its state; a stalled zeroisation ends (R127). -/
def State.zeroWhole (s : State) (k : Cmd) (n : Nat) : State :=
  match s.recallPart n 0 (2 ^ 28) with
  | (s, false) => s
  | (s, true) =>
    let (s, b, ok) := s.zeroiseCord n
    let s := s.clearShadow (cordDpa n) (cordDpa n + 2 ^ 28)
    let c := s.cord n
    let s := if ok && c.state == .zeroising && !c.zeroPending then
        (s.modCord n fun c => c.unbound .free).settleCords
      else s
    s.final k stOk (natLE 4 b)

/-- ZERO_RANGE (R475). -/
def execZeroRange (ctx tag : Nat) (s : State) : Out :=
  done (s.withTaken ctx tag 0x18 fun k s =>
    match k.par 32 1 with
    | 0 =>
      match s.rangeFault k rightWrite with
      | some (st, i) => s.refuse k st i
      | none => s.zeroRange k
    | 1 =>
      if !k.mgmt then s.refuse k stNoRight 32
      else if let some i := k.unusedAt 18 32 then s.refuse k stBadParam i
      else if 6144 ≤ k.par 16 2 then s.refuse k stBadParam 16
      else s.zeroWhole k (k.par 16 2)
    | _ => s.refuse k stBadParam 32)

/-! ## REGION_TRIPLE (R373, R374, R476) -/

/-- A copy of a granule is missing: its channel is retired or its Hearth is lost (R374, R378). -/
def State.missingCopy (s : State) (n : Nat) : Bool := (s.chan (cordChan n)).state == .retired || s.hearthLost (chanHearth (cordChan n))

/-- The channels that a granule's new copies go to: the rest of the triplet its present copies belong to, or channels of other
Hearths in no triplet, lowest first. -/
def State.partners (s : State) (rn : Nat) (r : Region) : Nat → List Nat → List Nat → Option (List Nat)
  | 0, _, ds => some ds
  | k + 1, have_, ds =>
    let chs := (have_ ++ ds).map cordChan
    let gone (g : Nat) : Bool := (s.chan g).state == ChanState.retired || s.hearthLost (chanHearth g)
    let known := s.triplets.find? fun (t : List Nat) => decide (chs.length < t.length) && chs.all t.contains && !(t.any gone)
    let cands := (s.freeIn 0 512).filter fun d => match known with
      | some t => t.contains (cordChan d) && !chs.contains (cordChan d)
      | none => s.triplets.all fun (t : List Nat) => !t.contains (cordChan d)
    match cands.find? fun d => s.destOk rn d r (have_ ++ ds) none with
    | none => none
    | some d => State.partners s rn r k have_ (ds ++ [d])

/-- Every granule's copies are reserved, or nothing is. The cords to be copied are counted. -/
def State.reserveCopies (s : State) (rn : Nat) (r : Region) : List (List Nat) → Option (State × Nat)
  | [] => some (s, 0)
  | t :: rest =>
    match t.filter fun n => !s.missingCopy n with
    | [] => State.reserveCopies s rn r rest
    | src :: more =>
      let need := 3 - (more.length + 1)
      if need = 0 then State.reserveCopies s rn r rest
      else match s.partners rn r need (src :: more) [] with
        | none => none
        | some ds => (State.reserveCopies (s.reserve rn src r ds) rn r rest).map fun p => (p.1, p.2 + 1)

/-- REGION_TRIPLE (R374, R476). -/
def execRegionTriple (ctx tag : Nat) (s : State) : Out :=
  done (s.withTaken ctx tag 0x19 fun k s =>
    let rn := k.par 16 2
    match s.region rn with
    | none => s.refuse k stBadParam 16
    | some r =>
      if r.sync then s.refuse k stBadParam 16
      else if r.state != RegionState.active || r.tripling.isSome || r.cords.any fun n => (s.cord n).state == .migrating then s.refuse k stInUse 16
      else match (s.modRegion rn fun x => { x with tripling := some (k.ctx, k.tag), triplesDone := 0 }).reserveCopies rn r r.granules with
        | none => s.refuse k stNoSpace
        | some (t, 0) => (t.modRegion rn fun x => { x with tripling := none }).final k stOk (natLE 4 0)
        | some (t, n) => (t.modRegion rn fun x => { x with triplesLeft := n }).running k)

end Sys2Proof.Machine
end

