-- ==== Sys2Proof/Machine/Xlat.lean ====
section
/-! DEFINITION. Address translation: page-table entries, the translation buffer and walk cache of an Ember, walks, the fault queues,
and the translation commands (chapter 5). -/

set_option Elab.async false

namespace Sys2Proof.Machine

/-! ## Entries of a page table (R136-R140) -/

/-- log2 of the span of an entry at a level (Table 5.1). -/
def levelLog2 (lvl : Nat) : Nat := 12 + 9 * lvl

/-- The index of a CVA at a level. -/
def levelIndex (lvl cva : Nat) : Nat := cva / 2 ^ levelLog2 lvl % 512

/-- The CVA aligned down to the span of a level (R150). -/
def spanBase (lvl cva : Nat) : Nat := cva / 2 ^ levelLog2 lvl * 2 ^ levelLog2 lvl

/-- A leaf entry that R140 finds malformed. -/
def leafMalformed (lvl cva e : Nat) : Bool :=
  let k := levelLog2 lvl
  let run := bits e 5 3
  let target := bits e 12 36 * 4096
  (lvl == 3) || (bits e 8 4 != 0) || (run == 7) || decide (target % 2 ^ k ≠ 0) ||
  (!bit e 63 && (bits e 42 6 != 0 || bits e 48 15 != 0)) ||
  decide (cva / 2 ^ k % 2 ^ run ≠ target / 2 ^ k % 2 ^ run)

/-- A non-leaf entry that R140 finds malformed. -/
def nodeMalformed (lvl e : Nat) : Bool := (lvl == 0) || (bits e 2 10 != 0) || decide (e / 2 ^ 42 ≠ 0)

/-- The buffer entry that a leaf gives: the whole run (R139, R146). -/
def leafEntry (ctx lvl cva e : Nat) : TbEnt :=
  let k := levelLog2 lvl
  let n := 2 ^ bits e 5 3
  let i := cva / 2 ^ k % n
  { ctx, pageLog2 := k, base := (cva / 2 ^ k - i) * 2 ^ k, pages := n, target := bits e 12 36 * 4096 - i * 2 ^ k, endpoint := bits e 48 15,
    remote := bit e 63, read := bit e 2, write := bit e 3, noPrefetch := bit e 4 }

/-! ## The translation buffer and the walk cache (R146, R147) -/

/-- The set of an entry: the index bits just above the largest run of its page size. -/
def TbEnt.set (e : TbEnt) : Nat := e.base / 2 ^ (e.pageLog2 + 6) % 64

/-- An entry covers a CVA of a context. -/
def TbEnt.covers (e : TbEnt) (c cva : Nat) : Bool :=
  (e.ctx == c) && decide (e.base ≤ cva) && decide (cva < e.base + e.pages * 2 ^ e.pageLog2)

/-- An entry overlaps the range from `lo` to below `hi`. -/
def TbEnt.overlaps (e : TbEnt) (c lo hi : Nat) : Bool :=
  (e.ctx == c) && decide (e.base < hi) && decide (lo < e.base + e.pages * 2 ^ e.pageLog2)

/-- The buffer with an entry added: it takes the place of entries of its context that overlap it (R139: leaves of one run may differ); the
least recently used of a full set of 8 goes (R147). -/
def tbFill (l : List TbEnt) (e : TbEnt) : List TbEnt :=
  let l := l.filter fun x => !x.overlaps e.ctx e.base (e.base + e.pages * 2 ^ e.pageLog2)
  let mates := l.filter fun x => x.set == e.set
  (if mates.length < 8 then l else match mates with | o :: _ => l.erase o | [] => l) ++ [e]

/-- The buffer with a used entry as its most recent. -/
def tbTouch (l : List TbEnt) (e : TbEnt) : List TbEnt := l.erase e ++ [e]

/-- A walk-cache entry covers a CVA. -/
def WcEnt.covers (e : WcEnt) (c cva : Nat) : Bool := (e.ctx == c) && (spanBase e.level cva == e.base)

/-- The walk cache of 32 with an entry added. Where all are used the one filled first goes, which the manual leaves open (log 147). -/
def wcFill (l : List WcEnt) (e : WcEnt) : List WcEnt :=
  let l := l.filter fun x => !(x.ctx == e.ctx && x.level == e.level && x.base == e.base)
  (if l.length < 32 then l else l.drop 1) ++ [e]

/-! ## Walks (R141, R150) -/

/-- Causes of Table 5.4. -/
def causeNotPresent : Nat := 1
def causeWriteDenied : Nat := 2
def causeReadDenied : Nat := 3
def causeTableError : Nat := 4
def causeMalformed : Nat := 5
def causeNoTable : Nat := 6

/-- How a walk ends: with a leaf, with a fault, or its table line is held by an agent or out of its slot, so it is made again. -/
inductive Walk where
  | leaf (e : TbEnt)
  | fault (level cause reason entry : Nat)
  | busy
  deriving DecidableEq, Repr

/-- Why a table page may not be read, as an error reason of Table 4.6: the page lies outside the table region, or neither the context nor
the host holds the read right on it (R141). -/
def State.tableFault (s : State) (c region page : Nat) : Option Nat :=
  match s.resolve page with
  | none => some 9
  | some (r, _) =>
    let holds (h : Nat) : Bool := (s.grant h r).any fun g => !g.tombstone && g.accepted && bit g.rights rightRead
    if r ≠ region then some 9
    else if holds c || holds 4096 then none
    else if (s.grant c r).any (·.tombstone) || (s.grant 4096 r).any (·.tombstone) then some 10
    else some 9

/-- One table entry read through its home. -/
def State.tableEntry (s : State) (c addr : Nat) : State × Option (Except Nat Nat) :=
  match s.resolve addr with
  | none => (s, some (.error 8))
  | some (_, dpa) =>
    if !s.serves (homeTile (dpa / 64)) resChannel c || (s.cord (lineCord (dpa / 64))).cutover then (s, none)
    else match s.readyToRead (dpa / 64) c with
      | (s, false) => (s, none)
      | (s, true) =>
        match s.homeRead (dpa / 64) (some c) with
        | (s, .data d) => (s, some (.ok (fieldAt d (dpa % 64) 8)))
        | (s, .bad r) => (s, some (.error r))

/-- One level of a walk, at table page `page`; the walk cache of the tile takes a non-leaf entry, and `down` goes on below it. -/
def State.walkStep (s : State) (t c region cva : Nat) (write : Bool) (lvl page : Nat) (down : State → Nat → State × Walk) : State × Walk :=
  let a := page + 8 * levelIndex lvl cva
  match s.tableFault c region page with
  | some r => (s, .fault lvl causeTableError r a)
  | none =>
    match s.tableEntry c a with
    | (s, none) => (s, .busy)
    | (s, some (.error r)) => (s, .fault lvl causeTableError r a)
    | (s, some (.ok e)) =>
      if !bit e 0 then (s, .fault lvl causeNotPresent 0 a)
      else if bit e 1 then
        if leafMalformed lvl cva e then (s, .fault lvl causeMalformed 0 a)
        else
          let x := leafEntry c lvl cva e
          if write && !x.write then (s, .fault lvl causeWriteDenied 0 a)
          else if !write && !x.read then (s, .fault lvl causeReadDenied 0 a)
          else (s, .leaf x)
      else if nodeMalformed lvl e then (s, .fault lvl causeMalformed 0 a)
      else
        let next := bits e 12 30 * 4096
        down (s.modEmber t fun m => { m with wc := wcFill m.wc { ctx := c, level := lvl, base := spanBase lvl cva, next } }) next

/-- The walk from the table page at `page` of level `lvl` down. -/
def State.walkFrom (s : State) (t c region cva : Nat) (write : Bool) : Nat → Nat → State × Walk
  | 0, page => s.walkStep t c region cva write 0 page fun s n => (s, .fault 0 causeMalformed 0 n)
  | lvl + 1, page => s.walkStep t c region cva write (lvl + 1) page fun s n => State.walkFrom s t c region cva write lvl n

/-- A walk of the unit of tile `t` for a context, from the deepest entry its walk cache supplies (R141, R146). -/
def State.walk (s : State) (t c cva : Nat) (write : Bool) : State × Walk :=
  match s.ctx c with
  | none => (s, .fault 3 causeNoTable 0 noAddr)
  | some x =>
    if x.ptRoot = 0 then (s, .fault 3 causeNoTable 0 noAddr)
    else
      let deepest := (s.ember t).wc.foldl (fun (b : Option WcEnt) e =>
        if e.covers c cva then (match b with | some y => if e.level < y.level then some e else b | none => some e) else b) none
      match deepest with
      | some e => s.walkFrom t c x.ptRegion cva write (e.level - 1) e.next
      | none => s.walkFrom t c x.ptRegion cva write 3 x.ptRoot

/-- A leaf found enters the buffer. -/
def State.tbAdd (s : State) (t : Nat) (e : TbEnt) : State := s.modEmber t fun m => { m with tb := tbFill m.tb e }

/-! ## Faults (R150-R153) -/

/-- Two faults have one key (R150). -/
def XFault.sameKey (a b : XFault) : Bool := (a.ctx == b.ctx) && (a.level == b.level) && (a.span == b.span) && (a.cause == b.cause)

/-- The Ember clock of the envelope in force, in MHz (R4); an unprovisioned unit runs as E3. -/
def State.emberMhz (s : State) : Nat := match s.boot.envInForce with | 1 => 940 | 2 => 800 | _ => 600

/-- An Ember's wait on a fault begins (R150). -/
def State.enterFault (s : State) (t : Nat) (f : XFault) : State :=
  let s := s.modEmber t fun m => { m with state := .faultWait, run := m.run.map fun (r : Run) => { r with fault := some f, faultSince := some s.clk.elapsed } }
  s.modFaultQ (tileHearth t) fun q => { q with raised := q.raised ++ [f] }

/-- An Ember's wait on a fault ends: its cycles are counted (R230), not those of a confidential run (R229). -/
def State.leaveFault (s : State) (t : Nat) : State :=
  match (s.ember t).run with
  | none => s
  | some r =>
    if r.fault.isNone then s
    else
      let cycles := (s.clk.elapsed - r.faultSince.getD s.clk.elapsed) * s.emberMhz / 1000
      let conf := s.ctxConf r.ctx
      let s := s.modEmber t fun m => { m with
        faultCycles := if conf then m.faultCycles else satAdd 32 m.faultCycles cycles
        run := m.run.map fun (r : Run) => { r with fault := none, faultSince := none } }
      s.modCtx r.ctx fun c => { c with faultCycles := c.faultCycles + cycles }

/-- An Ember leaves the queue's masks and lists without a resume (R155, R216). -/
def State.dropFault (s : State) (t : Nat) : State :=
  let n := t % 64
  let s := s.leaveFault t
  s.modFaultQ (tileHearth t) fun q => { q with
    raised := q.raised.filter fun (f : XFault) => f.tile != t
    stall := q.stall.filter fun (f : XFault) => f.tile != t
    slots := Tab.mapVals none q.slots fun e => e.map fun (x : FqEnt) =>
      { x with mask := x.mask.filter (· != n), writers := x.writers.filter (· != n) } }

/-- The part of a data tile whose translations are still to be checked: what entries of the buffer cover from its front is passed over. At
most `n` entries. -/
def restOf (tb : List TbEnt) (c hi : Nat) : Nat → Nat → Option (Nat × Nat)
  | 0, a => some (a, hi)
  | n + 1, a =>
    if hi ≤ a ∨ 2 ^ 48 ≤ a then none
    else match tb.find? fun e => e.covers c a with
      | some e => restOf tb c hi n (e.base + e.pages * 2 ^ e.pageLog2)
      | none => some (a, hi)

/-- The data tiles of which something is still to be walked. -/
def aheadOf (tb : List TbEnt) (c : Nat) (l : List (Nat × Nat)) : List (Nat × Nat) := l.filterMap fun p => restOf tb c p.2 512 p.1

/-- A prefetch walk ends (R149): its leaf is kept but for one with no_prefetch; a fault records and posts nothing, and the pages under the
faulting entry are passed over. -/
def State.prefetchWalk (s : State) (t : Nat) (r : Run) : State :=
  match aheadOf (s.ember t).tb r.ctx r.ahead with
  | [] => s.modEmber t fun m => { m with run := m.run.map fun (r : Run) => { r with ahead := [] } }
  | (a, hi) :: l =>
    let cached := (s.ember t).wc
    let goes (s : State) (next : Nat) : State :=
      (s.modFaultQ (tileHearth t) fun q => { q with pfWalks := satInc 32 q.pfWalks }).modEmber t fun m =>
        { m with run := m.run.map fun (r : Run) => { r with ahead := aheadOf m.tb r.ctx ((next, hi) :: l) } }
    match s.walk t r.ctx a false with
    | (s, .busy) => s
    | (s, .leaf e) => goes (if e.noPrefetch then s else s.tbAdd t e) (e.base + e.pages * 2 ^ e.pageLog2)
    | (s, .fault lvl _ _ _) => goes (s.modEmber t fun m => { m with wc := cached }) (spanBase lvl a + 2 ^ levelLog2 lvl)

/-- TB_MISS_WALK_DONE (R149, R150): a walk of an Ember ends. The demand walk has precedence: its leaf is kept, or the Ember waits on a fault.
Without one, a prefetch walk ends. -/
def execTbMissWalkDone (tile : Nat) (s : State) : Out :=
  done (match (s.ember tile).run with
    | none => s
    | some r =>
      match r.walking with
      | none => if r.err.isSome then s else s.prefetchWalk tile r
      | some (cva, write) =>
        if r.fault.isSome || r.err.isSome then s
        else match s.walk tile r.ctx cva write with
          | (s, .busy) => s
          | (s, w) =>
            let s := s.modFaultQ (tileHearth tile) fun q => { q with walks := satInc 32 q.walks }
            match w with
            | .leaf e => (s.tbAdd tile e).modEmber tile fun m => { m with state := .running, run := m.run.map fun (r : Run) => { r with walking := none } }
            | .fault lvl cause reason entry =>
              s.enterFault tile { tile, ctx := r.ctx, level := lvl, span := spanBase lvl cva, cause, write, reason, entryAddr := entry }
            | .busy => s)

/-- Open entries of a queue. -/
def FaultQueue.openCount (q : FaultQueue) : Nat := q.slots.length

/-- The free slot that a new entry takes: the lowest, which the manual leaves open (log 148). -/
def FaultQueue.freeSlot (q : FaultQueue) : Nat := ((List.range 1024).find? fun i => (Tab.get none q.slots i).isNone).getD 0

/-- The open entry of a key. -/
def FaultQueue.openOf (q : FaultQueue) (f : XFault) : Option (Nat × FqEnt) :=
  q.slots.findSome? fun p => p.2.bind fun e => if e.fault.sameKey f then some (p.1, e) else none

/-- An engine joins an open entry. -/
def FqEnt.join (e : FqEnt) (f : XFault) : FqEnt :=
  let n := f.tile % 64
  { e with mask := if e.mask.contains n then e.mask else e.mask ++ [n]
           writers := if f.write && !e.writers.contains n then e.writers ++ [n] else e.writers }

/-- One fault of a cycle is taken (R152). -/
def State.postFault (s : State) (h : Nat) (f : XFault) : State :=
  let q := s.faultQ h
  match q.openOf f with
  | some (i, e) => s.modFaultQ h fun q => { q with slots := Tab.set none q.slots i (some (e.join f)) }
  | none =>
    if 1024 ≤ q.openCount then
      let s' := s.modFaultQ h fun q => { q with stall := q.stall ++ [f], overflow := satInc 16 q.overflow, full := true }
      if q.full then s' else s'.rise (srcFaultFull h)
    else
      let i := q.freeSlot
      let late := q.stall.filter fun x => x.sameKey f
      let e : FqEnt := late.foldl FqEnt.join (({ fault := f, seq := q.nextSeq } : FqEnt).join f)
      (s.modFaultQ h fun q => { q with
        slots := Tab.set none q.slots i (some e), unread := q.unread ++ [i]
        nextSeq := if q.nextSeq = 0xFFFFFFFF then 1 else q.nextSeq + 1
        stall := q.stall.filter fun (x : XFault) => !x.sameKey f }).rise (srcFaultPosted h)

/-- Faults in tile order. -/
def byTile (l : List XFault) (h : Nat) : List XFault := (List.range 64).flatMap fun n => l.filter fun f => f.tile == 64 * h + n

/-- FAULT_QUEUE_POST (R152): the faults raised are taken in tile order. -/
def execFaultQueuePost (h : Nat) (s : State) : Out :=
  done (onUnit h 4 (fun s =>
    let l := byTile (s.faultQ h).raised h
    l.foldl (fun t f => t.postFault h f) (s.modFaultQ h fun q => { q with raised := [] })) s)

/-- The full flag clears when the open count is below 1,024 and nothing is stalled (R153). -/
def State.settleFull (s : State) (h : Nat) : State :=
  s.modFaultQ h fun q => { q with full := q.full && !(decide (q.openCount < 1024) && q.stall == []) }

/-- An engine walks again after a fault. -/
def State.walkAgain (s : State) (t : Nat) : State :=
  (s.leaveFault t).modEmber t fun m => { m with state := if m.state == .faultWait then .running else m.state }

/-- STALL_LIST_REWALK (R153): after a slot has been freed, the stalled engines walk again. -/
def execStallListRewalk (h : Nat) (s : State) : Out :=
  done (onUnit h 4 (fun s =>
    if !(s.faultQ h).rewalk then s
    else
      let l := (s.faultQ h).stall
      let s := s.modFaultQ h fun q => { q with stall := [], rewalk := false }
      (l.foldl (fun t f => t.walkAgain f.tile) s).settleFull h) s)

/-- A slot is closed. -/
def State.closeSlot (s : State) (h i : Nat) : State :=
  (s.modFaultQ h fun q => { q with slots := Tab.set none q.slots i none, unread := q.unread.filter (· != i), rewalk := q.stall != [] }).settleFull h

/-- FAULT_RESUME (R154, R478). The seq is tested before the issuer, an order the manual leaves open (log 149). -/
def execFaultResume (ctx tag : Nat) (s : State) : Out :=
  done (s.withTaken ctx tag 0x22 fun k s =>
    let h := k.par 16 1
    let act := k.par 17 1
    let i := k.par 18 2
    if 3 < h then s.refuse k stBadParam 16
    else if 1 < act then s.refuse k stBadParam 17
    else if 1023 < i then s.refuse k stBadParam 18
    else match Tab.get none (s.faultQ h).slots i with
      | none => s.refuse k stBadParam 20
      | some e =>
        if e.seq ≠ k.par 20 4 then s.refuse k stBadParam 20
        else if !(k.ctx == e.fault.ctx || k.ctx == 0) then s.refuse k stNoRight
        else
          let s := s.closeSlot h i
          let s := e.mask.foldl (fun t n =>
            let tile := 64 * h + n
            match ((t.ember tile).run.bind fun (r : Run) => r.fault) with
            | some f =>
              if !f.sameKey e.fault then t
              else
                let cva := (((t.ember tile).run.bind fun (r : Run) => r.walking).map Prod.fst).getD f.span
                let t := t.walkAgain tile
                if act = 0 then t
                else t.modEmber tile fun m => { m with run := m.run.map fun (r : Run) =>
                  { r with walking := none, err := some { cls := 3, reason := f.cause, cva } } }
            | none => t) s
          s.final k stOk (natLE 8 ((e.mask.map (2 ^ ·)).sum)))

/-! ## PT_BIND and PT_SYNC (R141, R144, R145, R477) -/

/-- Steps 1 to 3 of PT_SYNC: every unit drops the translations of a range of CVA. -/
def State.dropXlat (s : State) (c lo hi : Nat) : State :=
  { s with embers := Tab.mapVals {} s.embers fun m =>
      { m with tb := m.tb.filter fun (e : TbEnt) => !e.overlaps c lo hi
               wc := m.wc.filter fun (e : WcEnt) => !(e.ctx == c && decide (e.base < hi) && decide (lo < e.base + 2 ^ levelLog2 e.level)) } }

/-- The descriptor a run stands at. -/
def State.descOf (s : State) (r : Run) : Bytes := ((s.plan r.plan).map fun (p : Plan) => p.bytes.getD r.pc []).getD []

/-- The address of a descriptor's sync word (Table 7.4). -/
def dSync (d : Bytes) : Nat := fieldAt d 32 8

/-- The accesses of a context under way through translations of a range, or through a run entry that overlaps it (R144 step 4): requests of
its Embers to other devices, and their reads that wait at a home of this one. -/
def State.through (s : State) (c lo hi : Nat) : List Nat × List (Nat × Nat) :=
  let under (t cva : Nat) : Bool := (decide (lo ≤ cva) && decide (cva < hi)) || (s.ember t).tb.any fun e => e.overlaps c lo hi && e.covers c cva
  (s.openReqs.filterMap fun r => r.tile.bind fun t => if r.pkt.ctx == c && under t r.cva then some r.pkt.txn else none,
   s.syncWaits.filterMap fun w =>
    if w.req.src.isNone && w.req.holder == c && ((s.ember w.req.txn).run.any fun r => under w.req.txn (dSync (s.descOf r)))
    then some (w.req.txn, w.deadline) else none)

/-- Accesses of a list have not all completed. -/
def State.under (s : State) (l : List Nat × List (Nat × Nat)) : Bool :=
  s.openReqs.any (fun r => r.tile.isSome && l.1.contains r.pkt.txn) || s.syncWaits.any fun w => w.req.src.isNone && l.2.contains (w.req.txn, w.deadline)

/-- Accesses of a context that wait at a channel are made anew, under the translations that are then current. -/
def State.reissue (s : State) (c : Nat) : State :=
  let theirs (q : MemReq) : Bool := q.ctx == c && match q.dest with
    | .ember _ => true
    | _ => false
  { s with chans := Tab.mapVals {} s.chans fun x =>
      { x with waiting := x.waiting.filter (!theirs ·), granted := x.granted.filter (!theirs ·) } }

/-- A range is synchronised for a command (R144, R145): the invalidation, with `f` after it, then the wait for the accesses under way
through what it dropped, and the final reply. -/
def State.syncRange (s : State) (k : Cmd) (lo hi : Nat) (f : State → State) : State :=
  match k.awaits with
  | some l => if s.under l then s.again k else s.final k stOk
  | none =>
    let l := s.through k.ctx lo hi
    let s := f ((s.dropXlat k.ctx lo hi).reissue k.ctx)
    if s.under l then (s.modCmd k.ctx k.tag fun x => { x with awaits := some l }).again k else s.final k stOk

/-- A table region may serve a context: it exists, is not confidential, the context or the host may read it, and an isolated-class
context has slots on the channels of all its cords (R141). -/
def State.tableRegionOk (s : State) (c rn : Nat) : Bool :=
  match s.region rn with
  | none => false
  | some r => r.state != RegionState.reclaiming && !r.conf && (s.hasRight c rn rightRead || s.hasRight 4096 rn rightRead) &&
    (!s.ctxIso c || r.cords.all fun n => ownedIntervals s.gatesInForce (cordSlice n) resChannel c != [])

/-- PT_BIND (R141, R145): a synchronisation of the whole space, with the new root in force from the invalidation on (log 46); it is made again
while accesses through what it dropped are open. -/
def execPtBind (ctx tag : Nat) (s : State) : Out :=
  done (s.withTaken ctx tag 0x20 fun k s =>
    let root := k.par 16 8
    let rn := k.par 24 2
    if k.awaits.isSome then s.syncRange k 0 (2 ^ 48) id
    else if root % 4096 ≠ 0 then s.refuse k stBadParam 16
    else if root ≠ 0 ∧ !s.tableRegionOk k.ctx rn then s.refuse k stBadParam 24
    else if root ≠ 0 ∧ (s.resolve root).map Prod.fst ≠ some rn then s.refuse k stBadParam 16
    else s.syncRange k 0 (2 ^ 48) fun s => s.modCtx k.ctx fun c => { c with ptRoot := root, ptRegion := if root = 0 then 0 else rn })

/-- PT_SYNC (R144). -/
def execPtSync (ctx tag : Nat) (s : State) : Out :=
  done (s.withTaken ctx tag 0x21 fun k s =>
    let a := k.par 16 8
    let n := k.par 24 4
    if a % 4096 ≠ 0 ∨ 2 ^ 48 ≤ a then s.refuse k stBadParam 16
    else s.syncRange k (if n = 0 then 0 else a) (if n = 0 then 2 ^ 48 else a + 4096 * n) id)

/-- XLAT_FQ_MARK sets the read mark of an open entry (R157). -/
def State.markSlot (s : State) (h i : Nat) : State :=
  match Tab.get none (s.faultQ h).slots i with
  | none => s
  | some e => s.modFaultQ h fun q => { q with slots := Tab.set none q.slots i (some { e with marked := true }), unread := q.unread.filter (· != i) }

end Sys2Proof.Machine
end

