-- ==== Sys2Proof/Machine/Formats.lean ====
section
/-! DEFINITION. The element formats of Table 8.1: their decoding, their conversions with the special cases of Table 8.5, the planes of
an operand, and the packed block stream (chapter 8). -/

set_option Elab.async false

namespace Sys2Proof.Machine

/-! ## Elements (R232, R235) -/

/-- Which of an element's codes are special: none, infinities and NaNs of IEEE 754, or the one NaN of E4M3. -/
inductive Special where
  | none | ieee | one
  deriving DecidableEq, Repr

/-- An element: a float of exponent bits, fraction bits and bias, or an integer of `w` bits times 2^-sh. -/
inductive Elem where
  | flt (eb mb bias : Nat) (sp : Special)
  | int (w sh : Nat)
  deriving DecidableEq, Repr

def elemE4M3 : Elem := .flt 4 3 7 .one
def elemE5M2 : Elem := .flt 5 2 15 .ieee
def elemE2M1 : Elem := .flt 2 1 1 .none

/-- The element of a format code (Table 8.1). -/
def elemOf (f : Nat) : Elem :=
  match f with
  | 0x02 => .flt 5 10 15 .ieee
  | 0x03 => .flt 8 7 127 .ieee
  | 0x04 | 0x10 | 0x21 => elemE4M3
  | 0x05 | 0x11 => elemE5M2
  | 0x06 => .int 8 0
  | 0x07 => .int 4 0
  | 0x12 => .flt 3 2 3 .none
  | 0x13 => .flt 2 3 1 .none
  | 0x14 | 0x20 => elemE2M1
  | 0x15 => .int 8 6
  | _ => .flt 8 23 127 .ieee

/-- The codes of Table 8.1. -/
def fmtListed (f : Nat) : Bool := decide (1 ≤ f ∧ f ≤ 7) || decide (0x10 ≤ f ∧ f ≤ 0x15) || f == 0x20 || f == 0x21
def fmtMx (f : Nat) : Bool := decide (0x10 ≤ f) && decide (f ≤ 0x15)
def fmtPbs (f : Nat) : Bool := f == 0x20 || f == 0x21

def Elem.width : Elem → Nat
  | .flt e m _ _ => 1 + e + m
  | .int w _ => w

/-- Stored bits of an element of a format, scales apart. -/
def fmtWidth (f : Nat) : Nat := (elemOf f).width

/-- An element read: its value, and its sign bit, which a NaN keeps (Table 8.5). -/
structure Lane where
  x : Num := .fin false 0 0
  neg : Bool := false
  deriving DecidableEq, Repr

/-- The value of an element's bits. -/
def Elem.decode (e : Elem) (v : Nat) : Lane :=
  match e with
  | .int w sh =>
    let i := signed w v
    { x := .fin (decide (i < 0)) i.natAbs (-(sh : Int)), neg := decide (i < 0) }
  | .flt eb mb bias sp =>
    let neg := bit v (eb + mb)
    let ex := bits v mb eb
    let f := bits v 0 mb
    let top := 2 ^ eb - 1
    if ex = top ∧ sp = .ieee then { x := if f = 0 then .inf neg else .nan, neg }
    else if ex = top ∧ sp = .one ∧ f = 2 ^ mb - 1 then { x := .nan, neg }
    else if ex = 0 then { x := .fin neg f (1 - (bias : Int) - mb), neg }
    else { x := .fin neg (f + 2 ^ mb) ((ex : Int) - bias - mb), neg }

/-- An element times its block scale (R235). -/
def Lane.scaled (l : Lane) (scale : Nat) : Lane :=
  if scale = 0xFF then { x := .nan }
  else match l.x with
    | .fin n m e => { l with x := .fin n m (e + scale - 127) }
    | _ => l

/-! ## Conversion (R241-R243) -/

/-- The magnitude m x 2^e in units of 2^q, rounded to nearest even, or by a 16-bit draw where one is given (R242). -/
def roundUnits (m : Nat) (e q : Int) (draw : Option Nat) : Nat :=
  if q ≤ e then m * 2 ^ (e - q).toNat
  else
    let k := (q - e).toNat
    match draw with
    | none => rneShift m k
    | some u => m / 2 ^ k + b2n (decide (65536 ≤ m % 2 ^ k * 65536 / 2 ^ k + u % 65536))

/-- Bits of an element with the count that EMB_SAT takes. -/
structure Enc where
  code : Nat := 0
  sat : Nat := 0
  deriving DecidableEq, Repr

/-- The largest finite code of a float. -/
def Elem.maxCode : Elem → Nat
  | .flt eb mb _ .ieee => (2 ^ eb - 1) * 2 ^ mb - 1
  | .flt eb mb _ .one => 2 ^ (eb + mb) - 2
  | .flt eb mb _ .none => 2 ^ (eb + mb) - 1
  | .int w _ => 2 ^ (w - 1) - 1

/-- Finite values beyond the range of a format become infinities, not the largest magnitude (Table 8.5): FP32, FP16, BF16. -/
def Elem.overflows : Elem → Bool
  | .flt _ mb _ .ieee => mb != 2
  | _ => false

/-- A finite value beyond the range (log 47: by its rounded value under round-to-nearest-even, by itself under stochastic
rounding, where no two values bracket it). -/
def Elem.beyond (e : Elem) (code m : Nat) (x : Int) (draw : Option Nat) : Bool :=
  decide (e.maxCode < code) || (draw.isSome && (match (e.decode e.maxCode).x with
    | .fin _ mm me => (Num.fin false mm me).lt (.fin false m x)
    | _ => false))

/-- A finite value converted to an element (Table 8.5). -/
def Elem.encodeFin (e : Elem) (neg : Bool) (m : Nat) (x : Int) (draw : Option Nat) : Enc :=
  match e with
  | .int w sh =>
    let r := roundUnits m x (-(sh : Int)) draw
    let v : Int := if neg then -(r : Int) else r
    let c := clampInt (-(2 ^ (w - 1) : Nat)) (2 ^ (w - 1) - 1 : Nat) v
    { code := toBits w c, sat := b2n (c != v) }
  | .flt eb mb bias _ =>
    let s := b2n neg * 2 ^ (eb + mb)
    if m = 0 then { code := s }
    else
      let low : Int := 1 - (bias : Int) - mb
      let q : Int := max ((Nat.log2 m : Int) + x - mb) low
      let code := (q - low).toNat * 2 ^ mb + roundUnits m x q draw
      if e.beyond code m x draw then
        (if e.overflows then { code := s + e.maxCode + 1 } else { code := s + e.maxCode, sat := 1 })
      else { code := s + code }

/-- A value converted to an element of a format without block scales (Table 8.5). -/
def Elem.encode (e : Elem) (l : Lane) (draw : Option Nat) : Enc :=
  match l.x, e with
  | .fin n m x, _ => e.encodeFin n m x draw
  | .inf n, .int w _ => { code := if n then 2 ^ (w - 1) else 2 ^ (w - 1) - 1 }
  | .inf n, .flt eb mb _ .ieee => { code := b2n n * 2 ^ (eb + mb) + (2 ^ eb - 1) * 2 ^ mb }
  | .inf n, .flt eb mb _ _ => { code := b2n n * 2 ^ (eb + mb) + e.maxCode }
  | .nan, .int _ _ => { code := 0, sat := 1 }
  | .nan, .flt 8 23 _ _ => { code := fp32Nan }
  | .nan, .flt 5 10 _ _ => { code := 0x7E00 }
  | .nan, .flt 8 7 _ _ => { code := 0x7FC0 }
  | .nan, .flt eb mb _ sp => { code := b2n l.neg * 2 ^ (eb + mb) + (if sp = .ieee then 0x7E else 0x7F) }

/-- The FP32 result as a lane. -/
def laneOf32 (v : Nat) : Lane := { x := fp32Num v, neg := bit v 31 }

/-- An element's code is an infinity or a NaN. -/
def codeNonFinite (f v : Nat) : Bool :=
  match ((elemOf f).decode v).x with
  | .fin _ _ _ => false
  | _ => true

/-! ## MX blocks (R259) -/

/-- emax of an MX format. -/
def mxEmax (f : Nat) : Int :=
  match f with
  | 0x10 => 8 | 0x11 => 15 | 0x12 => 4 | 0x13 => 2 | 0x14 => 2 | _ => 0

/-- floor(log2) of the largest finite magnitude of a block; none when every one is zero. -/
def blockLog2 (l : List Lane) : Option Int :=
  l.foldl (fun b v =>
    match v.x with
    | .fin _ m e =>
      if m = 0 then b
      else
        let k : Int := (Nat.log2 m : Int) + e
        match b with
        | some y => some (max y k)
        | none => some k
    | _ => b) none

def Lane.finite (l : Lane) : Bool := match l.x with | .fin _ _ _ => true | _ => false

/-- The scale exponent of a block. -/
def mxExp (f : Nat) (l : List Lane) : Int :=
  match blockLog2 l with
  | some k => clampInt (-127) 127 (k - mxEmax f)
  | none => -127

/-- A block of 32 in an MX format: its scale byte and its elements. -/
def mxBlock (f : Nat) (l : List Lane) (draws : Nat → Option Nat) : Nat × List Enc :=
  if l.any (!·.finite) then (0xFF, l.map fun _ => {})
  else
    let e := mxExp f l
    ((e + 127).toNat, ((List.range l.length).zip l).map fun p =>
      match p.2.x with
      | .fin n m x => (elemOf f).encodeFin n m (x - e) (draws p.1)
      | _ => {})

/-! ## Rows and planes (R233, R234) -/

/-- Up to a multiple of 64. -/
def pad64 (n : Nat) : Nat := (n + 63) / 64 * 64

/-- Bytes of one row of the element plane. -/
def rowBytes (f c : Nat) : Nat := pad64 ((fmtWidth f * c + 7) / 8)

/-- row(f, C) of R234. -/
def rowSize (f c : Nat) : Nat := rowBytes f c + (if fmtMx f then c / 32 else 0)

/-- Bytes of an operand of `r` rows of `c` elements. -/
def operandSize (f r c : Nat) : Nat := r * rowBytes f c + (if fmtMx f then pad64 (r * c / 32) else 0)

/-- Element `i` of packed elements of `w` bits. -/
def packedAt (b : Bytes) (w i : Nat) : Nat := bits (fieldAt b (w * i / 8) 5) (w * i % 8) w

/-- Elements of `w` bits packed into bytes. -/
def packBits (w : Nat) (l : List Nat) : Bytes :=
  natLE ((w * l.length + 7) / 8) (l.foldr (fun v acc => v + 2 ^ w * acc) 0)

/-- `c` elements of a row, with its scale bytes in an MX format. -/
def decodeRow (f c : Nat) (row scales : Bytes) : List Lane :=
  (List.range c).map fun i =>
    let l := (elemOf f).decode (packedAt row (fmtWidth f) i)
    if fmtMx f then l.scaled (fieldAt scales (i / 32) 1) else l

/-- Lists of `n` in turn: at most `k` of them. -/
def chunks {α : Type} (n : Nat) : Nat → List α → List (List α)
  | 0, _ => []
  | k + 1, l => if l.isEmpty then [] else l.take n :: chunks n k (l.drop n)

/-- A row converted: its element bytes padded, its scale bytes, what EMB_SAT counts, and which of its elements are an infinity or a
NaN as stored: in a block of scale 0xFF all 32 (R235; log 48). -/
structure RowOut where
  bytes : Bytes := []
  scales : Bytes := []
  sat : Nat := 0
  bad : List Bool := []
  deriving DecidableEq, Repr

/-- A row of lanes converted to a format; `draws` gives the draw for each element. -/
def encodeRow (f : Nat) (l : List Lane) (draws : Nat → Option Nat) : RowOut :=
  let w := fmtWidth f
  let n := rowBytes f l.length
  if fmtMx f then
    let bs := ((List.range (l.length / 32 + 1)).zip (chunks 32 (l.length / 32 + 1) l)).map fun p =>
      mxBlock f p.2 fun i => draws (32 * p.1 + i)
    let es := bs.flatMap Prod.snd
    { bytes := padTo n (packBits w (es.map (·.code))), scales := bs.flatMap fun b => natLE 1 b.1, sat := (es.map (·.sat)).sum,
      bad := bs.flatMap fun b => List.replicate 32 (b.1 == 0xFF) }
  else
    let es := ((List.range l.length).zip l).map fun p => (elemOf f).encode p.2 (draws p.1)
    { bytes := padTo n (packBits w (es.map (·.code))), sat := (es.map (·.sat)).sum,
      bad := es.map fun e => codeNonFinite f e.code }

/-! ## The packed block stream (R236-R238) -/

/-- The header of a block: variant, elements, bytes. -/
structure PbsHead where
  variant : Nat := 0
  count : Nat := 0
  len : Nat := 0
  deriving DecidableEq, Repr

/-- Bytes of the table and of the scales of a block. -/
def PbsHead.tableLen (h : PbsHead) : Nat := if h.variant = 0 then 8 else if h.variant = 1 then 128 else 0
def PbsHead.scaleLen (h : PbsHead) : Nat := if h.variant % 2 = 0 then h.count / 32 else 0

/-- The header read, checked for an operand of code `f` with `left` elements left in its row (R238). -/
def pbsHead (f left : Nat) (b : Bytes) : Option PbsHead :=
  let h : PbsHead := { variant := fieldAt b 1 1, count := fieldAt b 2 2, len := fieldAt b 4 4 }
  if fieldAt b 0 1 ≠ 0xB5 ∨ 3 < h.variant ∨ h.variant % 2 ≠ (if f = 0x20 then 0 else 1) ∨ h.count < 32 ∨ 4096 < h.count ∨
      h.count % 32 ≠ 0 ∨ left < h.count ∨ h.len % 16 ≠ 0 ∨ h.len < 8 + h.tableLen + h.scaleLen then none
  else some h

/-- The canonical code of a list of lengths: symbol, length, code, in order of length and symbol (R237). -/
def pbsCode (lens : List Nat) : List (Nat × Nat × Nat) :=
  let syms := (List.range 15).flatMap fun k => ((List.range lens.length).zip lens).filter fun p => p.2 == k + 1
  (syms.foldl (fun (a : List (Nat × Nat × Nat) × Nat × Nat) p =>
    let c := a.2.1 * 2 ^ (p.2 - a.2.2)
    (a.1 ++ [(p.1, p.2, c)], c + 1, p.2)) ([], 0, 0)).1

/-- The lengths meet the rule of a table (R237). -/
def pbsTableOk (lens : List Nat) : Bool :=
  let used := lens.filter (· != 0)
  if used.length = 1 then used == [1] else decide ((used.map fun l => 2 ^ (15 - l)).sum = 2 ^ 15)

/-- Bit `i` of a payload, most significant bit of each byte first. -/
def msbBit (b : Bytes) (i : Nat) : Bool := bit (fieldAt b (i / 8) 1) (7 - i % 8)

/-- One symbol from bit `i` on: the symbol and the next bit. `acc`: the bits read so far, `n` of them; at most `k` more. -/
def pbsSymbol (code : List (Nat × Nat × Nat)) (b : Bytes) : Nat → Nat → Nat → Nat → Option (Nat × Nat)
  | 0, _, _, _ => none
  | k + 1, i, n, acc =>
    if 8 * b.length ≤ i then none
    else
      let acc := 2 * acc + b2n (msbBit b i)
      match code.find? fun c => c.2.1 == n + 1 && c.2.2 == acc with
      | some c => some (c.1, i + 1)
      | none => pbsSymbol code b k (i + 1) (n + 1) acc

/-- `k` symbols from bit `i` on, and the bit after them. -/
def pbsSymbols (code : List (Nat × Nat × Nat)) (b : Bytes) : Nat → Nat → Option (List Nat × Nat)
  | 0, i => some ([], i)
  | k + 1, i =>
    match pbsSymbol code b 15 i 0 0 with
    | none => none
    | some (v, j) => (pbsSymbols code b k j).map fun r => (v :: r.1, r.2)

/-- The elements of a block whose header is `h` and whose bytes are `b` (R238); none where the block is corrupt. -/
def pbsBlock (f : Nat) (h : PbsHead) (b : Bytes) : Option (List Lane) :=
  let table := (b.drop 8).take h.tableLen
  let scales := (b.drop (8 + h.tableLen)).take h.scaleLen
  let pay := (b.take h.len).drop (8 + h.tableLen + h.scaleLen)
  let w := fmtWidth f
  let lane (p : Nat × Nat) : Lane :=
    let l := (elemOf f).decode p.2
    if f = 0x20 then l.scaled (fieldAt scales (p.1 / 32) 1) else l
  let lanes (l : List Nat) : List Lane := ((List.range l.length).zip l).map lane
  if 2 ≤ h.variant then
    let n := w * h.count / 8
    if pay.length < n ∨ (pay.drop n).any (· != 0) then none
    else some (lanes ((List.range h.count).map fun i => packedAt pay w i))
  else
    let lens := (List.range (2 * h.tableLen)).map fun i => packedAt table 4 i
    if !pbsTableOk lens then none
    else match pbsSymbols (pbsCode lens) pay h.count 0 with
      | none => none
      | some (l, i) => if (List.range (8 * pay.length - i)).any (fun k => msbBit pay (i + k)) then none else some (lanes l)

end Sys2Proof.Machine
end

