-- ==== Sys2Proof/Machine/Ember.lean ====
section
/-! DEFINITION. An Ember and the runs it serves: descriptors, sharing, starts and ends of runs, errors, the control descriptors and the
completions of its requests (chapter 7). -/

set_option Elab.async false

namespace Sys2Proof.Machine

/-! ## Descriptors (R199, R200) -/

def dKind (d : Bytes) : Nat := fieldAt d 0 1
def dOrder (d : Bytes) : Bool := bit (fieldAt d 1 1) 0
def dRank0 (d : Bytes) : Bool := bit (fieldAt d 1 1) 1
def dFmtA (d : Bytes) : Nat := fieldAt d 2 1
def dFmtB (d : Bytes) : Nat := fieldAt d 3 1
def dFmtOut (d : Bytes) : Nat := fieldAt d 4 1
def dMode (d : Bytes) (i : Nat) : Bool := bit (fieldAt d 5 1) i
def dTile (d : Bytes) : Nat := fieldAt d 6 1
def dDim0 (d : Bytes) : Nat := fieldAt d 48 4
def dDim1 (d : Bytes) : Nat := fieldAt d 52 4
def dDim2 (d : Bytes) : Nat := fieldAt d 56 4
def dParam (d : Bytes) : Nat := fieldAt d 60 4
/-- Operand A and the output of rank `r`; operand B (R200). -/
def dAddrA (d : Bytes) (r : Nat) : Nat := fieldAt d 8 8 + r * fieldAt d 40 4 * 4096
def dAddrB (d : Bytes) : Nat := fieldAt d 16 8
def dAddrOut (d : Bytes) (r : Nat) : Nat := fieldAt d 24 8 + r * fieldAt d 44 4 * 64

/-- The kinds that stream (Table 7.5). -/
def streaming (k : Nat) : Bool := [0x01, 0x02, 0x05, 0x07, 0x08].contains k

/-- Changes the run that holds an Ember. -/
def State.modRun (s : State) (t : Nat) (f : Run → Run) : State := s.modEmber t fun e => { e with run := e.run.map f }

/-! ## The Ember's turn (R217-R220) -/

/-- The Ember is in service. -/
def Ember.inService (e : Ember) : Bool :=
  !e.retired && !e.poweredOff && (match e.state with | .fenced => false | .testing => false | _ => true)

/-- A run that may take an Ember or begin a descriptor. -/
def Run.live (r : Run) : Bool := !r.cancel && r.err.isNone

/-- A descriptor of the run is in progress. -/
def Run.begun (r : Run) : Bool := decide (0 < r.progR) || decide (0 < r.progW) || r.walking.isSome || r.remote.isSome

/-- A run whose descriptor goes on: one that is cancelled goes on to its next data-tile boundary, or to the descriptor's end (R216). -/
def Run.goes (r : Run) : Bool := r.err.isNone && (!r.cancel || r.begun)

/-- The queued runs that the present slot serves. -/
def State.waitingRuns (s : State) (t : Nat) : List Run :=
  (s.ember t).queue.filter fun r => r.live && s.serves t resEmber r.ctx

/-- An idle Ember takes a run of its slot: one started by a trigger first, then the oldest. A switch is counted where the run is not the
one that held it last; the work of confidential runs is not counted (R229, R230). -/
def State.takeRun (s : State) (t : Nat) : State :=
  let e := s.ember t
  if e.run.isSome || e.guard || !e.inService || s.held then s
  else
    let l := s.waitingRuns t
    match (l.find? (·.triggered)).orElse fun _ => l.head? with
    | none => s
    | some r =>
      let sw := e.lastRun.isSome && e.lastRun != some (r.plan, r.number) && !s.ctxConf r.ctx
      s.modEmber t fun e => { e with
        run := some r, queue := e.queue.erase r, state := .running, since := s.clk.elapsed
        switches := if sw then satInc 32 e.switches else e.switches, lastRun := some (r.plan, r.number), descs := s.descsOf r
        dirtyCtx := if e.dirtyCtx.contains r.ctx then e.dirtyCtx else e.dirtyCtx ++ [r.ctx] }

/-- The Ember's waiting read at a home is abandoned. -/
def State.dropWait (s : State) (t : Nat) : State :=
  let mine (w : SyncWait) : Bool := w.req.src.isNone && w.req.txn == t
  (s.syncWaits.filter mine).foldl (fun t w => t.waitLeaves w) { s with syncWaits := s.syncWaits.filter fun w => !mine w }

/-- The run leaves the Ember for its queue, its descriptor to be restarted: at the head after a slot edge, at the tail after its turn. -/
def State.putBack (s : State) (t : Nat) (atHead : Bool) : State :=
  let s := ((s.dropWait t).dropFault t).dropPort (.ember t)
  s.modEmber t fun e => { e with
    run := none, state := (match e.state with | .fenced => .fenced | .testing => .testing | _ => .idle)
    queue := match e.run with
      | some r => if atHead then r.clean :: e.queue else e.queue ++ [r.clean]
      | none => e.queue }

/-- The Ember stands at a descriptor boundary, a WAIT or a clean descriptor in fault-wait (R203, R218). -/
def Ember.displaceable (e : Ember) (r : Run) : Bool :=
  match e.state with
  | .waiting => true
  | .faultWait => !r.dirty
  | .running => !r.dirty && !r.begun
  | _ => false

/-- What a boundary brings (R217): a triggered run displaces another, and a run that has had its quantum gives way. -/
def State.boundary (s : State) (t : Nat) : State :=
  let e := s.ember t
  match e.run with
  | none => s.takeRun t
  | some r =>
    let l := s.waitingRuns t
    let due := (!r.triggered && l.any (·.triggered)) || (l != [] && decide (e.since + 1000 * e.quantum ≤ s.clk.elapsed))
    if r.live && e.displaceable r && due && s.serves t resEmber r.ctx && !s.held then (s.putBack t false).takeRun t else s

/-- Requests to other devices that a run has open. -/
def State.openOf (s : State) (t : Nat) (r : Run) : List OpenReq :=
  s.openReqs.filter fun q => q.tile == some t && q.plan == r.plan && q.number == r.number

/-- A write towards another device, or a sync operation. -/
def OpenReq.writes (q : OpenReq) : Bool := q.pkt.opcode != msgCode .rdCur && q.pkt.opcode != msgCode .readFull && q.pkt.opcode != msgCode .readDrain

/-- Every write the Ember issued earlier in the run has its CMP (R201, R202). -/
def State.writesDone (s : State) (t : Nat) (r : Run) : Bool := !(s.openOf t r).any fun q => q.writes

/-- The run on the Ember ends in error; the first error stands (R222). -/
def State.runError (s : State) (t : Nat) (e : EmbErr) : State :=
  s.modRun t fun r => if r.err.isSome then r else { r with err := some e, walking := none, remote := none }

/-- A parity error of the Ember (R231). -/
def State.parityError (s : State) (t : Nat) : State :=
  let conf := ((s.ember t).run.map fun (r : Run) => s.ctxConf r.ctx).getD false
  (s.modEmber t fun e => { e with lsParity := if conf then e.lsParity else satInc 16 e.lsParity }).runError t { cls := 5 }

/-- An armed parity fault of a kind applies to the Ember's run (R231). -/
def State.embInject (s : State) (t kind : Nat) : State :=
  ((s.modEmber t fun e => { e with injArm := false }).injected (8 + kind) t).parityError t

/-- The Ember has an armed fault of a kind that this run may meet. -/
def State.embArmed (s : State) (t kind : Nat) (r : Run) : Bool :=
  (s.ember t).injArm && (s.ember t).injKind == kind && !s.ctxConf r.ctx

/-- The row of a descriptor kind: `f` on the run that stands at such a descriptor in its slot. Ranks other than 0 pass over one with
rank0_only (R200); one with order set waits for the run's writes (R201). -/
def State.onDesc (s : State) (t kind : Nat) (f : Run → Bytes → State → State) : State :=
  let s := s.boundary t
  let e := s.ember t
  match e.run with
  | none => s
  | some r =>
    let d := s.descOf r
    if e.state != .running || e.guard || !r.goes || r.walking.isSome || r.remote.isSome || !s.serves t resEmber r.ctx || dKind d != kind ||
        (s.held && e.displaceable r) then s
    else if dRank0 d && r.rank != 0 then s.modEmber t fun e => { e with run := some (r.at' (r.pc + 1)), descs := s.descsOf (r.at' (r.pc + 1)) }
    else if s.embArmed t 1 r || (s.embArmed t 0 r && decide (1564672 ≤ e.injOffset)) then s.embInject t e.injKind
    else if dOrder d && !s.writesDone t r then s
    else f r d s

/-! ## Ends (R214, R222-R224) -/

/-- The error record of an end (Table 7.11). -/
def errorRecord (t nt : Nat) (r : Run) (e : EmbErr) : Bytes :=
  natLE 1 e.cls ++ natLE 1 e.reason ++ natLE 2 r.pc ++ natLE 2 r.rank ++ natLE 2 t ++ natLE 8 e.cva ++ natLE 8 nt ++ natLE 4 r.number ++ zeros 4

/-- An error record that is not written is counted in errors_lost (R212). -/
def State.errorLost (s : State) (t : Nat) : State := s.modEmber t fun m => { m with errLost := min 15 (m.errLost + 1) }

/-- Writes an error record at its CVA, or counts it lost (R212). -/
def State.writeError (s : State) (t : Nat) (r : Run) (a : Nat) (b : Bytes) : State :=
  match s.rangeStatus r.ctx a 32 rightWrite with
  | none => if (s.poolWrite r.ctx 2 a b).2 then (s.poolWrite r.ctx 2 a b).1 else (s.poolWrite r.ctx 2 a b).1.errorLost t
  | some _ => s.errorLost t

/-- The record of a run can be written now, or need not be: nothing else stands before it at the home of its line, whose agents' copies are
called back first, so that its CMP comes with the write and the end goes on after it (R214). -/
def State.recordReady (s : State) (r : Run) : State × Bool :=
  match s.plan r.plan with
  | none => (s, true)
  | some p =>
    let a := p.errorArea + 32 * r.rank
    if p.errorArea = 0 then (s, true)
    else match s.rangeStatus r.ctx a 32 rightWrite, s.resolve a with
      | none, some (rn, dpa) =>
        if (s.lock (dpa / 64)).isSome || !s.lineOpen (dpa / 64) true then (s, false)
        else if (s.dirEnt (dpa / 64)).isSome then (s.internal { op := .recall, holder := r.ctx, dpa := 64 * (dpa / 64), region := rn }, false)
        else (s, true)
      | _, _ => (s, true)

/-- The record is written where the plan names an error area, counted as lost where it cannot be, and logged with the context virtual
address only. -/
def State.recordError (s : State) (t : Nat) (p : Plan) (r : Run) (e : EmbErr) : State :=
  let s := if p.errorArea = 0 then s else s.writeError t r (p.errorArea + 32 * r.rank) (errorRecord t s.clk.nt r e)
  let s := s.log 0x0401 (some r.ctx) none (natLE 1 e.cls ++ natLE 1 e.reason ++ natLE 2 r.pc ++ natLE 1 t ++ natLE 3 r.number)
  { s with diag := { s.diag with log := s.diag.log.map fun (x : LogEnt) =>
      if x.seq + 1 = s.diag.nextSeq then { x with dpa := e.cva, pool := e.cva } else x } }

/-- One more in the plan's done word, with fill target N (R214). -/
def State.bumpDone (s : State) (p : Plan) (r : Run) : State :=
  if p.doneWord = 0 then s
  else match s.resolve p.doneWord with
    | some (rn, dpa) =>
      if s.hasRight r.ctx rn rightSync then
        s.internal { op := .addSat, holder := r.ctx, dpa, region := rn, aux := 1, data := natLE 4 1 ++ natLE 4 r.ranks }
      else s
    | none => s

/-- The counters and registers of an end in error, which leave confidential runs out (R229, R230). -/
def State.countEnd (s : State) (t : Nat) (r : Run) (e : EmbErr) : State :=
  let s := s.modCtx r.ctx fun c => { c with runsInError := c.runsInError + 1 }
  if s.ctxConf r.ctx then s
  else s.modEmber t fun m => { m with
    errClass := e.cls, errReason := e.reason, errIndex := r.pc, errCva := e.cva
    overruns := if e.cls = 6 then satInc 16 m.overruns else m.overruns }

/-- An Ember ends its part of a run: record, done word, end notice (R214). `r` holds the Ember or waits in its queue. -/
def State.finishRun (s : State) (t : Nat) (r : Run) (e : Option EmbErr) : State :=
  let x := e.getD {}
  let s := match e, s.plan r.plan with
    | some x, some p => (s.recordError t p r x).countEnd t r x
    | _, _ => s
  let s := match s.plan r.plan with
    | some p => s.bumpDone p r
    | none => s
  let s := { s with ends := s.ends ++ [({ plan := r.plan, number := r.number, tile := t, cls := x.cls, reason := x.reason, index := if e.isSome then r.pc else 0 } : EndMsg)] }
  let holds := ((s.ember t).run.map fun (q : Run) => (q.plan, q.number)) == some (r.plan, r.number)
  if holds then
    let s := ((s.dropWait t).dropFault t).dropPort (.ember t)
    (s.modEmber t fun m => { m with run := none, state := (match m.state with | .fenced => .fenced | .testing => .testing | _ => .idle) }).takeRun t
  else s.modEmber t fun m => { m with queue := m.queue.filter fun (q : Run) => !(q.plan == r.plan && q.number == r.number) }

/-- Why a run has to end now: its error; or `CANCELLED`, for a run that stands at a descriptor boundary, in a WAIT or on a fault, or in the
queue (R216). -/
def Ember.ending (e : Ember) (r : Run) : Option EmbErr :=
  match r.err with
  | some e => some e
  | none => if r.cancel && (!r.begun || r.fault.isSome || (e.state == .waiting && e.run == some r)) then some { cls := 8 } else none

/-- EMBER_ERROR (R222): a run that has met an error or a cancel ends once its requests have completed. `parity`: the error is one of the
local store's parity, found now. -/
def execEmberError (tile : Nat) (parity : Bool) (s : State) : Out :=
  done (onUnit tile 256 (fun s =>
    let s := if parity && ((s.ember tile).run.map Run.live).getD false then s.parityError tile else s
    let cand := (s.ember tile).run.toList ++ (s.ember tile).queue
    match cand.find? fun r => ((s.ember tile).ending r).isSome with
    | none => s
    | some r =>
      if s.openOf tile r != [] then s
      else match s.recordReady r with
        | (s, false) => s
        | (s, true) => s.finishRun tile r ((s.ember tile).ending r)) s)

/-- END (R214). -/
def execEndPlan (tile : Nat) (s : State) : Out :=
  done (s.onDesc tile 0x1F fun r _ s => if s.openOf tile r != [] then s else (s.descDone tile r.pc).finishRun tile r none)

/-! ## Starts and ends of runs (R208, R211-R217) -/

/-- The run of a start. -/
def startedRun (st : Start) (p : Plan) : Run :=
  { plan := st.plan, ctx := p.ctx, number := st.number, rank := (p.tiles.filter (· < st.tile)).length, ranks := p.tiles.length,
    triggered := st.triggered, startedAt := st.time, cancel := p.state == .cancelling }

/-- PLAN_START (R212): a start reaches its Ember, which queues the run; a fenced Ember's part ends with `FENCED` (R226). -/
def execPlanStart (n : Nat) (s : State) : Out :=
  done (match s.starts[n]? with
    | none => s
    | some st =>
      let s := { s with starts := s.starts.eraseIdx n }
      match s.plan st.plan with
      | none => s
      | some p =>
        if (p.active.map (·.number)) != some st.number then s
        else
          let r := startedRun st p
          let r := if (s.ember st.tile).inService then r else { r with err := some { cls := 0xA } }
          (s.modEmber st.tile fun e => { e with queue := e.queue ++ [r] }).boundary st.tile)

/-- A cancelled plan has come to rest: the final reply with the overrun count; with unload it leaves the plan store (R216, R482). -/
def State.endCancel (s : State) (k : Nat) : State :=
  match s.plan k with
  | none => s
  | some p =>
    let s := { s with starts := s.starts.filter fun (x : Start) => x.plan != k }
    let s := if p.unload then { s with plans := Tab.set none s.plans k none }
      else s.modPlan k fun p => { p with state := .loaded, active := none, cancelCmd := none }
    match p.cancelCmd.bind fun w => s.cmd w.1 w.2 with
    | some c => s.final c stOk (natLE 2 p.overruns)
    | none => s

/-- The held trigger of a plan back in `armed` fires (R213). -/
def State.fireHeld (s : State) (k : Nat) : State :=
  match s.plan k, s.arms.find? fun a => a.plan == k && a.held with
  | some p, some a =>
    ({ s with arms := s.arms.map fun x => if x = a then { x with held := false } else x }).startRun k p true none .armedRunning
      (homeTile (a.word / 64)) a.filledAt
  | _, _ => s

/-- The run of a plan has ended: the final reply of PLAN_RUN (Table 16.9) and the plan's next state (Table 7.7). -/
def State.runEnded (s : State) (k : Nat) (p : Plan) (a : ActiveRun) : State :=
  let s := match a.cmd.bind fun w => s.cmd w.1 w.2 with
    | some c => s.final c stOk (natLE 2 a.ended ++ natLE 2 a.errors ++ natLE 1 a.firstClass ++ natLE 1 a.firstReason ++ natLE 2 a.firstIndex ++ natLE 4 a.number)
    | none => s
  match p.state with
  | .cancelling => s.endCancel k
  | .armedRunning => (s.modPlan k fun p => { p with state := .armed, active := none }).fireHeld k
  | _ => s.modPlan k fun p => { p with state := .loaded, active := none }

/-- END_NOTICE (R214): at the N-th the run ends. -/
def execEndNotice (n : Nat) (s : State) : Out :=
  done (match s.ends[n]? with
    | none => s
    | some m =>
      let s := { s with ends := s.ends.eraseIdx n }
      match s.plan m.plan with
      | none => s
      | some p =>
        match p.active with
        | none => s
        | some a =>
          if a.number ≠ m.number then s
          else
            let first := m.cls != 0 && a.errors == 0
            let a := { a with ended := a.ended + 1, errors := a.errors + b2n (m.cls != 0), firstClass := if first then m.cls else a.firstClass,
                              firstReason := if first then m.reason else a.firstReason, firstIndex := if first then m.index else a.firstIndex }
            let s := s.modPlan m.plan fun p => { p with active := some a }
            if a.ended < p.tiles.length then s else s.runEnded m.plan p a)

/-- EMBER_QUANTUM_EXPIRY (R217). -/
def execEmberQuantumExpiry (tile : Nat) (s : State) : Out :=
  done (onUnit tile 256 (fun s =>
    let e := s.ember tile
    if e.run.isNone || s.waitingRuns tile == [] then s else (s.untilElapsed (e.since + 1000 * e.quantum)).boundary tile) s)

/-- Nanoseconds of the edge guard, 2,048 Ember cycles (R219). -/
def State.edgeGuardNs (s : State) : Nat := 2048 * 1000 / s.emberMhz

/-- The Ember at the start of its edge guard (R219, R220): a clean descriptor is abandoned, a dirty one and one restarted for the third
time end with `SLOT_OVERRUN`; the local store, the translation buffer and the walk cache are cleared. -/
def State.edgeGuard (s : State) (t : Nat) : State :=
  let e := s.ember t
  if e.guard then s
  else
    let s := match e.run with
      | none => s
      | some r =>
        let idle := e.displaceable r && e.state != EmbState.faultWait
        let conf := s.ctxConf r.ctx
        let s := if !r.goes then s
          else if r.dirty then s.runError t { cls := 6, reason := r.restarts }
          else if idle then s
          else
            let s := s.modEmber t fun m => { m with restarts := if conf then m.restarts else satInc 16 m.restarts }
            if 2 ≤ r.restarts then s.runError t { cls := 6, reason := 3 } else s.modRun t fun r => { r with restarts := r.restarts + 1 }
        s.putBack t true
    s.modEmber t fun m => { m with guard := true, tb := [], wc := [], store := [], descs := [], dirtyCtx := [], state := if m.inService then .switching else m.state }

/-- The guard ends at the slot edge, and the incoming owner's runs are served. -/
def State.edgeGuardEnd (s : State) (t : Nat) : State :=
  if (s.ember t).guard then
    (s.modEmber t fun m => { m with guard := false, state := if m.state == .switching then .idle else m.state }).takeRun t
  else s.boundary t

/-- EMBER_EDGE_GUARD (R219). -/
def execEmberEdgeGuard (tile : Nat) (s : State) : Out :=
  done (onUnit tile 256 (fun s =>
    if !s.guardedEdge tile resEmber then s else (s.untilNt (s.shareEnd tile - s.edgeGuardNs)).edgeGuard tile) s)

/-- A fault fences the Ember: every run that names it there ends with `FENCED` (R226). -/
def State.fenceEmber (s : State) (t : Nat) : State :=
  let s := s.runError t { cls := 0xA }
  let s := s.putBack t true
  s.modEmber t fun m => { m with state := .fenced, queue := m.queue.map fun (r : Run) =>
    if r.err.isSome then r else { r with err := some { cls := 0xA } } }

/-- EMBER_FAULT_FENCE (R226). -/
def execEmberFaultFence (tile : Nat) (s : State) : Out :=
  done (onUnit tile 256 (fun s => if (s.ember tile).inService then s.fenceEmber tile else s) s)

/-! ## Accesses of an Ember (R113, R114, R135, R163) -/

/-- Error classes of a completion's reason (Table 7.10). -/
def errOfReason (r cva : Nat) : EmbErr := { cls := if r ≤ 7 then 1 else 2, reason := r, cva }

/-- What an access answers: done with a value; an error; or not now, in the state given. -/
inductive Acc (α : Type) where
  | ok (v : α)
  | err (e : EmbErr)
  | later
  deriving DecidableEq, Repr

/-- Where an access goes: a pool address of this device, or an address at another endpoint. -/
inductive Dest where
  | here (a : Nat)
  | there (ep a : Nat)
  deriving DecidableEq, Repr

/-- The first request of a run: a triggered one that leaves more than 236 ns after the time in its start is counted (R215). -/
def State.firstRequest (s : State) (t : Nat) (r : Run) : State :=
  if !r.fresh then s
  else
    let late := r.triggered && decide (r.startedAt + 236 < s.clk.nt) && !s.ctxConf r.ctx
    s.modEmber t fun e => { e with trigLate := if late then satInc 16 e.trigLate else e.trigLate, run := e.run.map fun (r : Run) => { r with fresh := false } }

/-- A context virtual address translated: a miss, or a hit that lacks the right, starts a walk (R146, R150). -/
def State.translate (s : State) (t cva : Nat) (write : Bool) : State × Acc Dest :=
  match (s.ember t).run with
  | none => (s, .later)
  | some r =>
    let s := s.firstRequest t r
    if 2 ^ 48 ≤ cva then (s, .err { cls := 4, cva })
    else match (s.ember t).tb.find? fun e => e.covers r.ctx cva with
      | some e =>
        if (if write then e.write else e.read) then
          let s := s.modEmber t fun m => { m with tb := tbTouch m.tb e }
          let a := e.target + (cva - e.base)
          (s, .ok (if e.remote && s.endpoint != some e.endpoint then .there e.endpoint a else .here a))
        else (s.modRun t fun r => { r with walking := some (cva, write) }, .later)
      | none =>
        let s := s.modFaultQ (tileHearth t) fun q => { q with tbMisses := satInc 32 q.tbMisses }
        (s.modRun t fun r => { r with walking := some (cva, write) }, .later)

/-- The stamping point of an Ember. -/
def emberPoint (t : Nat) : Nat := 32 + t

/-- A local access passes its stamping point (R114): its region and DPA, the reason it ends with, or no entry of the cache may go. -/
def State.emberStamp (s : State) (t ctx a : Nat) (op : MsgOp) : State × Acc (Nat × Nat) :=
  let bad (r : Nat) : Acc (Nat × Nat) := .err { cls := 2, reason := r }
  match s.resolve a with
  | none => (s, bad 8)
  | some (rn, dpa) =>
    let judge (s : State) (e : CacheEnt) : State × Acc (Nat × Nat) :=
      let s := s.modCache (emberPoint t) (cacheTouch · e)
      (s, if e.tombstone then bad 10 else if !(neededRight op).within e.rights then bad 9 else .ok (rn, dpa))
    match cacheFind (s.cache (emberPoint t)) ctx rn with
    | some e => judge s e
    | none =>
      match s.grant ctx rn, s.region rn with
      | some g, some r =>
        let e : CacheEnt := { holder := ctx, region := rn, rights := g.rights, epoch := r.epoch, tombstone := g.tombstone }
        if !g.accepted && !g.tombstone then (s, bad 9)
        else match cacheFill 64 (s.cache (emberPoint t)) e with
          | some l => judge (s.modCache (emberPoint t) fun _ => l) e
          | none => (s, .later)
      | _, _ => (s, bad 9)

/-- The home of a line takes an access of a context now: in its slot, with no other work on the line, not stopped by a cutover or a partial
reset. -/
def State.homeTakes (s : State) (l ctx : Nat) : Bool :=
  s.serves (homeTile l) resChannel ctx && !(s.cord (lineCord l)).cutover && (s.lock l).isNone &&
  (s.boot.hreset.map fun (h : PartialReset) => h.hearth) != some (chanHearth (lineChan l))

/-- An error of an access, with its address. -/
def Acc.at' {α : Type} (a : Acc α) (cva : Nat) : Acc α :=
  match a with
  | .err e => .err { e with cva }
  | x => x

/-- An access of an Ember to a line has been released by its home and stands in a port of the channel. -/
def State.inPort (s : State) (t l : Nat) : Bool :=
  ((s.chan (lineChan l)).waiting ++ (s.chan (lineChan l)).granted).any fun q => q.dest == .ember t && q.line == l

/-- An Ember's access has its turn at the channels of its line: through the stream port (R64, R65), or at once at every copy of a
triple-placed line; `part`: one that enters the merge buffer. -/
def State.streamTurn (s : State) (t ctx l : Nat) (part : Bool) : State × Bool :=
  if s.isTriple l then (s, s.lineOpen l part)
  else if part && (s.chan (lineChan l)).guard then (s, false)
  else s.portTurn { port := 1, line := l, entered := s.clk.elapsed, owner := s.party ctx, ctx, dest := .ember t }

/-- A line of this device read for an Ember (R163): an owner's copy is called for first. -/
def State.emberRead (s : State) (t ctx a cva : Nat) : State × Acc Bytes :=
  match s.emberStamp t ctx a .rdCur with
  | (s, .err e) => (s, .err { e with cva })
  | (s, .later) => (s, .later)
  | (s, .ok (_, dpa)) =>
    let inPort := s.inPort t (dpa / 64)
    if !inPort && !s.homeTakes (dpa / 64) ctx then (s, .later)
    else match (if inPort then (s, true) else s.readyToRead (dpa / 64) ctx) with
      | (s, false) => (s, .later)
      | (s, true) =>
        match s.streamTurn t ctx (dpa / 64) false with
        | (s, false) => (s, .later)
        | (s, true) =>
          match s.homeRead (dpa / 64) (some ctx) with
          | (s, .data d) => (s, .ok d)
          | (s, .bad r) => (s, .err (errOfReason r cva))

/-- What an Ember writes. -/
inductive Store where
  | line (d : Bytes)
  | part (off : Nat) (d : Bytes)
  | acc (d : Bytes)
  deriving DecidableEq, Repr

def Store.op : Store → MsgOp
  | .line _ => .wrInv
  | .part _ _ => .wrPart
  | .acc _ => .accLine

/-- A line of this device written for an Ember; copies of agents are called back first (R177, R256). -/
def State.emberWrite (s : State) (t ctx a cva : Nat) (w : Store) : State × Acc Unit :=
  match s.emberStamp t ctx a w.op with
  | (s, .err e) => (s, .err { e with cva })
  | (s, .later) => (s, .later)
  | (s, .ok (rn, dpa)) =>
    let l := dpa / 64
    let inPort := s.inPort t l
    if !inPort && !s.homeTakes l ctx then (s, .later)
    else if !inPort && (s.dirEnt l).isSome then (s.internal { op := .recall, holder := ctx, dpa := 64 * l, region := rn }, .later)
    else match s.streamTurn t ctx l (match w with | .part .. => true | _ => false) with
    | (s, false) => (s, .later)
    | (s, true) =>
      let ans (p : State × Option Nat) : State × Acc Unit :=
        match p with
        | (s, none) => (s, .ok ())
        | (s, some r) => (s, .err (errOfReason r cva))
      match w with
      | .line d => ans (s.homeWrite l d)
      | .part off d => ans (s.homePartial l ctx (placed off d) (spanMask off d.length))
      | .acc d =>
        match s.homeRead l (some ctx) with
        | (s, .data u) => ans (s.homeWrite l (accAdd u (padTo 64 d)))
        | (s, .bad r) => (s, .err (errOfReason r cva))

/-- A request of an Ember leaves for another device, with what its completion needs; `bad` of the values it stores are non-finite. -/
def State.emberSend (s : State) (t : Nat) (r : Run) (k : Packet) (cva : Nat) (bad : Nat := 0) : State × Acc Nat :=
  match s.request { k with ctx := r.ctx } (some t) none with
  | (s, some e) => (s, .err { cls := 2, reason := e, cva })
  | (s, none) =>
    let txn := (s.nextTxn + 2 ^ 32 - 1) % 2 ^ 32
    ({ s with openReqs := s.openReqs.map fun (q : OpenReq) =>
        if q.pkt.txn = txn ∧ q.tile = some t then { q with plan := r.plan, number := r.number, cva, bad } else q }, .ok txn)

/-- The packet of a store to another device. -/
def Store.packet (w : Store) (ep a : Nat) : Packet :=
  match w with
  | .line d => { opcode := msgCode .wrInv, dst := ep, addr := a, payload := padTo 64 d }
  | .part off d => { opcode := msgCode .wrPart, dst := ep, addr := a + off, aux := d.length, payload := placed off d }
  | .acc d => { opcode := msgCode .accLine, dst := ep, addr := a, payload := padTo 64 d }

/-- `n` non-finite values of a run have been written: EMB_NONFINITE counts them, but not those of a confidential run (R247, R262). -/
def State.wroteBad (s : State) (t ctx n : Nat) : State :=
  if s.ctxConf ctx || n == 0 then s else s.modEmber t fun e => { e with nonfinite := satAdd 32 e.nonfinite n }

/-- A line written by the run's descriptor at a context virtual address, here or on another device: with the request, which may wait at its
home, the descriptor is dirty (R218). `bad` of its values are non-finite; those of a request to another device are counted when its CMP
comes. -/
def State.store (s : State) (t : Nat) (r : Run) (cva : Nat) (w : Store) (bad : Nat) : State × Acc Unit :=
  match s.translate t cva true with
  | (s, .err e) => (s, .err e)
  | (s, .later) => (s, .later)
  | (s, .ok (.here a)) =>
    match (s.modRun t fun r => { r with dirty := true }).emberWrite t r.ctx a cva w with
    | (s, .ok v) => (s.wroteBad t r.ctx bad, .ok v)
    | x => x
  | (s, .ok (.there ep a)) =>
    match s.emberSend t r (w.packet ep a) cva bad with
    | (s, .ok _) => (s.modRun t fun r => { r with dirty := true }, .ok ())
    | (s, .err e) => (s, .err e)
    | (s, .later) => (s, .later)

/-! ## Sync operations of an Ember (R202, R203) -/

/-- What a local sync operation of an Ember answers: its status and value, or it waits at the home. -/
inductive Synced where
  | done (status : Nat)
  | waits
  | sent (txn : Nat)
  deriving DecidableEq, Repr

/-- A sync operation on the word at a context virtual address, which needs the write bit of the leaf and the sync right (R138). -/
def State.emberSync (s : State) (t : Nat) (r : Run) (cva : Nat) (op : MsgOp) (data : Bytes) (aux : Nat) : State × Acc Synced :=
  match s.translate t cva true with
  | (s, .err e) => (s, .err e)
  | (s, .later) => (s, .later)
  | (s, .ok (.here a)) =>
    match s.emberStamp t r.ctx a op with
    | (s, .err e) => (s, .err { e with cva })
    | (s, .later) => (s, .later)
    | (s, .ok (rn, dpa)) =>
      if !s.homeTakes (dpa / 64) r.ctx || !s.lineOpen (dpa / 64) (op == .writeFill || op == .addSat) then (s, .later)
      else match s.syncOp { op, holder := r.ctx, point := emberPoint t, txn := t, dpa, region := rn, aux, data } with
        | (s, .err e) => (s, .err (errOfReason e cva))
        | (s, .val st _) => (s, .ok (.done st))
        | (s, .waits) => (s.modCache (emberPoint t) (·.map fun e => if e.holder = r.ctx ∧ e.region = rn then { e with inflight := e.inflight + 1 } else e), .ok .waits)
  | (s, .ok (.there ep a)) =>
    match s.emberSend t r { opcode := msgCode op, dst := ep, addr := a, aux, payload := padTo 64 data } cva with
    | (s, .ok n) => (s, .ok (.sent n))
    | (s, .err e) => (s, .err e)
    | (s, .later) => (s, .later)

/-- The limit of a WAIT in ns; none for no limit. -/
def waitLimit (d : Bytes) : Option Nat := if dDim0 d = 0 then none else some (1000 * dDim0 d)

/-- A WAIT's limit has passed. -/
def State.waitOver (s : State) (r : Run) (d : Bytes) : Bool :=
  match waitLimit d, r.waitSince with
  | some n, some t0 => decide (t0 + n ≤ s.clk.timer)
  | _, _ => false

/-- WAIT (R203): its read is issued with wait = 1; one that comes back empty is issued again. -/
def execWait (tile : Nat) (s : State) : Out :=
  done (s.onDesc tile 0x10 fun r d s =>
    if s.waitOver r d then s.runError tile { cls := 7 }
    else
      let s := s.modRun tile fun r => { r with waitSince := some (r.waitSince.getD s.clk.timer) }
      match s.emberSync tile r (dSync d) (if dMode d 0 then .readDrain else .readFull) [] 1 with
      | (s, .err e) => s.runError tile e
      | (s, .later) => s
      | (s, .ok (.done st)) => if bit st 0 then s.descDone tile (r.pc + 1) else s
      | (s, .ok .waits) => s.modEmber tile fun e => { e with state := .waiting }
      | (s, .ok (.sent n)) => s.modEmber tile fun e => { e with state := .waiting, run := e.run.map fun (r : Run) => { r with remote := some (0, n) } })

/-- WAIT_LIMIT_EXPIRY (R203). -/
def execWaitLimitExpiry (tile : Nat) (s : State) : Out :=
  done (match (s.ember tile).run with
    | none => s
    | some r =>
      match dKind (s.descOf r) == 0x10, waitLimit (s.descOf r), r.waitSince with
      | true, some n, some t0 =>
        if !r.live || r.fault.isSome then s
        else s.atTimer (t0 + n) fun s =>
          ((s.dropWait tile).modEmber tile fun e => { e with state := if e.state == .waiting then .running else e.state }).runError tile { cls := 7 }
      | _, _, _ => s)

/-- SIGNAL (R202): after every earlier write of the run has its CMP. -/
def execSignal (tile : Nat) (s : State) : Out :=
  done (s.onDesc tile 0x11 fun r d s =>
    if !s.writesDone tile r then s
    else
      let (op, data, aux) : MsgOp × Bytes × Nat :=
        if dMode d 0 then (.addSat, natLE 4 (dParam d) ++ natLE 4 (dDim2 d), b2n (dMode d 1)) else (.writeFill, (d.drop 48).take 8, 0)
      match s.emberSync tile r (dSync d) op data aux with
      | (s, .err e) => s.runError tile e
      | (s, .later) => s
      | (s, .ok _) => s.descDone tile (r.pc + 1))

/-- REPEAT (R204). -/
def execRepeatRange (tile : Nat) (s : State) : Out :=
  done (s.onDesc tile 0x12 fun r d s =>
    if r.loops < dDim1 d then (s.descDone tile (r.pc - dDim0 d)).modRun tile fun r => { r with loops := r.loops + 1 }
    else (s.descDone tile (r.pc + 1)).modRun tile fun r => { r with loops := 0 })

/-! ## Completions (R222, R287) -/

/-- A completion reaches the Ember whose request it answers; one for a run that has gone, or abandoned, is discarded (R219). -/
def State.emberCompletion (s : State) (t : Nat) (q : OpenReq) (p : Packet) : State :=
  let s := if p.opcode = msgCode .cmp then s.wroteBad t q.pkt.ctx q.bad else s
  match (s.ember t).run with
  | none => s
  | some r =>
    if !(r.plan == q.plan && r.number == q.number) then s
    else
      let mine := match r.remote with | some (_, n) => n == q.pkt.txn | none => false
      if p.opcode = msgCode .err then (if mine || q.writes then s.runError t (errOfReason p.reason q.cva) else s)
      else if q.writes || !mine then s
      else if q.pkt.opcode = msgCode .rdCur then
        s.modRun t fun r => { r with got := r.got ++ [((r.remote.map Prod.fst).getD 0, padTo 64 p.payload)], remote := none }
      else if bit p.aux 0 then s.descDone t (r.pc + 1)
      else s.modEmber t fun e => { e with state := if e.state == .waiting then .running else e.state, run := e.run.map fun (r : Run) => { r with remote := none } }

/-- REQUEST_COMPLETION (R222): the `n`-th completion reaches its requester. One that answers no open request is discarded. A failed reply
write is REPLY_WRITE_ERROR's. -/
def execRequestCompletion (n : Nat) (s : State) : Out :=
  done (match s.inbox[n]? with
    | none => s
    | some p =>
      let mine (q : OpenReq) : Bool := q.pkt.txn == p.txn && (q.pkt.dst == p.src || p.src == s.routing.localIdx)
      match s.openReqs.find? mine with
      | none => { s with inbox := s.inbox.eraseIdx n }
      | some q =>
        match q.tile with
        | none =>
          if p.opcode = msgCode .err then s
          else ({ s with inbox := s.inbox.eraseIdx n, openReqs := s.openReqs.erase q }).replyEnds p.txn
        | some t => ({ s with inbox := s.inbox.eraseIdx n, openReqs := s.openReqs.erase q }).emberCompletion t q p)

end Sys2Proof.Machine
end

