-- ==== Sys2Proof/Machine/Kernels.lean ====
section
/-! DEFINITION. The operations of an Ember: how a descriptor reads, computes and writes, and the eight kernels (chapter 8). -/

set_option Elab.async false

namespace Sys2Proof.Machine

/-! ## A descriptor in progress -/

/-- A pass over a descriptor: the state, the Ember, the run as it stood at the start of the pass, reads and writes so far, the lines read,
the blocks decoded and the rows converted so far, of which a later pass counts no earlier one again (R243, R262). -/
structure Pass where
  s : State
  tile : Nat
  run : Run
  desc : Bytes
  i : Nat := 0
  w : Nat := 0
  got : List (Nat × Bytes) := []
  b : Nat := 0
  e : Nat := 0

/-- Why a pass stops: it is made again later, reading what it has read and skipping what it has written; or the descriptor ends. -/
inductive Stop where
  | later
  | err (e : EmbErr)
  deriving DecidableEq, Repr

/-- A computation over a pass. -/
def KM (α : Type) : Type := Pass → Pass × Except Stop α

def KM.ret {α : Type} (a : α) : KM α := fun k => (k, .ok a)
def KM.bind {α β : Type} (m : KM α) (f : α → KM β) : KM β := fun k =>
  match m k with
  | (k, .ok a) => f a k
  | (k, .error e) => (k, .error e)
def KM.stop {α : Type} (e : Stop) : KM α := fun k => (k, .error e)
/-- The descriptor ends with class ARITH (Table 8.7). -/
def KM.arith {α : Type} (reason : Nat) : KM α := KM.stop (.err { cls := 9, reason })
def KM.count (f : Pass → Pass) : KM Unit := fun k => (f k, .ok ())

/-- The Ember's registers change, but not for the work of a confidential run (R262). -/
def Pass.tally (k : Pass) (f : Ember → Ember) : Pass := if k.s.ctxConf k.run.ctx then k else { k with s := k.s.modEmber k.tile f }

/-- One more PBS block decoded. -/
def Pass.block (k : Pass) : Pass :=
  let k' := if k.b < k.run.progB then k else k.tally fun e => { e with pbsBlocks := satInc 32 e.pbsBlocks }
  { k' with b := k.b + 1 }

/-- One more row converted, `n` of its values clamped or a NaN made an integer (R243). -/
def Pass.row (k : Pass) (n : Nat) : Pass :=
  let k' := if k.e < k.run.progE || n == 0 then k else k.tally fun e => { e with sat := satAdd 32 e.sat n }
  { k' with e := k.e + 1 }

/-- `f` at `i`, `i + 1`, ... for `n` numbers. -/
def KM.fold {σ : Type} (f : σ → Nat → KM σ) : Nat → Nat → σ → KM σ
  | _, 0, a => KM.ret a
  | i, n + 1, a => (f a i).bind fun b => KM.fold f (i + 1) n b

/-- Everything a descriptor of a kind uses of the local store (Tables 7.2, 8.8). -/
def workNeed (d : Bytes) : Nat :=
  let q := dDim2 d % 65536 * (dDim2 d / 65536)
  match dKind d with
  | 0x01 => dDim2 d * rowSize (dFmtB d) (dDim1 d) + 65536
  | 0x02 => q * (rowSize (dFmtB d) (dDim1 d) + 4 * dDim1 d + 1088) + 65536
  | 0x03 => 3 * (64 + 4 * dDim1 d)
  | 0x08 => 16 * dDim1 d + 65536
  | _ => 65536

/-- Bytes of the stream buffer. -/
def streamBuf (d : Bytes) : Nat := if streaming (dKind d) then 2 * 2 ^ dTile d else 0

/-- An armed parity fault meets the line now read (R231): an incoming flit, or a byte of the local store in use. -/
def State.readFault (s : State) (t : Nat) (r : Run) (d : Bytes) : Option Nat :=
  if s.embArmed t 2 r then some 2
  else if s.embArmed t 0 r && decide ((s.ember t).injOffset < streamBuf d + workNeed d) then some 0
  else none

/-- One more line read by the stream unit (R230). -/
def Pass.countLine (k : Pass) : Pass :=
  if k.i < k.run.progR then k
  else
    let s := if k.s.ctxConf k.run.ctx then k.s else k.s.modEmber k.tile fun e => { e with lines := satInc 32 e.lines }
    { k with s := s.modCtx k.run.ctx fun c => { c with linesStreamed := c.linesStreamed + 1 } }

/-- The local store of the Ember holds a line at place `n` (R194). -/
def Pass.keep (k : Pass) (n : Nat) (d : Bytes) : Pass :=
  { k with s := k.s.modEmber k.tile fun e => { e with store := Tab.set [] e.store n d } }

/-- The 64 bytes at a context virtual address, which go to line `slot` of the local store. -/
def KM.lineTo (slot : Nat → Nat) (cva : Nat) : KM Bytes := fun k =>
  match k.got.find? fun p => p.1 == k.i with
  | some p =>
    let k := k.countLine.keep (slot k.i) p.2
    ({ k with i := k.i + 1 }, .ok p.2)
  | none =>
    match k.s.readFault k.tile k.run k.desc with
    | some kind => ({ k with s := k.s.embInject k.tile kind }, .error .later)
    | none =>
      match k.s.translate k.tile cva false with
      | (s, .later) => ({ k with s }, .error .later)
      | (s, .err e) => ({ k with s }, .error (.err e))
      | (s, .ok (.here a)) =>
        match s.emberRead k.tile k.run.ctx a cva with
        | (s, .later) => ({ k with s }, .error .later)
        | (s, .err e) => ({ k with s }, .error (.err e))
        | (s, .ok d) =>
          let k := ({ k with s, got := k.got ++ [(k.i, d)] } : Pass).countLine.keep (slot k.i) d
          ({ k with i := k.i + 1 }, .ok d)
      | (s, .ok (.there ep a)) =>
        match s.emberSend k.tile k.run { opcode := msgCode .rdCur, dst := ep, addr := a } cva with
        | (s, .ok n) => ({ k with s := s.modRun k.tile fun r => { r with remote := some (k.i, n) } }, .error .later)
        | (s, .err e) => ({ k with s }, .error (.err e))
        | (s, .later) => ({ k with s }, .error .later)

/-- A line of the work area: the place of the `i`-th line that a descriptor reads other than by its stream, which the manual leaves open
(log 150). -/
def workSlot (d : Bytes) (i : Nat) : Nat := streamBuf d / 64 + i % (24448 - streamBuf d / 64)

/-- The 64 bytes at a context virtual address. -/
def KM.line (cva : Nat) : KM Bytes := fun k => KM.lineTo (workSlot k.desc) cva k

/-- The next 8 data tiles of the stream at `base` after the one that begins at `a`, each from its first byte to below its last; `len`: the
stream's bytes, none where they are not known (R149). -/
def nextTiles (base size a : Nat) (len : Option Nat) : List (Nat × Nat) :=
  let hi (n : Nat) : Nat := match len with
    | some l => min n (base + l)
    | none => n
  (List.range 8).map fun i => (a + (i + 1) * size, hi (a + (i + 2) * size))

/-- Line `j` of the stream at `base`, which goes to the half of the stream buffer that its data tile fills (R194). At the start of a data
tile a cancelled run ends (R216), and the translations of the next 8 are to be checked. -/
def KM.stream (base : Nat) (len : Option Nat) (tl j : Nat) : KM Bytes := fun k =>
  let size := 2 ^ tl
  let starts := decide (64 * j % size = 0) && !(k.got.any fun p => p.1 == k.i) && decide (k.run.progR ≤ k.i)
  if starts && k.run.cancel then (k, .error (.err { cls := 8 }))
  else
    let s := if starts then k.s.modRun k.tile fun r => { r with ahead := aheadOf (k.s.ember k.tile).tb r.ctx (nextTiles base size (base + 64 * j) len) }
      else k.s
    KM.lineTo (fun _ => j % (2 * size / 64)) (base + 64 * j) { k with s }

/-- A line stored, unless an earlier pass has stored it; `bad` of its values are an infinity or a NaN. -/
def KM.put (cva : Nat) (w : Store) (bad : Nat := 0) : KM Unit := fun k =>
  if k.w < k.run.progW then ({ k with w := k.w + 1 }, .ok ())
  else match k.s.store k.tile k.run cva w bad with
    | (s, .ok _) => ({ k with s, w := k.w + 1 }, .ok ())
    | (s, .err e) => ({ k with s }, .error (.err e))
    | (s, .later) => ({ k with s }, .error .later)

/-- Bytes stored from an address on: whole lines where they are covered whole, parts elsewhere. -/
def KM.putSpan (cva : Nat) (b : Bytes) : KM Unit :=
  if b = [] then KM.ret ()
  else
    let first := cva / 64
    KM.fold (fun _ i =>
      let lo := max cva (64 * (first + i))
      let hi := min (cva + b.length) (64 * (first + i) + 64)
      let d := (b.drop (lo - cva)).take (hi - lo)
      KM.put (64 * (first + i)) (if hi - lo = 64 then .line d else .part (lo % 64) d)) 0 ((cva + b.length - 1) / 64 - first + 1) ()

/-- `n` draws of the Ember's generator: the number of the first (R242). -/
def KM.draws (n : Nat) : KM Nat := fun k => ({ k with s := { k.s with draws := k.s.draws + n } }, .ok k.s.draws)

/-- A kernel runs on the descriptor of a run: it completes, ends in error, or goes on later from where it stopped. -/
def State.kernel (s : State) (t : Nat) (r : Run) (d : Bytes) (m : KM Unit) : State :=
  match m { s, tile := t, run := r, desc := d, got := r.got } with
  | (k, .ok _) => k.s.descDone t (r.pc + 1)
  | (k, .error (.err e)) => k.s.runError t e
  | (k, .error .later) => k.s.modRun t fun r =>
      { r with got := k.got, progR := max r.progR k.i, progW := max r.progW k.w, progB := max r.progB k.b, progE := max r.progE k.e }

/-! ## Operands -/

/-- The line last read of a plane. -/
abbrev LineCache := Option (Nat × Bytes)

/-- `len` bytes from offset `off` of what `rd` reads by lines; a line already in hand is not read again. -/
def KM.span (rd : Nat → KM Bytes) (off len : Nat) (c : LineCache) : KM (Bytes × LineCache) :=
  let lo := off / 64
  let n := if len = 0 then 0 else (off + len - 1) / 64 - lo + 1
  (KM.fold (fun (a : Bytes × LineCache) i =>
    let fetch := (rd (lo + i)).bind fun d => KM.ret (a.1 ++ d, some (lo + i, d))
    match a.2 with
    | some (l, d) => if l = lo + i then KM.ret (a.1 ++ d, a.2) else fetch
    | none => fetch) 0 n (([] : Bytes), c)).bind fun a => KM.ret ((a.1.drop (off % 64)).take len, a.2)

/-- Rows 0 to `n - 1` of an operand of `rows` rows of `c` elements at offset `off` (R234). -/
def KM.block (rd : Nat → KM Bytes) (f rows c n off : Nat) : KM (List (List Lane)) :=
  let rb := rowBytes f c
  let sb := if fmtMx f then c / 32 else 0
  (KM.span rd off (n * rb) none).bind fun e =>
    (KM.span rd (off + rows * rb) (n * sb) none).bind fun q =>
      KM.ret ((List.range n).map fun i => decodeRow f c ((e.1.drop (i * rb)).take rb) ((q.1.drop (i * sb)).take sb))

/-- Where a row reader stands: the next offset of a packed block stream, the scale line or stream line in hand. -/
structure RowPos where
  pos : Nat := 0
  cache : LineCache := none
  deriving DecidableEq, Repr

/-- The blocks of a PBS row with `left` elements to come, at most `n` blocks (R236-R238). -/
def KM.pbsRow (rd : Nat → KM Bytes) (f : Nat) : Nat → Nat → RowPos → List Lane → KM (List Lane × RowPos)
  | 0, _, p, l => KM.ret (l, p)
  | n + 1, left, p, l =>
    if left = 0 then KM.ret (l, p)
    else (KM.span rd p.pos 8 p.cache).bind fun h =>
      match pbsHead f left h.1 with
      | none => KM.arith 1
      | some hd => (KM.span rd p.pos hd.len h.2).bind fun b =>
        match pbsBlock f hd b.1 with
        | none => KM.arith 1
        | some x => (KM.count Pass.block).bind fun _ =>
          KM.pbsRow rd f n (left - hd.count) { pos := p.pos + hd.len, cache := b.2 } (l ++ x)

/-- Row `i` of a streamed operand of `rows` rows of `c` elements. -/
def KM.row (rd : Nat → KM Bytes) (f rows c i : Nat) (p : RowPos) : KM (List Lane × RowPos) :=
  if fmtPbs f then KM.pbsRow rd f (c / 32 + 1) c p []
  else
    let rb := rowBytes f c
    let sb := if fmtMx f then c / 32 else 0
    (KM.span rd (i * rb) rb none).bind fun e =>
      (KM.span rd (rows * rb + i * sb) sb p.cache).bind fun q => KM.ret (decodeRow f c e.1 q.1, { p with cache := q.2 })

/-- An operand's stream: its length is known but for PBS. -/
def KM.operand (base f rows c tl : Nat) : Nat → KM Bytes :=
  KM.stream base (if fmtPbs f then none else some (operandSize f rows c)) tl

/-- Lines read one by one from an address. -/
def KM.plain (base : Nat) : Nat → KM Bytes := fun j => KM.line (base + 64 * j)

/-! ## Outputs (R242, R246, R247) -/

/-- A row converted to fmt_out, with the draws of stochastic rounding where mode[0] asks for it. -/
def KM.encode (d : Bytes) (f : Nat) (l : List Lane) : KM RowOut :=
  (if dMode d 0 then KM.draws l.length else KM.ret 0).bind fun n =>
    let o := encodeRow f l fun i => if dMode d 0 then some (Config.stochastic (n + i)) else none
    (KM.count fun k => k.row o.sat).bind fun _ => KM.ret o

/-- Output values about to be written, `bad` of them an infinity or a NaN: the non-finite trap of mode[1] comes before the line, else it is
written and they count (R247). -/
def KM.putOut (d : Bytes) (cva : Nat) (w : Store) (bad : Nat) : KM Unit :=
  if dMode d 1 && decide (0 < bad) then KM.arith 2 else KM.put cva w bad

/-- A row's element lines written, none of them half (R246). -/
def KM.putRow (d : Bytes) (f cva : Nat) (o : RowOut) : KM Unit :=
  let w := fmtWidth f
  KM.fold (fun _ i =>
    let bad := ((List.range o.bad.length).filter fun e => decide (w * e / 512 = i) && o.bad.getD e false).length
    KM.putOut d (cva + 64 * i) (.line ((o.bytes.drop (64 * i)).take 64)) bad) 0 (o.bytes.length / 64) ()

/-! ## The MAC array (R240, R241, R244) -/

/-- The exact sum of the products of a group, times a power of two, rounded once to FP32. -/
def groupTerm (a b : List Lane) (shift : Int) : Nat :=
  let ps := (a.zip b).map fun p => p.1.x.mul p.2.x
  match ps with
  | [] => fp32Zero false
  | p :: t => ((t.foldl Num.add p).mul (.fin false 1 shift)).toFp32

/-- A pair placed by its key. -/
def insertKey (p : Nat × Nat) : List (Nat × Nat) → List (Nat × Nat)
  | [] => [p]
  | q :: t => if q.1 ≤ p.1 then q :: insertKey p t else p :: q :: t

/-- Terms in the order of accumulation, which the manual leaves open (log 32). -/
def accOrder (draw : Nat) (l : List Nat) : List Nat :=
  (((List.range l.length).zip l).foldl (fun acc p => insertKey (Config.accKey draw p.1, p.2) acc) []).map Prod.snd

/-- FP32 terms accumulated in that order. -/
def accumulate (draw : Nat) (l : List Nat) : Nat :=
  match accOrder draw l with
  | [] => fp32Zero false
  | x :: t => t.foldl fp32Add x

/-- The dot product of two rows in groups of 32. -/
def dotTerms (a b : List Lane) (shift : Int) : List Nat :=
  ((chunks 32 (a.length / 32 + 1) a).zip (chunks 32 (b.length / 32 + 1) b)).map fun p => groupTerm p.1 p.2 shift

def KM.dot (a b : List Lane) (shift : Int := 0) : KM Nat := (KM.draws 1).bind fun n => KM.ret (accumulate n (dotTerms a b shift))

/-! ## The vector unit (R239) -/

/-- e^(|x| / 256) for |x| = m x 2^e, in units of 2^-192: the first 48 terms of its series. -/
def expSeries (m : Nat) (e : Int) : Nat :=
  let y := roundUnits m e (-184) (some 0)
  ((List.range 48).foldl (fun (a : Nat × Nat) k =>
    let term := a.2 * y / 2 ^ 192 / (k + 1)
    (a.1 + term, term)) (2 ^ 192, 2 ^ 192)).1

/-- e^x for x = (-1)^neg x m x 2^e with |x| at most 256, as a value in units of 2^-192 or finer. -/
def expValue (neg : Bool) (m : Nat) (e : Int) : Nat × Int :=
  let p := (List.range 8).foldl (fun (v : Nat) _ => v * v / 2 ^ 192) (expSeries m e)
  if neg then (2 ^ 800 / p, -608) else (p, -192)

/-- exp of the vector unit: the implementation's value where it lies within the bound of R239, else the nearest FP32 number (log 33). -/
def vexp (v : Nat) : Nat :=
  match fp32Num v with
  | .nan => fp32Nan
  | .inf neg => if neg then 0 else fp32Inf false
  | .fin neg m e =>
    if (Num.fin false 256 0).lt (.fin false m e) then (if neg then 0 else fp32Inf false)
    else
      let (x, q) := expValue neg m e
      let d := (Config.expDraw (BitVec.ofNat 32 v)).toNat
      let within := match fp32Num d with
        | .fin n dm de => !(Num.fin n dm de).lt (.fin false (x * (2 ^ 22 - 1)) (q - 22)) && !(Num.fin false (x * (2 ^ 22 + 1)) (q - 22)).lt (.fin n dm de)
        | _ => false
      if within then d else fp32Round false x q

/-- The larger of two FP32 numbers; a NaN where either is one. -/
def fp32Max (a b : Nat) : Nat :=
  match fp32Num a, fp32Num b with
  | .nan, _ => fp32Nan
  | _, .nan => fp32Nan
  | x, y => if x.lt y then b else a

/-- Pairs of neighbours added, round by round: the vector unit's sum, in a tree (log 32). -/
def pairSums : List Nat → List Nat
  | a :: b :: t => fp32Add a b :: pairSums t
  | l => l

def treeSum (draw : Nat) (l : List Nat) : Nat :=
  ((List.range 24).foldl (fun (v : List Nat) _ => pairSums v) (accOrder draw l)).headD (fp32Zero false)

/-- Minus infinity. -/
def fp32MinusInf : Nat := 0xFF800000

/-! ## GEMV_STREAM (R250) -/

/-- Rows `first` to `first + n - 1` of the weights against the vectors: the outputs of each vector. -/
def gemvRows (d : Bytes) (rd : Nat → KM Bytes) (vs : List (List Lane)) (first n : Nat) (p : RowPos) : KM (List (List Lane) × RowPos) :=
  KM.fold (fun (a : List (List Lane) × RowPos) i =>
    (KM.row rd (dFmtA d) (dDim0 d) (dDim1 d) i a.2).bind fun r =>
      (KM.fold (fun (ys : List Lane) j =>
        (KM.dot r.1 (vs.getD j [])).bind fun y => KM.ret (ys ++ [laneOf32 (fp32Mul (dParam d) y)])) 0 vs.length []).bind fun ys =>
          KM.ret ((a.1.zip ys).map fun q => q.1 ++ [q.2], r.2)) first n (vs.map fun _ => [], p)

def gemvKernel (d : Bytes) (r : Run) : KM Unit :=
  let rows := dDim0 d
  let per := 512 / fmtWidth (dFmtOut d)
  let rd := KM.operand (dAddrA d r.rank) (dFmtA d) rows (dDim1 d) (dTile d)
  (KM.block (KM.plain (dAddrB d)) (dFmtB d) (dDim2 d) (dDim1 d) (dDim2 d) 0).bind fun vs =>
    (KM.fold (fun (p : RowPos) q =>
      (gemvRows d rd vs (q * per) (min per (rows - q * per)) p).bind fun y =>
        (KM.fold (fun _ j =>
          (KM.encode d (dFmtOut d) (y.1.getD j [])).bind fun o =>
            KM.putRow d (dFmtOut d) (dAddrOut d r.rank + j * rowBytes (dFmtOut d) rows + 64 * q) o) 0 vs.length ()).bind fun _ =>
              KM.ret y.2) 0 ((rows + per - 1) / per) ({} : RowPos)).bind fun _ => KM.ret ()

/-- GEMV_STREAM (R250). -/
def execGemvStream (tile : Nat) (s : State) : Out := done (s.onDesc tile 0x01 fun r d s => s.kernel tile r d (gemvKernel d r))

/-! ## ATTN_DECODE (R252-R254) -/

/-- A partial softmax state while it is built. -/
structure Soft where
  m : Nat := fp32MinusInf
  l : Nat := 0
  o : List Nat := []
  tokens : Nat := 0
  deriving DecidableEq, Repr

/-- A state record written at an address (Table 8.13). -/
def KM.putState (d : Bytes) (f cva : Nat) (x : Soft) : KM Unit :=
  let head := natLE 4 x.m ++ natLE 4 x.l ++ natLE 4 x.tokens ++ natLE 1 f ++ zeros 51
  (KM.putOut d cva (.line head) (b2n (fp32NonFinite x.m) + b2n (fp32NonFinite x.l))).bind fun _ =>
      (KM.encode d f (x.o.map laneOf32)).bind fun o => KM.putRow d f (cva + 64) o

/-- A weight rounded before it multiplies V: E4M3 after scaling by 2^8, or BF16 (R253). -/
def roundWeight (bf16 : Bool) (w : Nat) : Lane :=
  if bf16 then (elemOf 0x03).decode ((elemOf 0x03).encode (laneOf32 w) none).code
  else elemE4M3.decode (elemE4M3.encode { x := (fp32Num w).mul (.fin false 1 8) } none).code

/-- One page of one cache head added to the state of a query (R253). -/
def attnPage (d : Bytes) (q : List Lane) (ks vs : List (List Lane)) (x : Soft) : KM Soft :=
  (KM.fold (fun (l : List Nat) t => (KM.dot q (ks.getD t [])).bind fun y => KM.ret (l ++ [fp32Mul (dParam d) y])) 0 ks.length []).bind fun sc =>
    let mp := sc.foldl fp32Max x.m
    if mp = fp32MinusInf then KM.ret x
    else
      let a := if x.m = fp32MinusInf then 0 else vexp (fp32Sub x.m mp)
      let ws := sc.map fun v => vexp (fp32Sub v mp)
      let rw := ws.map (roundWeight (dMode d 2))
      (KM.draws 1).bind fun n =>
        let l := fp32Add (fp32Mul x.l a) (treeSum n ws)
        (KM.fold (fun (o : List Nat) j =>
          (KM.dot rw (vs.map fun v => v.getD j {}) (if dMode d 2 then 0 else -8)).bind fun y =>
            KM.ret (o ++ [fp32Add (fp32Mul (x.o.getD j 0) a) y])) 0 x.o.length []).bind fun o => KM.ret { x with m := mp, l, o }

def attnKernel (d : Bytes) (r : Run) : KM Unit :=
  let tokens := dDim0 d
  let dim := dDim1 d
  let heads := dDim2 d % 65536
  let g := dDim2 d / 65536
  let op := operandSize (dFmtA d) 256 dim
  let pages := (tokens + 255) / 256
  let rd := KM.stream (dAddrA d r.rank) (some (pages * heads * 2 * op)) (dTile d)
  (KM.block (KM.plain (dAddrB d)) (dFmtB d) (heads * g) dim (heads * g) 0).bind fun qs =>
    (KM.fold (fun (xs : List Soft) p =>
      let n := min 256 (tokens - 256 * p)
      KM.fold (fun (xs : List Soft) h =>
        let off := (p * heads + h) * 2 * op
        (KM.block rd (dFmtA d) 256 dim n off).bind fun ks =>
          (KM.block rd (dFmtA d) 256 dim n (off + op)).bind fun vs =>
            KM.fold (fun (xs : List Soft) j =>
              (attnPage d (qs.getD (h * g + j) []) ks vs (xs.getD (h * g + j) {})).bind fun x => KM.ret (xs.set (h * g + j) x)) 0 g xs) 0 heads xs)
      0 pages (List.replicate (heads * g) { o := List.replicate dim 0, tokens })).bind fun xs =>
        KM.fold (fun _ i => KM.putState d (dFmtOut d) (dAddrOut d r.rank + i * (64 + rowSize (dFmtOut d) dim)) (xs.getD i {})) 0 xs.length ()

/-- ATTN_DECODE (R253). -/
def execAttnDecode (tile : Nat) (s : State) : Out := done (s.onDesc tile 0x02 fun r d s => s.kernel tile r d (attnKernel d r))

/-! ## SOFTMAX_MERGE (R255) -/

/-- One state merged, in list order. -/
def mergeState (x : Soft) (m l tokens : Nat) (o : List Nat) : Soft :=
  let x := { x with tokens := satAdd 32 x.tokens tokens }
  if l % 2 ^ 31 = 0 then x
  else
    let mn := fp32Max x.m m
    let a := if x.m = fp32MinusInf then 0 else vexp (fp32Sub x.m mn)
    let b := vexp (fp32Sub m mn)
    { x with m := mn, l := fp32Add (fp32Mul x.l a) (fp32Mul l b), o := (x.o.zip o).map fun p => fp32Add (fp32Mul p.1 a) (fp32Mul p.2 b) }

/-- The normalised row o / l. -/
def Soft.normal (x : Soft) : List Lane := x.o.map fun v => laneOf32 (if x.l % 2 ^ 31 = 0 then 0 else fp32Div v x.l)

def mergeKernel (d : Bytes) (r : Run) : KM Unit :=
  let k := dDim0 d
  let dim := dDim1 d
  let rb := rowBytes (dFmtA d) dim
  let rd := KM.plain (dAddrA d r.rank)
  KM.fold (fun _ g =>
    (KM.fold (fun (x : Soft) i =>
      let off := (g * k + i) * (64 + rb)
      (KM.span rd off 64 none).bind fun h =>
        if fieldAt h.1 12 1 ≠ dFmtA d then KM.arith 4
        else (KM.span rd (off + 64) rb none).bind fun o =>
          KM.ret (mergeState x (fieldAt h.1 0 4) (fieldAt h.1 4 4) (fieldAt h.1 8 4) ((decodeRow (dFmtA d) dim o.1 []).map fun v => v.x.toFp32)))
      0 k { o := List.replicate dim 0 }).bind fun x =>
        if dMode d 2 then
          (KM.encode d (dFmtOut d) x.normal).bind fun o => KM.putRow d (dFmtOut d) (dAddrOut d r.rank + g * rowBytes (dFmtOut d) dim) o
        else KM.putState d (dFmtOut d) (dAddrOut d r.rank + g * (64 + rowSize (dFmtOut d) dim)) x) 0 (dDim2 d) ()

/-- SOFTMAX_MERGE (R255). -/
def execSoftmaxMerge (tile : Nat) (s : State) : Out := done (s.onDesc tile 0x03 fun r d s => s.kernel tile r d (mergeKernel d r))

/-! ## REDUCE_ADD and SCATTER_ACC (R256, R258) -/

/-- Element `i` of a source row as FP32: as stored, or BF16 widened exactly. -/
def wideAt (f : Nat) (b : Bytes) (i : Nat) : Nat := if f = 0x03 then fieldAt b (2 * i) 2 * 65536 else fieldAt b (4 * i) 4

/-- A source row of `n` elements at line offset `off` added into the destination at `out`, one ACC_LINE a line. -/
def KM.accRow (d : Bytes) (rd : Nat → KM Bytes) (off n out : Nat) : KM Unit :=
  let f := dFmtA d
  let w := fmtWidth f / 8
  (KM.fold (fun (c : LineCache) q =>
    (KM.span rd (off + 16 * w * q) (16 * w) c).bind fun b =>
      let vs := (List.range 16).map (wideAt f b.1)
      (KM.putOut d (out + 64 * q) (.acc (vs.flatMap (natLE 4))) (vs.filter fp32NonFinite).length).bind fun _ => KM.ret b.2) 0 (n / 16) none).bind fun _ => KM.ret ()

/-- The counter word: ADD_SAT by 1 after every ACC_LINE has its CMP. -/
def KM.counter (d : Bytes) : KM Unit := fun k =>
  if dSync d = 0 then (k, .ok ())
  else if !k.s.writesDone k.tile k.run then (k, .error .later)
  else match k.s.emberSync k.tile k.run (dSync d) .addSat (natLE 4 1 ++ natLE 4 (dParam d)) (b2n (dParam d != 0)) with
    | (s, .ok _) => ({ k with s }, .ok ())
    | (s, .err e) => ({ k with s }, .error (.err e))
    | (s, .later) => ({ k with s }, .error .later)

/-- REDUCE_ADD (R256). -/
def execReduceAdd (tile : Nat) (s : State) : Out :=
  done (s.onDesc tile 0x04 fun r d s => s.kernel tile r d
    ((KM.accRow d (KM.plain (dAddrA d r.rank)) 0 (dDim0 d) (dAddrOut d r.rank)).bind fun _ => KM.counter d))

/-- Index `j` of the list at operand B. -/
def KM.index (d : Bytes) (j : Nat) (c : LineCache) : KM (Nat × LineCache) :=
  (KM.span (KM.plain (dAddrB d)) (4 * j) 4 c).bind fun b => KM.ret (leNat b.1, b.2)

def scatterKernel (d : Bytes) (r : Run) : KM Unit :=
  let c := dDim1 d
  let rd := KM.plain (dAddrA d r.rank)
  (KM.fold (fun (h : LineCache) q =>
    let j := r.rank + q * r.ranks
    (KM.index d j h).bind fun x =>
      if dDim2 d ≤ x.1 then KM.arith 3
      else (KM.accRow d rd (j * rowBytes (dFmtA d) c) c (dAddrOut d r.rank + x.1 * 4 * c)).bind fun _ => KM.ret x.2)
    0 ((dDim0 d + r.ranks - 1 - r.rank) / r.ranks) none).bind fun _ => KM.counter d

/-- SCATTER_ACC (R258). -/
def execScatterAcc (tile : Nat) (s : State) : Out := done (s.onDesc tile 0x06 fun r d s => s.kernel tile r d (scatterKernel d r))

/-! ## GATHER (R257) -/

/-- A row as it is, its padding zero (R246): the bit-exact copy of a row whose lanes are `l`. -/
def copyRow (f : Nat) (b scales : Bytes) (l : List Lane) : RowOut :=
  { bytes := padTo (rowBytes f l.length) (b.take (fmtWidth f * l.length / 8)), scales, bad := l.map fun v => !v.finite }

/-- Bytes of a scale plane that a rank has made and not yet written: place in the plane and byte, in order. -/
abbrev Scales := List (Nat × Nat)

/-- The runs of neighbouring bytes of a list in order. -/
def scaleRuns (l : Scales) : List (Nat × Bytes) :=
  l.foldr (fun (p : Nat × Nat) acc => match acc with
    | (o, b) :: t => if p.1 + 1 = o then (p.1, p.2 :: b) :: t else (p.1, [p.2]) :: acc
    | [] => [(p.1, [p.2])]) []

/-- One line of the scale plane at `base` written: whole where the rank has all of it, else the parts that are the rank's. -/
def KM.putScales (base line : Nat) (l : Scales) : KM Unit :=
  let runs := scaleRuns (l.filter fun p => p.1 / 64 == line)
  KM.fold (fun _ i =>
    let p := runs.getD i (0, [])
    KM.put (base + 64 * line) (if p.2.length = 64 then .line p.2 else .part (p.1 % 64) p.2)) 0 runs.length ()

/-- The lines of the scale plane that lie wholly before byte `upTo` are written; the bytes of the rest are kept. -/
def KM.flushScales (base upTo : Nat) (l : Scales) : KM Scales :=
  let lines := ((l.filter fun p => decide (p.1 / 64 < upTo / 64)).map fun p => p.1 / 64).eraseDups
  (KM.fold (fun _ i => KM.putScales base (lines.getD i 0) l) 0 lines.length ()).bind fun _ =>
    KM.ret (l.filter fun p => decide (upTo / 64 ≤ p.1 / 64))

/-- Output row `j`: the rank's row `x`, copied or converted; its scale bytes by their places in the scale plane. -/
def gatherRow (d : Bytes) (r : Run) (rd : Nat → KM Bytes) (x j : Nat) : KM Scales :=
  let fa := dFmtA d
  let fo := dFmtOut d
  let c := dDim1 d
  let rb := rowBytes fa c
  let sb := if fmtMx fa then c / 32 else 0
  (KM.span rd (x * rb) rb none).bind fun e =>
    (KM.span rd (dDim2 d * rb + x * sb) sb none).bind fun q =>
      let l := decodeRow fa c e.1 q.1
      (if fo = fa then KM.ret (copyRow fa e.1 q.1 l) else KM.encode d fo l).bind fun o =>
        (KM.putRow d fo (dAddrOut d r.rank + j * rowBytes fo c) o).bind fun _ =>
          KM.ret ((List.range o.scales.length).map fun i => (j * (c / 32) + i, fieldAt o.scales i 1))

def gatherKernel (d : Bytes) (r : Run) : KM Unit :=
  let fo := dFmtOut d
  let c := dDim1 d
  let rd := KM.operand (dAddrA d r.rank) (dFmtA d) (dDim2 d) c (dTile d)
  let n := dDim0 d * (c / 32)
  let plane := dAddrOut d r.rank + dDim0 d * rowBytes fo c
  (KM.fold (fun (h : LineCache × Scales) j =>
    (KM.index d j h.1).bind fun x =>
      if r.rank = 0 ∧ r.ranks * dDim2 d ≤ x.1 then KM.arith 3
      else
        (if x.1 / dDim2 d = r.rank then gatherRow d r rd (x.1 - r.rank * dDim2 d) j else KM.ret []).bind fun q =>
          (KM.flushScales plane ((j + 1) * (c / 32)) (h.2 ++ q)).bind fun l => KM.ret (x.2, l)) 0 (dDim0 d) (none, [])).bind fun h =>
    -- the padding of the scale plane is written by rank 0, or by each rank where the outputs are apart (R200, R234, R246)
    let pad := if fmtMx fo && (r.rank == 0 || fieldAt d 44 4 != 0) then (List.range (pad64 n - n)).map fun i => (n + i, 0) else []
    (KM.flushScales plane (pad64 n) (h.2 ++ pad)).bind fun _ => KM.ret ()

/-- GATHER (R257). -/
def execGather (tile : Nat) (s : State) : Out := done (s.onDesc tile 0x05 fun r d s => s.kernel tile r d (gatherKernel d r))

/-! ## CONVERT (R259) -/

def convertKernel (d : Bytes) (r : Run) : KM Unit :=
  let c := dDim0 d
  let rows := dDim1 d
  let fo := dFmtOut d
  let out := dAddrOut d r.rank
  let rd := KM.operand (dAddrA d r.rank) (dFmtA d) rows c (dTile d)
  (KM.fold (fun (a : RowPos × Bytes) i =>
    (KM.row rd (dFmtA d) rows c i a.1).bind fun l =>
      (KM.encode d fo l.1).bind fun o =>
        (KM.putRow d fo (out + i * rowBytes fo c) o).bind fun _ => KM.ret (l.2, a.2 ++ o.scales)) 0 rows (({} : RowPos), ([] : Bytes))).bind fun a =>
          if fmtMx fo then KM.putSpan (out + rows * rowBytes fo c) (padTo (pad64 a.2.length) a.2) else KM.ret ()

/-- CONVERT (R259). -/
def execConvert (tile : Nat) (s : State) : Out := done (s.onDesc tile 0x07 fun r d s => s.kernel tile r d (convertKernel d r))

/-! ## TOPK (R260) -/

/-- Entry `a` comes before entry `b`: larger values first, a NaN below everything, equal values by index. -/
def topBefore (a b : Nat × Nat) : Bool :=
  match fp32Num a.1, fp32Num b.1 with
  | .nan, .nan => decide (a.2 < b.2)
  | .nan, _ => false
  | _, .nan => true
  | x, y => y.lt x || (!x.lt y && decide (a.2 < b.2))

/-- An entry placed in order. -/
def topInsert (e : Nat × Nat) : List (Nat × Nat) → List (Nat × Nat)
  | [] => [e]
  | x :: t => if topBefore e x then e :: x :: t else x :: topInsert e t

/-- The row of `k` entries. -/
def topRow (k : Nat) (l : List (Nat × Nat)) : List (Nat × Nat) := l ++ List.replicate (k - l.length) (fp32MinusInf, 0xFFFFFFFF)

/-- A value of the selection as FP32. -/
def topValue (f v : Nat) : Nat := if f = 0x01 then v else ((elemOf f).decode v).x.toFp32

def topKernel (d : Bytes) (r : Run) : KM Unit :=
  let k := dDim1 d
  let f := dFmtA d
  let w := fmtWidth f / 8
  let add (best : List (Nat × Nat)) (e : Nat × Nat) : List (Nat × Nat) := (topInsert e best).take k
  let select : KM (List (Nat × Nat)) :=
    let n := dDim0 d
    let rd := KM.stream (dAddrA d r.rank) (some (rowBytes f n)) (dTile d)
    KM.fold (fun (best : List (Nat × Nat)) q =>
      (rd q).bind fun b =>
        KM.ret ((List.range (min (64 / w) (n - q * (64 / w)))).foldl (fun best i =>
          add best (topValue f (fieldAt b (w * i) w), dParam d + r.rank * n + q * (64 / w) + i)) best)) 0 ((n * w + 63) / 64) []
  let merge : KM (List (Nat × Nat)) :=
    let rb := pad64 (8 * k)
    let rd := KM.stream (dAddrA d r.rank) (some (dDim2 d * rb)) (dTile d)
    KM.fold (fun (best : List (Nat × Nat)) q =>
      (KM.span rd (q * rb) (8 * k) none).bind fun b =>
        KM.ret ((List.range k).foldl (fun best i => add best (fieldAt b.1 (8 * i) 4, fieldAt b.1 (8 * i + 4) 4)) best)) 0 (dDim2 d) []
  (if dMode d 2 then merge else select).bind fun best =>
    let row := topRow k best
    let b := padTo (pad64 (8 * k)) (row.flatMap fun e => natLE 4 e.1 ++ natLE 4 e.2)
    KM.fold (fun _ i =>
      KM.putOut d (dAddrOut d r.rank + 64 * i) (.line ((b.drop (64 * i)).take 64)) (((row.drop (8 * i)).take 8).filter fun e => fp32NonFinite e.1).length)
      0 (b.length / 64) ()

/-- TOPK (R260). -/
def execTopk (tile : Nat) (s : State) : Out := done (s.onDesc tile 0x08 fun r d s => s.kernel tile r d (topKernel d r))

end Sys2Proof.Machine
end

