-- ==== Sys2Proof/Machine/CmdEngine.lean ====
section
/-! DEFINITION. The engine and sync commands: PLAN_LOAD with its checks, PLAN_RUN, PLAN_ARM, PLAN_CANCEL, SYNC_INIT (chapters 7, 6 and 16). -/

set_option Elab.async false

namespace Sys2Proof.Machine

/-! ## Checks of a descriptor (R199, R204, R239, R246, R249) -/

/-- A field of Table 7.4 that a kind uses. -/
inductive DField where
  | fmtA | fmtB | fmtOut | mode | tile | a | b | out | sync | dim0 | dim1 | dim2 | param
  deriving DecidableEq, Repr

/-- First byte and size of a field; the strides belong to the addresses they offset. -/
def DField.place : DField → List (Nat × Nat)
  | .fmtA => [(2, 1)] | .fmtB => [(3, 1)] | .fmtOut => [(4, 1)] | .mode => [(5, 1)] | .tile => [(6, 1)]
  | .a => [(8, 8), (40, 4)] | .b => [(16, 8)] | .out => [(24, 8), (44, 4)] | .sync => [(32, 8)]
  | .dim0 => [(48, 4)] | .dim1 => [(52, 4)] | .dim2 => [(56, 4)] | .param => [(60, 4)]

/-- The fields a kind uses (Tables 7.5, 8.9-8.18); none for a kind that does not exist. -/
def kindFields (k : Nat) : Option (List DField) :=
  match k with
  | 0x01 => some [.fmtA, .fmtB, .fmtOut, .mode, .tile, .a, .b, .out, .dim0, .dim1, .dim2, .param]
  | 0x02 => some [.fmtA, .fmtB, .fmtOut, .mode, .tile, .a, .b, .out, .dim0, .dim1, .dim2, .param]
  | 0x03 => some [.fmtA, .fmtOut, .mode, .a, .out, .dim0, .dim1, .dim2]
  | 0x04 => some [.fmtA, .mode, .a, .out, .sync, .dim0, .param]
  | 0x05 => some [.fmtA, .fmtOut, .mode, .tile, .a, .b, .out, .dim0, .dim1, .dim2]
  | 0x06 => some [.fmtA, .mode, .a, .b, .out, .sync, .dim0, .dim1, .dim2, .param]
  | 0x07 => some [.fmtA, .fmtOut, .mode, .tile, .a, .out, .dim0, .dim1]
  | 0x08 => some [.fmtA, .mode, .tile, .a, .out, .dim0, .dim1, .dim2, .param]
  | 0x10 => some [.mode, .sync, .dim0]
  | 0x11 => some [.mode, .sync, .dim0, .dim1, .dim2, .param]
  | 0x12 => some [.dim0, .dim1]
  | 0x1F => some []
  | _ => none

/-- Bits of mode that a kind defines. -/
def modeMask (k : Nat) : Nat :=
  match k with
  | 0x02 | 0x03 => 7
  | 0x08 => 4
  | 0x10 => 1
  | 0x12 | 0x1F => 0
  | _ => 3

/-- Vector formats of Table 8.3: operand B of the 8-bit and of the 16-bit mode. -/
def macB8 (f : Nat) : Bool := [0x04, 0x05, 0x06, 0x10, 0x11, 0x15].contains f
def macB16 (f : Nat) : Bool := f == 0x02 || f == 0x03

/-- Operands A and B fit a mode of the MAC array. -/
def macPair (a b : Nat) : Bool := fmtListed a && ((macB8 b && decide (fmtWidth a ≤ 8)) || (macB16 b && decide (fmtWidth a ≤ 16)))

/-- An FP32 scale, finite and non-zero. -/
def scaleOk (v : Nat) : Bool := !fp32NonFinite v && v % 2 ^ 31 != 0

def within (v lo hi : Nat) : Bool := decide (lo ≤ v) && decide (v ≤ hi)
def headDim (v : Nat) : Bool := [64, 128, 192, 256].contains v

/-- What a kind asks of its formats and dimensions: the byte of a field with whether it is met. -/
def kindRules (d : Bytes) (j n : Nat) : List (Nat × Bool) :=
  let a := dFmtA d
  let b := dFmtB d
  let o := dFmtOut d
  let d0 := dDim0 d
  let d1 := dDim1 d
  let d2 := dDim2 d
  match dKind d with
  | 0x01 => [(2, macPair a b || !(macB8 b || macB16 b)), (3, macB8 b || macB16 b), (4, within o 1 5), (48, within d0 1 (2 ^ 24)),
             (52, within d1 32 (2 ^ 20) && d1 % 32 == 0), (56, within d2 1 4), (60, scaleOk (dParam d))]
  | 0x02 => [(2, (macPair a b || !(macB8 b || macB16 b)) && !fmtPbs a), (3, macB8 b || macB16 b), (4, o == 1 || o == 3), (48, decide (d0 ≤ 2 ^ 24)),
             (52, headDim d1), (56, within (d2 % 65536) 1 64), (58, within (d2 / 65536) 1 16), (60, scaleOk (dParam d))]
  | 0x03 => [(2, a == 1 || a == 3), (4, o == 1 || o == 3 || (o == 2 && dMode d 2)), (48, within d0 1 4096), (52, headDim d1), (56, within d2 1 4096)]
  | 0x04 => [(2, a == 1 || a == 3), (48, within d0 16 (2 ^ 24) && d0 % 16 == 0)]
  | 0x05 => [(2, fmtListed a && !fmtPbs a), (4, fmtListed o && !fmtPbs o), (48, within d0 1 (2 ^ 20)), (52, within d1 32 (2 ^ 20) && d1 % 32 == 0),
             (56, within d2 1 (2 ^ 31))]
  | 0x06 => [(2, a == 1 || a == 3), (48, within d0 1 (2 ^ 20)), (52, within d1 16 (2 ^ 20) && d1 % 16 == 0), (56, within d2 1 (2 ^ 31))]
  | 0x07 => [(2, fmtListed a), (4, fmtListed o && !fmtPbs o), (48, within d0 32 (2 ^ 24) && d0 % 32 == 0), (52, within d1 1 (2 ^ 24))]
  | 0x08 =>
    if dMode d 2 then [(2, a == 1), (48, d0 == 0), (52, within d1 1 256), (56, within d2 1 4096)]
    else [(2, within a 1 3), (48, within d0 1 (2 ^ 24)), (52, within d1 1 256), (56, d2 == 0), (60, decide (dParam d + n * d0 ≤ 2 ^ 32))]
  | 0x12 => [(48, within d0 1 (j - 1)), (52, within d1 1 65535)]
  | _ => []

/-- An operation of chapter 8. -/
def isOperation (k : Nat) : Bool := within k 1 8

/-- The bytes at fault of descriptor `j` of `count`, in a plan of `n` ranks (step 7 of Table 7.6). -/
def descFaults (d : Bytes) (j count n : Nat) : List Nat :=
  let k := dKind d
  match kindFields k with
  | none => [0]
  | some fs =>
    let used := fs.flatMap DField.place
    let stray := ((List.range 64).drop 2).filter fun i => fieldAt d i 1 != 0 && !used.any fun p => decide (p.1 ≤ i) && decide (i < p.1 + p.2)
    let rules := (kindRules d j n).filterMap fun r => if r.2 then none else some r.1
    let align := if !isOperation k then [] else
      ([(8, 64), (16, 64), (24, 64), (32, 8)].filter fun p => fieldAt d p.1 8 % p.2 != 0).map Prod.fst
    (if (k == 0x1F) != (j + 1 == count) then [0] else []) ++ (if fieldAt d 1 1 < 4 then [] else [1]) ++
    (if (fieldAt d 5 1 &&& (255 - modeMask k)) = 0 then [] else [5]) ++
    (if streaming k && !within (dTile d) 16 19 then [6]
     else if isOperation k && decide (1572864 - 8192 < workNeed d + streamBuf d) then [6] else []) ++ stray ++ rules ++ align

/-- The REPEAT at `j` lies inside the range of another (R204). -/
def nestedRepeat (l : List Bytes) (j : Nat) : Bool :=
  dKind (l.getD j []) == 0x12 && (List.range l.length).any fun i =>
    decide (j < i) && dKind (l.getD i []) == 0x12 && decide (i ≤ j + dDim0 (l.getD i []))

/-- The first descriptor at fault and the first byte at fault in it. -/
def planFault (l : List Bytes) (n : Nat) : Option (Nat × Nat) :=
  (List.range (l.length - 1)).findSome? fun i =>
    let j := i + 1
    let f := descFaults (l.getD j []) j l.length n ++ (if nestedRepeat l j then [0] else [])
    match f with
    | [] => none
    | x :: t => some (j, t.foldl min x)

/-! ## PLAN_LOAD (R205, R206, R479) -/

/-- The tiles of a mask, in rank order. -/
def maskTiles (h : Bytes) : List Nat := (List.range 256).filter fun t => bit (fieldAt h (8 + t / 8) 1) (t % 8)

/-- The header is well formed (step 2). -/
def headerOk (h : Bytes) : Bool :=
  fieldAt h 0 1 == 0x20 && fieldAt h 1 1 == 1 && within (fieldAt h 2 2) 3 4096 && fieldAt h 4 4 == 0 && fieldAt h 56 8 == 0

/-- Plans that name an Ember and draw on the same part as context `c` (step 5). -/
def State.plansNaming (s : State) (c t : Nat) : Nat :=
  ((if s.ctxIso c then s.plansOf c else s.sharedPlans).filter fun p => p.tiles.contains t).length

/-- Room in the plan store for one more plan of `count` descriptors (step 6, R333). -/
def State.planRoom (s : State) (c count : Nat) : Bool :=
  if s.ctxIso c then
    decide ((s.plansOf c).length < ((s.ctx c).map fun (x : Ctx) => x.plansRes).getD 0) &&
    decide (((s.plansOf c).map (·.bytes.length)).sum + count ≤ ((s.ctx c).map fun (x : Ctx) => x.descRes).getD 0)
  else
    decide (s.sharedPlans.length + s.reserved 4096 (·.plansRes) < 8191) &&
    decide ((s.sharedPlans.map (·.bytes.length)).sum + s.reserved 4096 (·.descRes) + count ≤ 1048576)

/-- The lowest free plan number. -/
def State.freePlan (s : State) : Option Nat := ((List.range 8192).drop 1).find? fun n => (s.plan n).isNone

/-- The done word lies in a sync word area with the sync right (step 8). -/
def State.doneFault (s : State) (c a : Nat) : Option Nat :=
  if a = 0 then none
  else match s.resolve a with
    | none => some stBadParam
    | some (rn, dpa) =>
      if a % 8 ≠ 0 ∨ !s.syncArea dpa then some stBadParam else if s.hasRight c rn rightSync then none else some stNoRight

/-- The error area has 32 bytes for each rank with the write right (step 9). -/
def State.errorFault (s : State) (c a n : Nat) : Option Nat :=
  if a = 0 then none else if a % 32 ≠ 0 then some stBadParam
  else (s.rangeStatus c a (32 * n) rightWrite).map fun st => if st = stBadParam then st else stNoRight

/-- Steps 2 to 9 on a plan read whole: the refusal with its results, or the tiles. -/
def State.planCheck (s : State) (c : Nat) (l : List Bytes) : Except (Nat × Bytes) (List Nat) :=
  let h := l.headD []
  let ts := maskTiles h
  let refuse (st : Nat) : Except (Nat × Bytes) (List Nat) := .error (st, natLE 1 0xFF)
  if !headerOk h || ts == [] then refuse stBadParam
  else if ts.any fun t => !(s.ember t).inService then refuse stFenced
  else if ts.any fun t => decide ((if s.ctxIso c then 8 else 64) ≤ s.plansNaming c t) then refuse stNoSpace
  else if !s.planRoom c l.length || s.freePlan.isNone then refuse stNoSpace
  else match planFault l ts.length with
    | some f => .error (stBadParam, natLE 1 0xFF ++ natLE 2 f.1 ++ natLE 1 f.2)
    | none =>
      match s.doneFault c (fieldAt h 40 8), s.errorFault c (fieldAt h 48 8) ts.length with
      | some st, _ => refuse st
      | none, some st => refuse st
      | none, none => .ok ts

/-- The plan enters the plan store and its digest the measurements (R197, R206). -/
def State.storePlan (s : State) (k : Cmd) (l : List Bytes) (ts : List Nat) (n : Nat) : State :=
  let h := l.headD []
  let digest := Config.sm3 (l.flatten ++ natLE 2 k.ctx)
  let p : Plan := { ctx := k.ctx, bytes := l, tiles := ts, doneWord := fieldAt h 40 8, errorArea := fieldAt h 48 8, digest }
  let s := ({ s with plans := Tab.set none s.plans n (some p) }).measured k.ctx { kind := 1, object := n, aux := 0, digest }
  s.final k stOk (natLE 2 n ++ zeros 2 ++ digest.take 16)

/-- PLAN_LOAD (R205). -/
def execPlanLoad (ctx tag : Nat) (s : State) : Out :=
  done (s.withTaken ctx tag 0x30 fun k s =>
    let a := k.par 16 8
    let right (len : Nat) : Option Nat := (s.rangeStatus k.ctx a len rightRead).map fun _ => stNoRight
    if a % 64 ≠ 0 then s.refuse k stBadParam 16
    else match right 64 with
      | some st => s.refuse k st 16
      | none =>
        match s.poolRead k.ctx a 64 rightRead with
        | (s, .busy) => s.again k
        | (s, .fail st) => s.refuse k st 16
        | (s, .ok h) =>
          let count := fieldAt h 2 2
          match right (64 * if within count 3 4096 then count else 1) with
          | some st => s.refuse k st 16
          | none =>
            let s := if 64 < count then s.deferOnce k else s
            match s.poolRead k.ctx a (64 * (if headerOk h then count else 1)) rightRead with
            | (s, .busy) => s.again k
            | (s, .fail st) => s.refuse k st 16
            | (s, .ok b) =>
              let l := chunks 64 4096 b
              match s.planCheck k.ctx l with
              | .error (st, more) => s.final k st more
              | .ok ts =>
                if ((s.ctx k.ctx).map Ctx.logFull).getD false then s.refuse k stNoSpace
                else match s.freePlan with
                  | some n => s.storePlan k l ts n
                  | none => s.refuse k stNoSpace)

/-! ## PLAN_RUN, PLAN_ARM, PLAN_CANCEL (R208, R209, R216) -/

/-- The plan that a command of its own context names (R206). -/
def State.ownPlan (s : State) (c n : Nat) : Option Plan := (s.plan n).filter fun (p : Plan) => p.ctx == c

/-- An Ember of the plan is fenced or retired. -/
def State.planFenced (s : State) (p : Plan) : Bool := p.tiles.any fun t => !(s.ember t).inService

/-- PLAN_RUN (R208). -/
def execPlanRun (ctx tag : Nat) (s : State) : Out :=
  done (s.withTaken ctx tag 0x31 fun k s =>
    let n := k.par 16 2
    match s.ownPlan k.ctx n with
    | none => s.refuse k stBadParam 16
    | some p =>
      if p.state ≠ .loaded then s.refuse k stInUse 16
      else if s.planFenced p then s.refuse k stFenced 16
      else (s.startRun n p false (some (k.ctx, k.tag)) .running (cuRouter (s.triplex.holder.getD 0)) s.clk.nt).running k)

/-- Arm entries of a slice in use by `key` (R209, R333). -/
def State.armsUsed (s : State) (i key : Nat) : Nat :=
  (s.arms.filter fun a => homeTile (a.word / 64) == i && s.poolKey (a.word / 64) == key).length

/-- The plan's first descriptor is preloaded where an Ember of it has room, of 4 (R193). -/
def State.preload (s : State) (n : Nat) (p : Plan) : State :=
  let armed (j : Nat) : Bool := match (s.plan j).map fun (q : Plan) => q.state with
    | some .armed => true
    | some .armedRunning => true
    | _ => false
  p.tiles.foldl (fun (t : State) i => t.modEmber i fun e =>
    let l := e.preloads.filter fun j => armed j && j != n
    { e with preloads := if l.length < 4 then l ++ [n] else l }) s

/-- PLAN_ARM (R209, R481). -/
def execPlanArm (ctx tag : Nat) (s : State) : Out :=
  done (s.withTaken ctx tag 0x32 fun k s =>
    let n := k.par 16 2
    let a := k.par 20 8
    match s.ownPlan k.ctx n with
    | none => s.refuse k stBadParam 16
    | some p =>
      if 1 < k.par 18 1 then s.refuse k stBadParam 18
      else match s.resolve a with
        | none => s.refuse k stBadParam 20
        | some (rn, dpa) =>
          let i := homeTile (dpa / 64)
          let key := s.poolKey (dpa / 64)
          if a % 8 ≠ 0 ∨ !s.syncArea dpa then s.refuse k stBadParam 20
          else if !s.hasRight k.ctx rn rightSync then s.refuse k stNoRight 20
          else if p.state ≠ .loaded then s.refuse k stInUse 16
          else if s.planFenced p then s.refuse k stFenced 16
          else if s.poolShare i key 32 ≤ s.armsUsed i key then s.refuse k stNoSpace
          else
            let s := { s with arms := s.arms ++ [({ plan := n, ctx := k.ctx, region := rn, word := dpa, rearm := k.par 18 1 == 1 } : Arm)] }
            ((s.modPlan n fun p => { p with state := .armed }).preload n p).final k stOk)

/-- The runs of a plan are told to stop (R216). -/
def State.cancelRuns (s : State) (n : Nat) : State :=
  let mark (r : Run) : Run := if r.plan = n then { r with cancel := true } else r
  { s with embers := Tab.mapVals {} s.embers fun e => { e with run := e.run.map mark, queue := e.queue.map mark } }

/-- PLAN_CANCEL (R216, R482): the arm leaves through its line's queue; the reply follows the last end notice of an active run. -/
def execPlanCancel (ctx tag : Nat) (s : State) : Out :=
  done (s.withTaken ctx tag 0x33 fun k s =>
    let n := k.par 16 2
    match s.ownPlan k.ctx n with
    | none => s.refuse k stBadParam 16
    | some p =>
      if p.state = .cancelling then s.refuse k stInUse 16
      else if s.arms.any (fun a => a.plan == n && (s.lock (a.word / 64)).isSome) then s.again k
      else
        let s := { s with arms := s.arms.filter fun (a : Arm) => a.plan != n }
        let s := s.modPlan n fun p => { p with state := .cancelling, cancelCmd := some (k.ctx, k.tag), unload := bit (k.par 18 1) 0 }
        let s := s.running k
        match p.active with
        | none => s.endCancel n
        | some _ => s.cancelRuns n)

/-! ## SYNC_INIT (R189, R484) -/

/-- One word set to a value, full or empty, its flag cleared; made full, it releases its waiters and fires its arms (R186, R211). -/
def State.initWord (s : State) (w : Nat) (full : Bool) (v : Bytes) : State :=
  if !full then s.setWord w {}
  else if (s.word w).full then s.setWord w { full := true }
  else (s.setWord w {}).filled w v

/-- The words of a line from DPA `lo` to below `hi`. -/
def State.initLine (s : State) (c lo hi : Nat) (full : Bool) (v : Bytes) : State :=
  let n := (hi - lo) / 8
  let b := (List.range n).flatMap fun _ => padTo 8 v
  let s := if n = 8 then (s.homeWrite (lo / 64) b).1 else (s.homePartial (lo / 64) c (placed (lo % 64) b) (spanMask (lo % 64) (8 * n))).1
  (List.range n).foldl (fun t i => t.initWord (lo + 8 * i) full (padTo 8 v)) s

/-- SYNC_INIT (R189): made again while a line of the range has work in its queue. -/
def execSyncInit (ctx tag : Nat) (s : State) : Out :=
  done (s.withTaken ctx tag 0x38 fun k s =>
    let a := k.par 16 8
    let n := k.par 24 4
    match s.resolve a with
    | none => s.refuse k stBadParam 16
    | some (rn, dpa) =>
      if a % 8 ≠ 0 ∨ !s.syncArea dpa then s.refuse k stBadParam 16
      else if !s.hasRight k.ctx rn rightSync then s.refuse k (s.rightStatus k.ctx rn) 16
      else if n = 0 ∨ 4194304 < n ∨ 2 ^ 25 < dpa % 2 ^ 28 + 8 * n then s.refuse k stBadParam 24
      else
        let last := (dpa + 8 * n - 1) / 64
        if s.locks.any (fun p => decide (dpa / 64 ≤ p.1) && decide (p.1 ≤ last)) then s.again k
        else
          let full := bit (k.par 28 1) 0
          let v := natLE 8 (k.par 32 8)
          ((List.range (last - dpa / 64 + 1)).foldl (fun t i =>
            let l := dpa / 64 + i
            t.initLine k.ctx (max dpa (64 * l)) (min (dpa + 8 * n) (64 * l + 64)) full v) s).final k stOk)

end Sys2Proof.Machine
end

