-- ==== Sys2Proof/Machine/Transport.lean ====
section
/-! DEFINITION. The command transport: intake, dispatch, hand-over of replies (chapter 2). -/

set_option Elab.async false

namespace Sys2Proof.Machine

/-! ## Replies (R41-R46) -/

/-- The 32 bytes of a reply (Table 2.4). -/
def replyBytes (b : Bytes) (status byte5 : Nat) (results : Bytes) : Bytes :=
  natLE 4 (pktTag b) ++ natLE 1 status ++ natLE 1 byte5 ++ natLE 2 (pktCtx b) ++ padTo 24 results

/-- Stage `h` writes the reply of packet `b` to its reply address: host memory, a sync word, pool memory of this device, or a
fabric endpoint; a reply that cannot be delivered is dropped and counted (R41, R42, R46). A sync-word reply writes its bytes 8-31 first, and
its `WRITE_FILL` of bytes 0-7 follows: in the line's queue behind them here, after their completion elsewhere. The packet's context field
names the context whose rights and counter the reply uses, also in the BAD_PARAM reply to a packet whose field differs from its page (log
143); a host reply while the CXL link is down is undelivered (log 145). -/
def State.writeReply (s : State) (h : Nat) (b : Bytes) (d : Bytes) : State :=
  let a := pktReply b
  let c := pktCtx b
  let off := a % 2 ^ 48
  let ep := bits a 48 15
  if bit a 63 then
    if s.cxl.busMaster && s.cxl.linkUp then s.emit (.hostWrite off d) else s.undeliver h c
  else if s.endpoint = some ep then
    match s.resolve off with
    | none => s.undeliver h c
    | some (r, dpa) =>
      if !s.hasRight c r rightWrite then s.undeliver h c
      else
        let part (o : Nat) (x : Bytes) : Req :=
          { op := .wrPart, holder := c, point := replyPoint h, dpa := dpa + o, region := r, aux := x.length, data := placed ((dpa + o) % 64) x }
        if pktSync b then
          if !s.hasRight c r rightSync || !s.syncArea dpa then s.undeliver h c
          else
            let t := s.nextTxn
            let s := { s with nextTxn := (t + 2) % 2 ^ 32,
                              openReplies := s.openReplies ++ [({ ctx := c, stage := h, txns := [t, (t + 1) % 2 ^ 32] } : OpenReply)] }
            let s := s.internal { part 8 (d.drop 8) with txn := t }
            s.internal { op := .writeFill, holder := c, point := replyPoint h, dpa, region := r, data := d.take 8, txn := (t + 1) % 2 ^ 32 }
        else s.internal (part 0 d)
  else
    let k : Packet := { opcode := msgCode .wrPart, dst := ep, ctx := c, addr := off, aux := 32, payload := placed (off % 64) d }
    let first := if pktSync b then { k with addr := off + 8, aux := 24, payload := placed ((off + 8) % 64) (d.drop 8) } else k
    let fill := if pktSync b then some { k with opcode := msgCode .writeFill, aux := 0, payload := padTo 64 (d.take 8) } else none
    match s.request first none (some h) with
    | (s, none) =>
      { s with openReplies := s.openReplies ++ [({ ctx := c, stage := h, txns := [(s.nextTxn + 2 ^ 32 - 1) % 2 ^ 32], fill } : OpenReply)] }
    | (s, some _) => s.undeliver h c

/-- An intake reply: written only where the reply address meets R33, else dropped and counted (R35). -/
def State.intakeReply (s : State) (h : Nat) (b : Bytes) (status byte5 : Nat) (results : Bytes) : State :=
  if replyAddrOk b then s.writeReply h b (replyBytes b status byte5 results) else s.dropReply h

/-- An intake refusal with the index of the byte at fault (R44). -/
def State.intakeRefuse (s : State) (h : Nat) (b : Bytes) (status byte : Nat) : State :=
  s.intakeReply h b status (pktOpcode b) (natLE 1 byte)

/-- Commands of a context in flight (R37). -/
def State.inFlight (s : State) (c : Nat) : Nat := (s.cmds.filter (·.ctx == c)).length

/-- A context's duplicate window (R48). -/
def State.window (s : State) (c : Nat) : List WinEntry := Tab.get [] s.windows c

/-- A packet whose check does not match: the reply needs the context of its page (step 3, R35). -/
def State.badCheck (s : State) (h c : Nat) (b : Bytes) : State :=
  let s := s.modStage h fun x => { x with checkFailures := satInc 32 x.checkFailures }
  if pktCtx b = c then s.intakeRefuse h b stBadCheck 0xFF else s.dropReply h

/-- A command accepted: its tag enters its context's window, its packet waits in the intake queue. -/
def State.acceptCmd (s : State) (h c : Nat) (via : Sender) (b : Bytes) : State :=
  let w := s.window c ++ [({ tag := pktTag b } : WinEntry)]
  let s := { s with windows := Tab.set [] s.windows c (if w.length > 256 then w.drop 1 else w),
                    cmds := s.cmds ++ [({ ctx := c, tag := pktTag b, via := via, bytes := b, acceptedAt := s.clk.nt, order := s.nextOrder } : Cmd)],
                    nextOrder := s.nextOrder + 1 }
  let s := s.modStage h fun x => { x with accepted := satInc 48 x.accepted }
  s.modCtx c fun x => { x with accepted := x.accepted + 1 }

/-- Steps 3 to 10 of Table 2.3 (a field at fault is named by its first byte, log 144) on a 64-byte packet at the page of context `c`, and acceptance (R34, R35, R48, R49, R409). -/
def State.intakeChecks (s : State) (h c : Nat) (via : Sender) (b : Bytes) : State :=
  if leNat (b.drop 60) ≠ (crc32c (b.take 60)).toNat then s.badCheck h c b
  else if pktCtx b ≠ c then s.intakeRefuse h b stBadParam 2
  else if !s.ctxLive c then s.intakeRefuse h b stNoContext 2
  else if 8 ≤ pktFlags b then s.intakeRefuse h b stBadParam 1
  else if 4096 ≤ pktCtxField b then s.intakeRefuse h b stBadParam 3
  else if !replyAddrOk b then s.intakeRefuse h b stBadParam 8
  else if !s.ready then s.intakeReply h b stBusy (pktOpcode b) []
  else match (s.window c).find? (·.tag == pktTag b) with
    | some w =>
      match w.final with
      | some f => s.intakeReply h b stDuplicate f.status f.results
      | none => s.intakeReply h b stBusy (pktOpcode b) []
    | none =>
      if 32 ≤ s.inFlight c then
        (s.modStage h fun x => { x with busyReplies := satInc 32 x.busyReplies }).intakeReply h b stBusy (pktOpcode b) []
      else if !opcodes.contains (pktOpcode b) then s.intakeRefuse h b stBadOpcode 0
      else if privileged.contains (pktOpcode b) && !(c == 0 && via == .bar2) then s.intakeRefuse h b stNoRight 0
      else s.acceptCmd h c via b

/-- A write discarded at step 1 or 2 (R34, R58). -/
def State.discardWrite (s : State) (h : Nat) (shape : Bool) : State :=
  (s.modStage h fun x => if shape then { x with shapeDiscards := satInc 32 x.shapeDiscards }
                         else { x with senderDiscards := satInc 32 x.senderDiscards }).rise (srcCmdDiscard h)

/-- A write reaches the command window: the checks of Table 2.3 in order, and CMP to a fabric sender whose write passes steps 1
and 2 (R27-R35, R537). An armed stage-parity fault discards it at step 1 (R513). -/
def State.intake (s : State) (via : Sender) (offset : Nat) (b : Bytes) : State :=
  let c := offset / 4096 % 4096
  let h := s.stageOf c
  if !(s.stage h).alive || s.boot.inReset || (via == .bar2 && !s.cxl.linkUp) then s
  else if s.diag.injArm && s.diag.injKind == 2 && s.diag.injUnit == h then
    (({ s with diag := { s.diag with injArm := false } }).injected 0x21 h).discardWrite h true
  else if b.length ≠ 64 ∨ offset % 64 ≠ 0 then s.discardWrite h true
  else match via with
    | .bar2 => s.intakeChecks h c via b
    | .fabric ep txn sent =>
      if c == 0 || !((s.ctx c).map (·.hasSender ep)).getD false then s.discardWrite h false
      else
        let s := (s.source { opcode := msgCode .cmp, dst := ep, ctx := sent, txn, addr := 0xFF0000000000 + offset }).1
        s.intakeChecks h c via b

/-- COMMAND_WRITE (R34). -/
def execCommandWrite (via : Sender) (offset : Nat) (bytes : Bytes) (s : State) : Out :=
  done (if offset < 2 ^ 24 then s.intake via offset bytes else s)

/-! ## Dispatch (R36, R40, R56, R320, R459) -/

/-- The first waiting command of a context in arrival order, unless a fence holds it (R36). -/
def State.firstWaiting (s : State) (c : Nat) : Option Cmd :=
  match s.cmds.find? fun k => k.ctx == c && k.phase == .waiting with
  | some k =>
    if pktFence k.bytes && s.cmds.any (fun x => x.ctx == c && decide (x.order < k.order)) then none else some k
  | none => none

/-- A command that a fence holds past the first-reply bound gives DEFERRED (R36, R54). -/
def State.deferHeld (s : State) : State :=
  (s.cmds.filter fun k => k.phase == .waiting && pktFence k.bytes && s.cmds.any fun x => x.ctx == k.ctx && decide (x.order < k.order)).foldl
    (fun t k => t.again k) s

/-- The context whose turn it is: round-robin after the last one served, among those the control list serves (R40, R320). -/
def State.nextCtx (s : State) : Option Cmd :=
  let cs := (s.cmds.map (·.ctx)).eraseDups
  let turn (c : Nat) : Nat := (c + 4095 - s.triplex.lastCtx) % 4096
  let ready := (cs.filterMap fun c => if s.controlServes c then (s.firstWaiting c) else none)
  ready.foldl (fun (b : Option Cmd) k =>
    match b with
    | some x => if turn k.ctx < turn x.ctx then some k else b
    | none => some k) none

/-- What every opcode checks first: reserved bytes (R11), the limits on a confidential context's page (R343), data addresses
(R456). The refusal and its byte. -/
def State.commonChecks (s : State) (k : Cmd) : Option (Nat × Nat) :=
  match reservedAt k.bytes with
  | some i => some (stBadParam, i)
  | none =>
    if s.ctxConf k.ctx && k.byHost && !confAllowed.contains (pktOpcode k.bytes) then some (stConfidential, 0xFF)
    else match badDataAddr k.bytes k.byHost with
      | some o => some (stBadParam, o)
      | none =>
        match (poolAddrs (pktOpcode k.bytes)).find? fun o => fieldAt k.bytes o 8 / 2 ^ 48 != 0 with
        | some o => if pktOpcode k.bytes = 0x18 ∧ fieldAt k.bytes 32 1 = 1 then none else some (stBadParam, o)
        | none => none

/-- COMMAND_DISPATCH (R36): the control complex takes the next command. In a switch-over gap none is taken, so the clock runs to
the gap's end (R369). -/
def execCommandDispatch (s : State) : Out :=
  done (if !s.complexActs then s
    else
      let s := (s.untilElapsed s.triplex.gapEnd).deferHeld
      match s.nextCtx with
      | none => s
      | some k =>
        let s := { s with triplex := { s.triplex with lastCtx := k.ctx } }
        let d := alwaysDeferred k.bytes
        let s := s.modCmd k.ctx k.tag fun x => { x with phase := .taken, deferred := d || x.deferred }
        let s := if d && !k.deferred then s.hand k.ctx k.tag stDeferred [] false else s
        match s.commonChecks k with
        | some (st, i) => s.refuse k st i
        | none => s)

/-! ## Hand-over of replies (R55, R363, R368) -/

/-- Claim `c` is higher than claim `h` (R368). -/
def claimHigher (c h : Nat) : Bool :=
  let d := (c + 65536 - h % 65536) % 65536
  decide (1 ≤ d) && decide (d ≤ 32767)

/-- The stage forwards a reply: a final one is recorded once in the duplicate window and ends the command's flight; then the
reply is written as its flags ask (R42, R43, R45, R48, R55). -/
def State.handOver (s : State) (h : Nat) (o : CuOut) : State :=
  match s.cmd o.ctx o.tag with
  | none => s
  | some k =>
    let b := k.bytes
    let quiet := pktNoReply b && (o.status == stOk || o.status == stDeferred)
    let d := replyBytes b o.status (pktOpcode b) o.results
    if o.isFinal then
      match (s.window o.ctx).find? (·.tag == o.tag) with
      | some { final := some _, .. } => s
      | _ =>
        let s := { s with windows := Tab.modify [] s.windows o.ctx fun w =>
                            w.map fun e => if e.tag = o.tag then { e with final := some { status := o.status, results := o.results } } else e,
                          cmds := s.cmds.filter fun x => !(x.ctx == o.ctx && x.tag == o.tag) }
        if quiet then s else s.writeReply h b d
    else if quiet || pktSync b then s
    else s.writeReply h b d

/-- CU_OUTPUT (R368): an output reaches its stage, which forwards it under the highest claim it has seen, adopts a higher one, or
rejects it with a stale-claim notice. An output not yet released, and any output in a switch-over gap, waits. -/
def execCuOutput (n : Nat) (s : State) : Out :=
  done (match s.cuOut[n]? with
    | none => s
    | some o =>
      if !o.released then s
      else
        let s := s.untilElapsed s.triplex.gapEnd
        let h := s.stageOf o.ctx
        let seen := (s.stage h).claimSeen
        let s := { s with cuOut := s.cuOut.eraseIdx n }
        if o.claim = seen % 65536 then s.handOver h o
        else if claimHigher o.claim seen then (s.modStage h fun x => { x with claimSeen := o.claim }).handOver h o
        else { s with triplex := { s.triplex with notices := s.triplex.notices ++ [(o.unit, o.claim)] } })

/-- REPLY_WRITE_ERROR (R46): a write of the `n`-th reply on its way to a fabric endpoint has received an error completion. -/
def execReplyWriteError (n : Nat) (s : State) : Out :=
  done (match s.openReplies[n]? with
    | none => s
    | some o =>
      match s.inbox.find? fun (p : Packet) => p.opcode == msgCode .err && o.txns.contains p.txn with
      | none => s
      | some p => ({ s with inbox := s.inbox.erase p }).replyFailed p.txn)

end Sys2Proof.Machine
end

