-- ==== Sys2Proof/Machine/FabricRows.lean ====
section
/-! DEFINITION. The commands of the fabric ports: link states, cells, acks and replays, credits, packets on their way in, requests of
this device, the mesh (chapters 9 and 14). -/

set_option Elab.async false

namespace Sys2Proof.Machine

/-! ## Link states (Table 9.2) -/

/-- Why a port must be in `hold` now: 1 a partial reset of its Hearth, 2 a supply episode, 0 no cause (R274). -/
def State.holdWanted (s : State) (p : Nat) : Nat :=
  if (s.boot.hreset.map (·.hearth)) == some (portHearth p) then 1 else if s.boot.episode.isSome then 2 else 0

/-- A port becomes `active`, or enters `hold` at once while its cause lasts. -/
def State.portUp (s : State) (p : Nat) : State :=
  let c := s.holdWanted p
  (s.modPort p fun q => { q with state := if c = 0 then .active else .hold, holdCause := c, resetting := false, enteredAt := s.clk.elapsed,
                                 lastCellAt := s.clk.elapsed }).pump p

/-- A port may leave `down` (R417, R418, R492, R23). -/
def State.portUsable (s : State) (p : Nat) : Bool :=
  s.governing.installed && topoExpected (s.topo p) && !(s.port p).disable && !(s.port p).retired && !s.hearthLost (portHearth p)

/-- DETECT_RETRY (R267). -/
def execDetectRetry (p : Nat) (s : State) : Out :=
  done (onUnit p 32 (fun s =>
    if (s.port p).state == .down && s.portUsable p then
      s.atElapsed (s.port p).retryAt fun s => s.modPort p fun q => { q with state := .detect, enteredAt := s.clk.elapsed }
    else s) s)

/-! ## Training (R265, R268) -/

/-- The physical lanes of a port that may be used: neither in the fuse map nor dropped. -/
def State.usableLanes (s : State) (p : Nat) : List Nat :=
  (List.range 5).filter fun l => !(Config.badLanes p).contains l && !(l == (s.port p).dropLane && decide (l < 4))

/-- The physical lanes that a port receives without fault, before its partner's word. -/
def State.goodLanes (s : State) (p : Nat) : List Nat := (s.usableLanes p).filter (s.port p).rxLanes.contains

/-- The lanes in logical order: L0-L3, with LS in the place of the first that is left out (R265). -/
def lanesInOrder (good : List Nat) : List Nat :=
  let gone := (List.range 4).find? fun l => !good.contains l
  (List.range 4).filterMap fun l => if good.contains l then some l else if good.contains 4 && some l == gone then some 4 else none

/-- The widest width that `n` lanes allow. -/
def widthOf (n : Nat) : Nat := if 4 ≤ n then 3 else if 2 ≤ n then 2 else if n = 1 then 1 else 0

/-- What a port states in its training cell on a lane (R268, R419; log 142). -/
def State.trainBody (s : State) (p purpose lane : Nat) : Bytes :=
  let q := s.port p
  natLE 1 purpose ++ natLE 1 lane ++ natLE 1 q.maxSpeed ++ natLE 1 (min q.maxWidth q.narrow) ++ natLE 1 ((s.goodLanes p).map (2 ^ ·)).sum ++
    natLE 2 (s.endpoint.getD 0) ++ natLE 1 p

/-- A port sends training cells on every lane that it may use (R268, R270). -/
def State.sendTrain (s : State) (p purpose : Nat) : State :=
  (s.usableLanes p).foldl (fun t l => t.sendControl p 5 (t.trainBody p purpose l)) s

/-- LINK_SIGNAL_DETECT (R267): a signal on at least one lane within 1 ms of entry, and training cells leave; or back to `down` for 10 ms. -/
def execLinkSignalDetect (p : Nat) (lanes : List Nat) (s : State) : Out :=
  done (onUnit p 32 (fun s =>
    let q := s.port p
    if q.state != .detect then s
    else if lanes != [] && decide (s.clk.elapsed ≤ q.enteredAt + 1000000) then
      (s.modPort p fun q => { q with state := .train, enteredAt := s.clk.elapsed, partnerSeen := false, rxLanes := lanes }).sendTrain p 1
    else s.atElapsed (q.enteredAt + 1000000) fun s => s.portDown p 10000000) s)

/-- The receive buffers of Table 9.7 are advertised: `CREDIT` cells of at most 255 units, until none is owed (R275). -/
def State.advertise (s : State) (p : Nat) : State :=
  (List.range 23).foldl (fun t _ => if (t.port p).owedNow.1 < 3 then t.sendControl p 2 [] else t)
    (s.modPort p fun q => { q with owed := [2048, 2048, 1024] })

/-- The identity check of `check` (R419): a partner that differs takes the port down; a management-class port is ready. -/
def State.topologyCheck (s : State) (p : Nat) : State :=
  let q := s.port p
  let w := s.topo p
  if q.partner.endpoint = topoPartner w ∧ q.partner.port = topoPort w then (if q.mgmt then s.portUp p else s)
  else (s.portDown p 0).log 0x0503 none none (natLE 1 p ++ natLE 2 q.partner.endpoint ++ natLE 1 q.partner.port)

/-- Training ends with both ends' training content (R268): the lowest speed asked for, the widest width both ask for and the lanes that
both receive allow; the buffers are advertised, and the partner's credits are yet to come (R275). -/
def State.trained (s : State) (p : Nat) (x : TrainInfo) : State :=
  let q := s.port p
  let speed := max q.maxSpeed (max 1 x.speed)
  let lanes := lanesInOrder ((s.goodLanes p).filter x.lanes.contains)
  let w := min (min (min q.maxWidth q.narrow) x.width) (widthOf lanes.length)
  if w = 0 ∨ 3 < speed then s.portDown p 0
  else
    (s.modPort p fun q => { q with state := .check, enteredAt := s.clk.elapsed, speed, width := w, laneMap := lanes.take (widthLanes w),
                                   partner := x, partnerSeen := true, txSeq := 0, rxNext := 0, credits := [0, 0, 0] }).advertise p |>.topologyCheck p

/-- TRAINING_END (R268): `received`: the lanes on which this end has received the partner's training cells without fault (R265). -/
def execTrainingEnd (p : Nat) (received : List Nat) (partner : Option TrainInfo) (s : State) : Out :=
  done (onUnit p 32 (fun s =>
    let q := s.port p
    if q.state != .train then s
    else match partner with
      | some x =>
        if s.clk.elapsed ≤ q.enteredAt + 25000000 then (s.modPort p fun q => { q with rxLanes := received }).trained p x else s.portDown p 0
      | none => s.atElapsed (q.enteredAt + 25000000) fun s => s.portDown p 0) s)

/-- A retrain starts and is announced (R270). -/
def State.startRetrain (s : State) (p : Nat) : State :=
  if (s.port p).state == .active then
    ((s.modPort p fun q => { q with state := .retrain, enteredAt := s.clk.elapsed }).sendTrain p 2).pump p
  else s

/-- A full link reset (R269): the link goes down and its training cells are marked so. It runs until the port is `active` again or its
training fails; a port that may not leave `down` has none (R12). -/
def State.fullReset (s : State) (p : Nat) : State :=
  (if (s.port p).state.takes then (s.sendTrain p 1).linkDown p else s.linkDown p).modPort p fun q => { q with resetting := s.portUsable p }

/-- A cell of the partner has passed its CRC (R281). -/
def State.heard (s : State) (p : Nat) : State := s.modPort p fun q => { q with lastCellAt := s.clk.elapsed }

/-- TRAIN (R269, R270). -/
def execTrain (p purpose : Nat) (partner : TrainInfo) (s : State) : Out :=
  done (onUnit p 32 (fun s =>
    let s := if (s.port p).state.takes then s.heard p else s
    match (s.port p).state with
    | .train => s.modPort p fun q => { q with partner, partnerSeen := true }
    | .active => if purpose = 1 then s.fullReset p else if purpose = 2 then s.startRetrain p else s
    | .hold | .retrain => if purpose = 1 then s.fullReset p else s
    | _ => s) s)

/-- A lane passes the error-rate test (R420). -/
def lanePasses (l : LaneResult) : Bool :=
  decide (1000 * l.corrected ≤ l.symbols) && decide (l.worstCodeword ≤ 8) && l.uncorrectable == 0

/-- The lane with the highest symbol error ratio. -/
def worstLane (ls : List LaneResult) : Option LaneResult :=
  ls.foldl (fun (b : Option LaneResult) l =>
    match b with
    | some x => if x.corrected * l.symbols < l.corrected * x.symbols then some l else b
    | none => some l) none

/-- A data-class port has failed its test three times in a row (R421). -/
def State.dropWorst (s : State) (p : Nat) (ls : List LaneResult) : State :=
  let q := s.port p
  let lane := ((worstLane ls).map (·.lane)).getD 0
  let spare := q.laneMap.contains 4
  let w := if spare then max 1 (q.width - 1) else q.width
  (s.modPort p fun q => { q with ertFails := 0, dropLane := if spare then q.dropLane else lane, narrow := if spare then w else q.narrow }).log 0x0504
    none none (natLE 1 p ++ natLE 1 lane ++ natLE 1 w)

/-- Corrected symbols and uncorrectable codewords of a port (R301, Table 13.9). -/
def State.countFec (s : State) (p corrected uncorrectable : Nat) : State :=
  let s := s.modPort p fun q => { q with fecCorr := satAdd 32 q.fecCorr corrected, fecCorrSinceReset := q.fecCorrSinceReset + corrected,
                                         fecUncorr := satAdd 16 q.fecUncorr uncorrectable,
                                         fecUncorrSinceReset := q.fecUncorrSinceReset + uncorrectable }
  (List.range uncorrectable).foldl (fun t _ => t.rise (srcPortIntegrity p)) s

/-- ERROR_RATE_TEST_END (R420, R421): the results of the lanes in use decide. -/
def execErrorRateTestEnd (p : Nat) (lanes : List LaneResult) (s : State) : Out :=
  done (onUnit p 32 (fun s =>
    let q := s.port p
    if q.state != .check || q.mgmt then s
    else s.atElapsed (q.enteredAt + 10000000) fun s =>
      let ls := lanes.filter fun l => q.laneMap.contains l.lane
      let s := s.countFec p (ls.map (·.corrected)).sum (ls.map (·.uncorrectable)).sum
      if ls.all lanePasses then (s.modPort p fun q => { q with ertFails := 0 }).portUp p
      else
        let s := s.modPort p fun q => { q with ertFails := q.ertFails + 1 }
        let s := if 3 ≤ (s.port p).ertFails then s.dropWorst p ls else s
        s.portDown p 0) s)

/-- RETRAIN_THRESHOLD (R270): `corrected` symbols of one lane in 1 ms. -/
def execRetrainThreshold (p lane corrected : Nat) (s : State) : Out :=
  done (onUnit p 32 (fun s =>
    let q := s.port p
    if q.state == .active && q.laneMap.contains lane && q.retrainThresh != 0 && decide (q.retrainThresh < corrected) then
      (s.countFec p corrected 0).startRetrain p
    else s) s)

/-- RETRAIN_END (R267): within 1 ms, with the queues kept. -/
def execRetrainEnd (p : Nat) (s : State) : Out :=
  done (onUnit p 32 (fun s =>
    if (s.port p).state == .retrain && decide (s.clk.elapsed ≤ (s.port p).enteredAt + 1000000) then s.portUp p else s) s)

/-- RETRAIN_TIMEOUT (R281). -/
def execRetrainTimeout (p : Nat) (s : State) : Out :=
  done (onUnit p 32 (fun s =>
    if (s.port p).state == .retrain then s.atElapsed ((s.port p).enteredAt + 1000000) fun s => s.linkDown p else s) s)

/-- LINK_SILENCE_TIMEOUT (R281). -/
def execLinkSilenceTimeout (p : Nat) (s : State) : Out :=
  done (onUnit p 32 (fun s =>
    if (s.port p).state.takes then s.atElapsed ((s.port p).lastCellAt + 10000) fun s => s.linkDown p else s) s)

/-! ## Cells (R272-R280) -/

/-- Credits come back for a channel (R275). -/
def State.credit (s : State) (p vc units : Nat) : State :=
  if vc < 3 then s.modPort p fun q => { q with credits := q.credits.modify vc (· + units) } else s

/-- The receive buffer of a cell is free again; its credits are owed to the partner (R275). -/
def State.freed (s : State) (p : Nat) (k : Packet) : State :=
  s.modPort p fun q => { q with owed := q.owed.modify (codeVc k.opcode) (· + cellCost k.opcode) }

/-- A cell of the replay buffer leaves again (R280). -/
def State.resendCell (s : State) (p seq : Nat) (byAck : Bool) : State :=
  match (s.port p).replay.find? fun c => c.cell.seq == seq with
  | none => s
  | some c =>
    (s.modPort p fun q => { q with
      replays := satInc 32 q.replays, replaysSinceReset := q.replaysSinceReset + 1, lastSentAt := s.clk.elapsed,
      replay := q.replay.map fun x => if x.cell.seq = seq then { x with sentAt := s.clk.timer, ackResentAt := if byAck then some s.clk.timer else x.ackResentAt }
                                      else x }).transmit p (s.ctxConf c.cell.pkt.ctx) (cellWire c.cell)

/-- A port sends a sequenced cell of its replay buffer in its present state: in `hold` only a `PENDING` (R274). -/
def Port.mayResend (q : Port) (c : SentCell) : Bool := q.state == .active || (q.state == .hold && c.cell.pkt.opcode == msgCode .pending)

/-- An ack acts on the transmit side (R280): numbers compare modulo 4,096. -/
def State.acked (s : State) (p cum bitmap : Nat) : State :=
  let ahead (n : Nat) : Nat := (n + 4096 - (cum + 1) % 4096) % 4096
  let free (c : SentCell) : Bool := decide (2048 ≤ ahead c.cell.seq) || (decide (ahead c.cell.seq < 64) && bit bitmap (ahead c.cell.seq))
  let s := s.modPort p fun q => { q with replay := q.replay.filter fun c => !free c }
  let gap (c : SentCell) : Bool := decide (ahead c.cell.seq < 64) && decide (0 < bitmap / 2 ^ (ahead c.cell.seq + 1)) &&
    (match c.ackResentAt with | some t => decide (t + 500 ≤ s.clk.timer) | none => true)
  let again := ((s.port p).replay.filter fun c => gap c && (s.port p).mayResend c).map fun c => c.cell.seq
  (again.foldl (fun t n => t.resendCell p n true) s).pump p

/-- The colour of a cell at a policer and the buckets after it (R324, RFC 2698): 0 green, 1 yellow, 2 red. -/
def Policer.colour (h : Policer) (k : Packet) : Nat × Policer :=
  let b := 1024 * ((if codePayload k.opcode then 128 else 32) + h.overhead)
  if h.tp < b then (2, h)
  else if h.tc < b ∨ (h.aware ∧ k.resend) then (1, { h with tp := h.tp - b })
  else (0, { h with tp := h.tp - b, tc := h.tc - b })

/-- Credit units that a context's requests hold in a port's receive buffer. -/
def Port.held (q : Port) (c : Nat) : Nat := ((q.rxQ.filter fun k => k.ctx == c && codeVc k.opcode == 0).map fun k => cellCost k.opcode).sum

/-- An arriving request meets its context's policer (R325): admitted or not. -/
def State.police (s : State) (p : Nat) (k : Packet) : State × Bool :=
  let l := Tab.get [] s.sched.policers p
  match (if codeVc k.opcode = 0 then l.findIdx? (fun h => h.ctx == k.ctx && h.cir != 0) else none) with
  | none => (s, true)
  | some i =>
    let (c, h) := (l.getD i {}).colour k
    let s := { s with sched := { s.sched with policers := Tab.set [] s.sched.policers p (l.set i h) } }
    let ok := c == 0 || (c == 1 && decide ((s.port p).held k.ctx < 1024))
    if s.ctxConf k.ctx then (s, ok)
    else (s.modPort p fun q =>
      if c = 0 then { q with polGreen := satInc 32 q.polGreen }
      else if ok then q
      else if c = 1 then { q with polYellow := satInc 32 q.polYellow }
      else { q with polRed := satInc 32 q.polRed }, ok)

/-- A packet counted in FAB_ROUTE_DISCARDS. -/
def State.routeDiscard (s : State) (p : Nat) : State := s.modPort p fun q => { q with routeDiscards := satInc 16 q.routeDiscards }

/-- A packet delivered by the link, in order: discarded before the first route switch (R422), policed, or queued. -/
def State.packetIn (s : State) (p : Nat) (k : Packet) : State :=
  if !s.routeSwitched then (s.routeDiscard p).freed p k
  else match s.police p k with
    | (s, true) => s.modPort p fun q => { q with rxQ := q.rxQ ++ [k] }
    | (s, false) => s.freed p k

/-- Held cells that now follow in order are delivered, at most `n`. -/
def State.deliverHeld (s : State) (p : Nat) : Nat → State
  | 0 => s
  | n + 1 =>
    let q := s.port p
    match q.reorder.find? fun c => c.seq == q.rxNext with
    | none => s
    | some c =>
      State.deliverHeld ((s.modPort p fun q => { q with reorder := q.reorder.erase c, rxNext := (q.rxNext + 1) % 4096 }).packetIn p c.pkt) p n

/-- A sequenced cell that has passed its checks (R278). -/
def State.cellIn (s : State) (p : Nat) (c : Cell) : State :=
  let conf := s.ctxConf c.pkt.ctx
  let s := (s.heard p).modPort p fun q => { q with rxCells := if conf then q.rxCells else satInc 32 q.rxCells, rxSinceReset := q.rxSinceReset + 1 }
  let s := s.modCtx c.pkt.ctx fun x => { x with cellsReceived := x.cellsReceived + 1 }
  let s := if c.ackValid then s.acked p c.ackCum c.ackBitmap else s
  let q := s.port p
  let ahead := (c.seq + 4096 - q.rxNext) % 4096
  let s := s.modPort p fun q => { q with ackDue := true }
  if 2048 ≤ ahead ∨ q.reorder.any (fun x => x.seq == c.seq) then s.modPort p fun q => { q with dupDiscards := satInc 32 q.dupDiscards }
  else
    let s := s.credit p c.creditVc c.credits
    let s := if ahead = 0 then
        ((s.modPort p fun q => { q with rxNext := (q.rxNext + 1) % 4096 }).packetIn p c.pkt).deliverHeld p (q.reorder.length)
      else s.modPort p fun q => { q with reorder := q.reorder ++ [c] }
    s.pump p

/-- A cell whose link CRC fails (R273). -/
def State.crcFail (s : State) (p : Nat) : State :=
  s.modPort p fun q => { q with crcErrors := satInc 32 q.crcErrors, crcSinceReset := q.crcSinceReset + 1 }

/-- A logical lane carries cells: L0-L3 within the port's width, LS (4) when it serves a lane. -/
def Port.usesLane (q : Port) (lane : Nat) : Bool := if lane < 4 then decide (lane < widthLanes q.width) else lane == 4 && q.laneMap.contains 4

/-- SEQUENCED_CELL (R278), with the faults of FAB_INJ_CTRL kind 1 and ERR_INJ_CTRL kind 11 that meet it (R302, Table 17.13). -/
def execSequencedCell (p : Nat) (cell : Cell) (s : State) : Out :=
  done (onUnit p 32 (fun s =>
    let q := s.port p
    if !(q.state == .active || q.state == .hold) then s
    else if q.injArm && q.injKind == 1 && q.usesLane q.injLane && !s.ctxConf cell.pkt.ctx then
      let s := (s.modPort p fun q => { q with injArm := false }).injected 0x0C p
      if 16 ≤ q.injSymbols then (s.countFec p 0 1).crcFail p else (s.countFec p q.injSymbols 0).cellIn p cell
    else if s.diag.injArm && s.diag.injKind == 11 && s.diag.injUnit == p && !s.ctxConf cell.pkt.ctx then
      ({ s with diag := { s.diag with injArm := false } }).injected 0x2A p
    else s.cellIn p cell) s)

/-- CELL_CRC_FAIL (R273): a received cell whose link CRC does not hold. -/
def execCellCrcFail (p : Nat) (raw : Bytes) (s : State) : Out :=
  done (onUnit p 32 (fun s => if ((s.port p).state.takes || (s.port p).state == .check) && !linkCrcHolds raw then s.crcFail p else s) s)

/-- ACK (R280). -/
def execAck (p cum bitmap : Nat) (s : State) : Out :=
  done (onUnit p 32 (fun s => if (s.port p).state == .active || (s.port p).state == .hold then (s.heard p).acked p (cum % 4096) bitmap else s) s)

/-- ACK_SEND (R279). -/
def execAckSend (p : Nat) (s : State) : Out :=
  done (onUnit p 32 (fun s =>
    let q := s.port p
    if q.ackDue && (q.state == .active || q.state == .hold) then
      let a := q.ackOf
      (s.modPort p fun q => { q with ackDue := false }).sendControl p 1 (zeros 1 ++ natLE 2 (a.1 + 4096) ++ natLE 8 a.2)
    else s) s)

/-- REPLAY_TIMER (R280): 2 us after the cell was last sent. A port in `hold` resends only `PENDING` (R274). -/
def execReplayTimer (p seq : Nat) (s : State) : Out :=
  done (onUnit p 32 (fun s =>
    let q := s.port p
    match q.replay.find? fun c => c.cell.seq == seq with
    | none => s
    | some c =>
      if q.mayResend c then
        s.atTimer (c.sentAt + 2000) fun s => s.resendCell p seq false
      else s) s)

/-- CREDIT (R275). -/
def execCredit (p vc units : Nat) (s : State) : Out :=
  done (onUnit p 32 (fun s =>
    if (s.port p).state == .active || (s.port p).state == .hold || (s.port p).state == .check then ((s.heard p).credit p vc units).pump p else s) s)

/-- HOLD (R274): a received HOLD cell keeps the link up. -/
def execHold (p cause : Nat) (s : State) : Out :=
  done (onUnit p 32 (fun s => if ((s.port p).state.takes) && (cause == 1 || cause == 2) then s.heard p else s) s)

/-- IDLE (R271): sent 1 us after the last cell, HOLD in its place in `hold` (R274); one `received` keeps the link up (R281). -/
def execIdle (p : Nat) (received : Bool) (s : State) : Out :=
  done (onUnit p 32 (fun s =>
    let q := s.port p
    if received then (if q.state.takes then s.heard p else s)
    else match q.state with
    | .active => s.atElapsed (q.lastSentAt + 1000) fun s => s.sendControl p 6 []
    | .hold => (s.untilElapsed (q.lastSentAt + 1000)).sendControl p 3 (natLE 1 q.holdCause)
    | _ => s) s)

/-! ## Packets (R285, R291, R298, R299) -/

/-- A packet in transit from port `p` to port `q` enters the mesh, in the order of travel of its route entry (R293); to the port it came
from it needs no path. -/
def State.transit (s : State) (p q : Nat) (k : Packet) : State :=
  if p = q then s.queueOut q k
  else
    let w := Tab.get 0 (s.routes.getD (b2n k.routeEpoch) {}).entries k.dst
    { s with flits := s.flits ++ [({ router := portRouter p, input := 5, vc := codeVc k.opcode, yx := reMeshOrder w, dst := portRouter q, ctx := k.ctx,
                                     load := .packet q k } : Flit)] }

/-- PACKET_ROUTE (R291): the oldest packet of a port's receive queue, by the version its bit names. -/
def execPacketRoute (p : Nat) (s : State) : Out :=
  done (onUnit p 32 (fun s =>
    match (s.port p).rxQ with
    | [] => s
    | k :: rest =>
      let s := s.modPort p fun q => { q with rxQ := rest }
      match s.way (b2n k.routeEpoch) k.dst k.ctx with
      | .here => s.modPort p fun q => { q with deliverQ := q.deliverQ ++ [k] }
      | .out q => if 15 ≤ k.hops then (s.routeDiscard p).freed p k else (s.freed p k).transit p q { k with hops := k.hops + 1 }
      | _ => (s.routeDiscard p).freed p k) s)

/-- An end-to-end discard: counted and raised (R285, Table 13.9). -/
def State.e2eDiscard (s : State) (p : Nat) : State :=
  (s.modPort p fun q => { q with e2eDiscards := satInc 16 q.e2eDiscards }).rise (srcPortIntegrity p)

/-- The payload of an encrypted packet under a key: the tag must hold. The counter of its IV is the sender's; no field of the packet
carries it (log 50). -/
def openPayload (k : Packet) (key : Bytes) : Option Bytes :=
  let n := Config.peerCounter k.src k.txn
  let iv := packetIv k.src k.ctx (n / 2 ^ 59) n
  let plain := (Config.sm4Gcm key iv (packetHeader k) k.payload).1
  if (Config.sm4Gcm key iv (packetHeader k) plain).2 = padTo 16 k.tag then some plain else none

/-- The packet as its destination takes it: decrypted where it must be (R298, R299), also under a key replaced less than 100 us
ago (R353). None: discarded. -/
def State.unsealed (s : State) (p : Nat) (k : Packet) : State × Option Packet :=
  if !(s.ctxConf k.ctx && codePayload k.opcode) then (s, some k)
  else if !k.encrypted then (s, none)
  else
    let keys := match s.sessionKey k.ctx k.src with
      | some x => x.key :: x.olds.map fun (o : Bytes × Nat) => o.1
      | none => []
    match keys.findSome? (openPayload k) with
    | some d => (s, some { k with payload := d })
    | none =>
      (((s.modPort p fun q => { q with tagFailures := satInc 16 q.tagFailures }).rise (srcPortIntegrity p)).log 0x0502 (some k.ctx) none
        (natLE 1 p ++ natLE 2 k.src), none)

/-- First address of the command window in the endpoint space (R26). -/
def windowBase : Nat := 0xFF0000000000

/-- The reads of lines and words. -/
def msgReads : MsgOp → Bool
  | .rdShared | .rdOwn | .rdCur | .readDrain | .readFull => true
  | _ => false

/-- A request of the fabric at its port (R27, R114, R291): a read of the command window returns zeros, a command write goes to the stage, an owner's message and a fence to the home, any
other to the stamping point. -/
def State.requestIn (s : State) (p : Nat) (op : MsgOp) (k : Packet) : State :=
  let m : Req := { op, src := some k.src, holder := k.ctx, point := p, txn := k.txn, addr := k.addr, aux := k.aux, data := padTo 64 k.payload,
                   resend := k.resend, entered := s.nextOrder, lastPending := s.clk.elapsed, port := some p }
  let s := { s with nextOrder := s.nextOrder + 1 }
  if windowBase ≤ k.addr ∧ k.addr < windowBase + 2 ^ 24 ∧ (op = .wrInv ∨ op = .wrPart) then
    s.intake (.fabric k.src k.txn k.ctx) (k.addr - windowBase) (if op = .wrInv then m.data else (m.data.drop (k.addr % 64)).take k.aux)
  else if windowBase ≤ k.addr ∧ k.addr < windowBase + 2 ^ 24 ∧ msgReads op then s.answer { req := m, op := .dataNc, data := zeros 64 }
  else match op with
    | .wb | .evict =>
      match s.resolve k.addr with
      | some (r, dpa) => ({ s with openStamps := s.openStamps ++ [{ m with region := r, dpa }] }).toHome { m with region := r, dpa }
      | none => s.endAtPoint m 8
    | .fence => { s with mesh := s.mesh ++ [m], openStamps := s.openStamps ++ [m] }
    | _ => { s with stampQ := Tab.modify [] s.stampQ p (· ++ [m]) }

/-- A packet for this device is passed on by its opcode (R286). The device caches no line of another, so a probe finds nothing here
(R288). -/
def State.passOn (s : State) (p : Nat) (op : MsgOp) (k : Packet) : State :=
  match op with
  | .rspData | .rspAck | .rspNone =>
    match s.resolve k.addr with
    | some (r, dpa) =>
      s.toHome { op, src := some k.src, holder := k.ctx, point := p, txn := k.txn, addr := k.addr, dpa, region := r,
                 data := padTo 64 k.payload, resend := k.resend, port := some p }
    | none => s
  | .recall | .downgrade | .inv => s
  | .gntS | .gntE | .gntM | .dataNc | .syncVal | .gntUp | .cmp | .err | .pending => { s with inbox := s.inbox ++ [k] }
  | _ => s.requestIn p op k

/-- PACKET_DELIVER (R285): the oldest packet of a port for this device. -/
def execPacketDeliver (p : Nat) (s : State) : Out :=
  done (onUnit p 32 (fun s =>
    match (s.port p).deliverQ with
    | [] => s
    | k :: rest =>
      let s := (s.modPort p fun q => { q with deliverQ := rest }).freed p k
      if packetCheck k ≠ k.check then s.e2eDiscard p
      else match msgOf k.opcode with
        | none => s.e2eDiscard p
        | some op =>
          match s.unsealed p k with
          | (s, some k) => s.passOn p op k
          | (s, none) => s) s)

/-! ## Requests of this device and of others (R287, R288) -/

/-- PENDING (R287): the `n`-th packet that came in restarts its request's 20 us and count. -/
def execPending (n : Nat) (s : State) : Out :=
  done (match s.inbox[n]? with
    | none => s
    | some k =>
      if k.opcode ≠ msgCode .pending then s
      else { s with inbox := s.inbox.eraseIdx n,
                    openReqs := s.openReqs.map fun (q : OpenReq) => if q.pkt.txn = k.txn ∧ q.pkt.dst = k.src then
                      { q with lastHeard := s.clk.timer, resends := 0 } else q })

/-- PENDING_TIMER (R288): the `n`-th admitted request, if it came from the fabric, 15 us after its admission or its last `PENDING`. -/
def execPendingTimer (n : Nat) (s : State) : Out :=
  done (match s.openStamps[n]? with
    | none => s
    | some m =>
      if !m.fromFabric then s
      else
        let s := s.untilElapsed (m.lastPending + 15000)
        let s := { s with openStamps := s.openStamps.set n { m with lastPending := s.clk.elapsed } }
        (s.source { opcode := msgCode .pending, dst := m.src.getD 0, ctx := m.holder, txn := m.txn, addr := m.addr }).1)

/-- A completion for an open request has come in and waits to be taken. -/
def State.answeredReq (s : State) (q : OpenReq) : Bool := s.inbox.any fun (k : Packet) => k.txn == q.pkt.txn && (k.src == q.pkt.dst || k.src == s.routing.localIdx)

/-- REQUEST_RESEND_TIMER (R287): 20 us without an answer, the request is sent again, or after the third resend it ends. -/
def execRequestResendTimer (n : Nat) (s : State) : Out :=
  done (match s.openReqs[n]? with
    | none => s
    | some q =>
      if s.answeredReq q then s
      else s.atTimer (q.lastHeard + 20000) fun s =>
        if 3 ≤ q.resends then s.requestLost q 0xC
        else
          let s := { s with openReqs := s.openReqs.set n { q with lastHeard := s.clk.timer, resends := q.resends + 1 } }
          match s.source { q.pkt with resend := true } with
          | (s, none) => s
          | (s, some r) => s.requestLost q r)

/-! ## The mesh (R293, R310, R515) -/

/-- A flit at the end of its path leaves the mesh: a message at its home's router, a packet at its port, where a port that is not up
discards it (R283). -/
def State.leavesMesh (s : State) (f : Flit) (input : Nat) : State :=
  match f.load with
  | .request m => s.reachHome m input
  | .packet q k => if (s.port q).state.takes then s.queueOut q k else s.routeDiscard q

/-- The `i`-th flit goes on through output `o` of its router: to the next router's input, where a message for its home has arrived, or
through the extra port (R18, R293). -/
def State.hop (s : State) (i o : Nat) : State :=
  match s.flits[i]? with
  | none => s
  | some f =>
    let s := { s with flits := s.flits.eraseIdx i }
    let t := neighbour f.router o
    let home := match f.load with | .request _ => decide (t = f.dst) | .packet .. => false
    if o = 4 || home then s.leavesMesh f (inputFrom o)
    else { s with flits := s.flits ++ [{ f with router := t, input := inputFrom o }] }

/-- MESH_FLIT (R310, R515): a flit that travels for a context leaves an output that a tile's router has, in a slot of its owner. One that
fails its parity at the next router (`parityBad`), as an armed fault of kind 1 makes one do, is discarded there, and the upstream router,
which holds it until then, sends it again. -/
def execMeshFlit (tile output : Nat) (ctx : Nat) (parityBad : Bool) (s : State) : Out :=
  done (onUnit tile 256 (fun s =>
    if !hasOutput tile output || !s.serves tile (2 + output) ctx then s
    else
      let inj := s.diag.injArm && s.diag.injKind == 1 && s.diag.injUnit == tile && bits s.diag.injParam 0 3 == output && !s.ctxConf ctx
      let s := if inj then ({ s with diag := { s.diag with injArm := false } }).injected 0x20 tile else s
      if parityBad || inj then
        if firstInMs s.clk.nt s.diag.meshLogged then
          ({ s with diag := { s.diag with meshLogged := some (s.clk.nt / 1000000) } }).log 0x0505 none none (natLE 1 tile ++ natLE 1 output)
        else s
      else match s.flitFor tile output ctx with
        | some i => s.hop i output
        | none => s) s)

/-! ## Port controls (R269, R270, R301, R302) -/

/-- What JTAG may name (R356). -/
inductive JtagTarget where
  | identification | boundaryScan | registers | testAccess | embers | localStores | slices | channels | planStore | keyStore | privateKeys
  deriving DecidableEq, Repr

/-- The level that opens a target; none for what no level reaches (R356). -/
def JtagTarget.level : JtagTarget → Option Nat
  | .identification | .boundaryScan => some 0
  | .registers | .testAccess => some 1
  | .embers | .localStores | .slices | .channels | .planStore => some 2
  | .keyStore | .privateKeys => none

/-- JTAG reaches a target: outside a reset, with H2 (Table 1.3), at its level. -/
def State.jtagReaches (s : State) (x : JtagTarget) : Bool :=
  !s.boot.inReset && !s.hearthLost 2 && (match x.level with
    | some l => decide (l ≤ s.sec.jtagLevel)
    | none => false)

/-- A reader reaches BAR0's blocks: the host over its link, JTAG from level 1 on, a control unit that serves (R356, R363, R507);
`hostOnly`: a block that only the host reaches. -/
def State.reached (s : State) (rd : Reader) (hostOnly : Bool) : Bool :=
  let cu (u : Nat) : Bool := !hostOnly && (s.cu u).state == .serving && (s.cu u).passed
  !s.boot.inReset && (match rd with
    | .host => s.cxl.linkUp && !s.hearthLost 0
    | .jtag => s.jtagReaches .registers
    | .cuA => cu 0
    | .cuB => cu 1
    | .cuC => cu 2)

/-- A control unit's number. -/
def readerUnit : Reader → Option Nat
  | .cuA => some 0 | .cuB => some 1 | .cuC => some 2 | _ => none

/-- A reader's write changes the device: of the control units, only the holder's does (R363). -/
def State.mayWrite (s : State) (rd : Reader) (hostOnly : Bool) : Bool :=
  s.reached rd hostOnly && (match readerUnit rd with | some u => s.triplex.holder == some u | none => true)

/-- A 1 written to FAB_CTRL.reset: ignored while a reset runs (R12). -/
def State.ctrlReset (s : State) (p : Nat) : State := if (s.port p).resetting then s else s.fullReset p

/-- FAB_CTRL_RESET (R269). -/
def execFabCtrlReset (rd : Reader) (p : Nat) (s : State) : Out :=
  done (onUnit p 32 (fun s => if s.mayWrite rd false then s.ctrlReset p else s) s)

/-- FAB_CTRL_RETRAIN (R270). -/
def execFabCtrlRetrain (rd : Reader) (p : Nat) (s : State) : Out :=
  done (onUnit p 32 (fun s => if s.mayWrite rd false then s.startRetrain p else s) s)

/-- FAB_CTRL.disable takes a value (Table 9.16). -/
def State.setDisable (s : State) (p : Nat) (on : Bool) : State :=
  let s := s.modPort p fun q => { q with disable := on }
  if on then s.linkDown p else s

/-- FAB_CTRL_DISABLE (R267). -/
def execFabCtrlDisable (rd : Reader) (p : Nat) (on : Bool) (s : State) : Out :=
  done (onUnit p 32 (fun s => if s.mayWrite rd false then s.setDisable p on else s) s)

/-- FAB_INJ_CTRL takes a value (R302): nothing while it is armed (Table 17.16), nor kind 3 while a confidential context is resident. -/
def State.fabInj (s : State) (p v : Nat) : State :=
  if (s.port p).injArm || (bits v 1 2 == 3 && s.anyConf) then s
  else s.modPort p fun q => { q with injArm := bit v 0, injKind := bits v 1 2, injLane := bits v 3 3, injSymbols := bits v 6 8 }

/-- FAB_INJ_CTRL (R302). -/
def execFabInjCtrl (rd : Reader) (p : Nat) (v : Reg) (s : State) : Out :=
  done (onUnit p 32 (fun s => if s.mayWrite rd false then s.fabInj p v.toNat else s) s)

end Sys2Proof.Machine
end

