-- ==== Sys2Proof/Machine/CmdMaint.lean ====
section
/-! DEFINITION. The maintenance commands: self-tests, calibration, retirement, firmware update, the triplex mode, with the token's
release (chapters 3, 7, 11, 12 and 16). -/

set_option Elab.async false

namespace Sys2Proof.Machine

/-! ## Token and claim (R367-R369) -/

/-- The code of a control unit's state (Table 12.7). -/
def cuCode : CuState → Nat
  | .serving => 0 | .syncing => 1 | .out => 2 | .failed => 3 | .lost => 4

/-- A unit's state changes; the change is logged, and `failed` or `lost` raises TRIPLEX_UNIT (Tables 13.9, 17.11). -/
def State.cuState (s : State) (u : Nat) (st : CuState) : State :=
  if (s.cu u).state = st then s
  else
    let s := (s.modCu u fun c => { c with state := st }).log 0x0803 none none (natLE 1 u ++ natLE 1 (cuCode st))
    match st with
    | .failed | .lost => s.rise 0x257
    | _ => s

/-- The units after the holder in rank order, the first at position 1 (R367). -/
def State.rankAfter (s : State) : List Nat :=
  match s.triplex.holder with
  | none => s.triplex.rank
  | some h =>
    let i := (s.triplex.rank.findIdx? (· == h)).getD 0
    s.triplex.rank.drop (i + 1) ++ s.triplex.rank.take i

/-- Firmware routes the sources it owns to the token holder's target (R397, R402). -/
def State.routeOwned (s : State) (u : Nat) : State :=
  s.withIntc { s.intc with srcs := (List.range 16).foldl (fun (t : Tab Src) i => Tab.modify {} t (0x270 + i) fun x => { x with target := 4 + u }) s.intc.srcs }

/-- Unit `u`, at position `k`, holds the token from now on: claim + k, a gap of 120 ns, a fresh lease. The new holder repeats the outputs
that no stage has taken; with `late`, the old holder's copies are still on their way (R56, R366, R369). -/
def State.takeToken (s : State) (u k : Nat) (late : Bool) : State :=
  let claim := (s.triplex.claim + k) % 65536
  let again := s.cuOut.map fun o => { o with unit := u, claim, released := true }
  let s := { s with cuOut := (if late then s.cuOut else []) ++ again,
                    triplex := { s.triplex with holder := some u, claim, takeovers := satInc 16 s.triplex.takeovers, gapEnd := s.clk.elapsed + 120,
                                                leaseEnd := s.clk.elapsed + 4000, renewAt := s.clk.elapsed + 1000 } }
  (s.log 0x0804 none none (natLE 1 u ++ natLE 2 claim)).routeOwned u

/-- The holder releases the token to unit `u` (R367, R368). -/
def State.releaseTo (s : State) (u : Nat) : State :=
  match s.rankAfter.findIdx? (· == u) with
  | some i => if s.triplex.holder = some u then s else s.takeToken u (i + 1) false
  | none => s

/-- The next `serving` unit in rank after the holder. -/
def State.nextUnit (s : State) : Option Nat := s.rankAfter.find? fun u => (s.cu u).state == .serving

/-- A unit that leaves service gives up the token first (R367, R370). Without another unit that serves, nobody holds it. -/
def State.dropToken (s : State) (u : Nat) : State :=
  if s.triplex.holder = some u then
    match s.nextUnit with
    | some v => s.releaseTo v
    | none => { s with triplex := { s.triplex with holder := none } }
  else s

/-- A switch-over gap is open, or a unit is `syncing` (Table 12.5). -/
def State.gapOpen (s : State) : Bool := decide (s.clk.elapsed < s.triplex.gapEnd)
def State.triplexBusy (s : State) : Bool := s.gapOpen || s.triplex.units.any fun u => u.state == .syncing

/-- Both other units serve (R370). -/
def State.othersServe (s : State) (u : Nat) : Bool := (List.range 3).all fun v => v == u || (s.cu v).state == .serving

/-- TRIPLEX_STATUS (Table 12.7). -/
def State.triplexStatus (s : State) : Nat :=
  b2n s.triplex.hotRequested + 2 * b2n (!s.lockstep) + 4 * s.triplex.holder.getD 3 +
  16 * cuCode (s.cu 0).state + 128 * cuCode (s.cu 1).state + 1024 * cuCode (s.cu 2).state + 8192 * b2n s.gapOpen + 65536 * s.triplex.claim

/-! ## SELFTEST (R490, R225, R226, R370) -/

/-- A self-test of a unit runs. -/
def State.underTest (s : State) (kind unit : Nat) : Bool :=
  s.cmds.any fun k => k.phase == .running && pktOpcode k.bytes == 0x50 && k.par 16 1 == kind && k.par 18 2 == unit

/-- An armed plan or an active run names an Ember (R225). -/
def State.emberNamed (s : State) (t : Nat) : Bool := s.plans.any fun p =>
  match p.2 with
  | some x => x.tiles.contains t && (x.active.isSome || x.state == .armed || x.state == .armedRunning || x.state == .running || x.state == .cancelling)
  | none => false

/-- Cords of a channel that are `bound` or `migrating`. -/
def State.chanHolds (s : State) (g : Nat) : Bool := (List.range 12).any fun i =>
  (s.cord (12 * g + i)).state == .bound || (s.cord (12 * g + i)).state == .migrating

/-- The ports of a route entry. -/
def rePorts (w : Nat) : List Nat := (List.range (reCount w)).map (rePort w)

/-- Every active route entry that names a port has failover and another `active` port (Table 16.12). -/
def State.portSpared (s : State) (p : Nat) : Bool := s.routing.entries.all fun e =>
  !(reValid e.2 && !reLocal e.2 && (rePorts e.2).contains p) ||
  (reFailover e.2 && (rePorts e.2).any fun q => q != p && (s.port q).state == .active)

/-- How `SELFTEST` answers: a refusal that is its only reply, a refusal after `DEFERRED`, or the unit taken out. -/
inductive TestStart where
  | only (status : Nat)
  | later (status byte : Nat)
  | go (s : State)

/-- Table 16.12. -/
def State.testStart (s : State) (k : Cmd) : TestStart :=
  let u := k.par 18 2
  match k.par 16 1 with
  | 0 =>
    if 256 ≤ u then .later stBadParam 18
    else if !(s.ember u).inService then .only stFenced
    else if s.emberNamed u then .only stRefused
    else .go (s.modEmber u fun e => { e with state := .fenced, testing := some (k.ctx, k.tag), margin := bit (k.par 20 1) 3 })
  | 1 =>
    let c := s.chan u
    if 512 ≤ u then .later stBadParam 18
    else if c.state == .fenced || c.state == .retired || c.retiring.isSome then .only stFenced
    else if s.chanHolds u then .only stRefused
    else .go (s.modChan u fun c => { c with state := .fenced, margin := b2n (bit (k.par 20 1) 3) })
  | 2 =>
    if 32 ≤ u then .later stBadParam 18
    else if (s.port u).retired || s.hearthLost (portHearth u) || s.underTest 2 u then .only stFenced
    else if !s.portSpared u then .only stRefused
    else .go ((s.modPort u fun q => { q with dropLane := bits (k.par 20 1) 0 3 }).fullReset u)
  | 3 =>
    if 3 ≤ u then .later stBadParam 18
    else if (s.cu u).state == .lost || s.underTest 3 u then .only stFenced
    else if s.triplexBusy then .later stInUse 0xFF
    else if !s.othersServe u then .only stRefused
    else .go ((s.dropToken u).cuState u .out)
  | _ => .later stBadParam 16

/-- SELFTEST (R490). -/
def execSelftest (ctx tag : Nat) (s : State) : Out :=
  done (s.withTaken ctx tag 0x50 fun k s =>
    match s.testStart k with
    | .only st => s.refuse k st
    | .later st i => (s.deferOnce k).refuse k st i
    | .go s => s.running k)

/-- A channel's test has ended (Table 16.12): it serves again with every valid bit clear, or stays fenced. -/
def State.channelTested (s : State) (g : Nat) (pass : Bool) : State :=
  if pass then
    let s := (List.range 12).foldl (fun t i => (t.zeroiseCord (12 * g + i)).1)
      (s.modChan g fun c => { c with state := .inService, merge := [], rmw := [], openRows := [] })
    s.modChan g fun c => { c with bmCache := [] }
  else s.fenceChan g 2

/-- The unit of a self-test lies on a lost Hearth: it stays out of service (R23). -/
def State.unitLost (s : State) (kind u : Nat) : Bool :=
  match kind with
  | 0 => s.hearthLost (tileHearth u)
  | 1 => s.hearthLost (chanHearth u)
  | 2 => s.hearthLost (portHearth u)
  | _ => (s.cu u).state == .lost

/-- A self-test has run its course: an Ember's has begun (R225), and a channel's margin test has been at both points (R490). -/
def State.testRun (s : State) (kind u : Nat) : Bool :=
  match kind with
  | 0 => (s.ember u).state == .testing || s.unitLost 0 u
  | 1 => (s.chan u).margin == 0 || (s.chan u).margin == 3 || s.unitLost 1 u
  | _ => true

/-- The unit of a self-test after it (Table 16.12, R226, R370). -/
def State.tested (s : State) (kind u : Nat) (pass : Bool) : State :=
  match kind with
  | 0 => s.modEmber u fun e => { e with state := if pass then .idle else .fenced, testing := none, margin := false, dirtyCtx := [], preloads := [],
                                        lastRun := none }
  | 1 => (s.modChan u fun c => { c with margin := 0 }).channelTested u pass
  | 3 => if pass || (s.cu u).state == .lost then s else s.cuState u .failed
  | _ => s

/-- SELFTEST_COMPLETE (R490): `pass` is the test's result; a unit on a lost Hearth cannot pass (R23). -/
def execSelftestComplete (ctx tag : Nat) (pass : Bool) (s : State) : Out :=
  done (s.withRunning ctx tag 0x50 fun k s =>
    let u := k.par 18 2
    let kind := k.par 16 1
    if !s.testRun kind u then s else
    let pass := pass && !s.unitLost kind u
    let s := s.tested kind u pass
    if pass then s.final k stOk (natLE 1 0)
    else
      let (d, s) := s.draw
      let code := Config.failCode d % 2 ^ 32
      (s.log 0x0906 none none (natLE 1 kind ++ natLE 2 u ++ natLE 4 code)).final k stOk (natLE 1 1 ++ natLE 4 code))

/-! ## CALIBRATE (R71, R491) -/

/-- CALIBRATE (R491). -/
def execCalibrate (ctx tag : Nat) (s : State) : Out :=
  done (s.withTaken ctx tag 0x51 fun k s =>
    let g := k.par 16 2
    let tasks := k.par 18 1
    let serves (g : Nat) : Bool := (s.chan g).state == .inService || (s.chan g).state == .migrating
    if tasks = 0 then s.refuse k stBadParam 18
    else if g ≠ 0xFFFF ∧ 512 ≤ g then s.refuse k stBadParam 16
    else if g ≠ 0xFFFF && !serves g then s.refuse k stFenced 16
    else
      let gs := if g = 0xFFFF then (List.range 512).filter serves else [g]
      let s := gs.foldl (fun t i => t.modChan i fun c => { c with calZq := c.calZq || bit tasks 0, calRt := c.calRt || bit tasks 1,
                                                                  calCmds := c.calCmds ++ [(k.ctx, k.tag)] }) s
      (s.running k).calibrated (k.ctx, k.tag))

/-- A `CALIBRATE` whose last channel has stopped serving ends. -/
def State.settleCalibrations (s : State) : State :=
  (s.cmds.filter fun k => k.phase == .running && pktOpcode k.bytes == 0x51).foldl (fun t k => t.calibrated (k.ctx, k.tag)) s

/-! ## RETIRE (R97, R128, R227, R492) -/

/-- Where a retiring channel's cords go: a destination for each bound cord and for each allocated one, or none (R128; log 51). The moved
ones are counted. -/
def State.reserveRetired (s : State) : List Nat → Option (State × List Nat × Nat)
  | [] => some (s, [], 0)
  | n :: rest =>
    let c := s.cord n
    match c.state with
    | .bound =>
      match s.region c.region with
      | none => State.reserveRetired s rest
      | some r =>
        match s.destFor c.region n r with
        | none => none
        | some d => (State.reserveRetired (s.reserve c.region n r [d]) rest).map fun q => (q.1, n :: q.2.1, q.2.2)
    | .allocated =>
      match (s.freeIn (32 * chanStack (cordChan n)) (32 * chanStack (cordChan n) + 32) ++
             s.freeIn (128 * chanHearth (cordChan n)) (128 * chanHearth (cordChan n) + 128) ++ s.freeIn 0 512).head? with
      | none => none
      | some d =>
        (State.reserveRetired (((s.modCord d fun x => { x with state := .allocated, ctx := c.ctx }).modCord n fun x => x.unbound .free).startZeroise n) rest).map
          fun q => (q.1, q.2.1, q.2.2 + 1)
    | _ => State.reserveRetired s rest

/-- A copy goes into or out of a channel (Table 12.5). -/
def State.copying (s : State) (g : Nat) : Bool := s.cords.any fun p =>
  p.2.state == .migrating && (cordChan p.1 == g || (p.2.dest.toList ++ p.2.extraDest).any fun d => cordChan d == g)

/-- `RETIRE` of a channel. -/
def State.retireChannel (s : State) (k : Cmd) (g : Nat) : State :=
  if s.copying g || (s.chan g).retiring.isSome then s.refuse k stInUse 18
  else
    let marked := s.modChan g fun c => { c with retiring := some (k.ctx, k.tag), retireMoved := 0, retireCinder := 0,
                                                state := if c.state = .fenced then .fenced else .migrating }
    match marked.reserveRetired ((List.range 12).map (12 * g + ·)) with
    | none => s.refuse k stNoSpace
    | some (t, cs, n) => (t.modChan g fun c => { c with retireCords := cs, retireMoved := n }).running k

/-- RETIRE (R492). -/
def execRetire (ctx tag : Nat) (s : State) : Out :=
  done (s.withTaken ctx tag 0x52 fun k s =>
    let kind := k.par 16 1
    let u := k.par 18 2
    let none_ (s : State) : State := s.final k stOk (zeros 8)
    if 2 < kind then s.refuse k stBadParam 16
    else if (if kind = 0 then 256 else if kind = 1 then 512 else 32) ≤ u then s.refuse k stBadParam 18
    else if s.underTest kind u then s.refuse k stFenced 18
    else match kind with
      | 0 =>
        if (s.ember u).retired then none_ s
        else none_ { (s.fenceEmber u).modEmber u fun e => { e with retired := true } with
                      kept := { s.kept with retiredEmbers := s.kept.retiredEmbers ++ [u] } }
      | 1 => if (s.chan u).state = .retired then none_ s else s.retireChannel k u
      | _ =>
        if (s.port u).retired then none_ s
        else none_ { (s.fullReset u).modPort u fun q => { q with retired := true } with
                      kept := { s.kept with retiredPorts := s.kept.retiredPorts ++ [u] } })

/-- RETIRE_COMPLETE (R97, R103): every cord has moved and none zeroises; the merge buffer is flushed, a fenced channel's entries being lost
(R81), and the channel and its cords are `retired`. -/
def execRetireComplete (ctx tag : Nat) (s : State) : Out :=
  done (s.withRunning ctx tag 0x52 fun k s =>
    let g := k.par 18 2
    let c := s.chan g
    if k.par 16 1 ≠ 1 ∨ c.retiring ≠ some (k.ctx, k.tag) ∨ c.retireCords ≠ [] ||
        (List.range 12).any fun i => (s.cord (12 * g + i)).state == .zeroising then s
    else
      let s := s.flushAll g
      let s := (s.modChan g fun c => { c with state := .retired, retiring := none, merge := [], bmCache := [], openRows := [] })
      let s := (List.range 12).foldl (fun t i => t.modCord (12 * g + i) fun x => x.unbound .retired) s
      let s := { s with kept := { s.kept with retiredChans := s.kept.retiredChans ++ [g] } }
      (s.log 0x0108 none none (natLE 2 g ++ natLE 2 c.retireMoved ++ natLE 4 c.retireCinder)).final k stOk
        (natLE 2 c.retireMoved ++ zeros 2 ++ natLE 4 c.retireCinder))

/-! ## FW_UPDATE (R341, R493) -/

/-- An image passes Kindling's checks under a floor (R339). -/
def imageOk (x : ImageCheck) (floor : Nat) : Bool := x.keyOk && x.sigOk && decide (floor ≤ x.svn)

/-- FW_UPDATE (R493). -/
def execFwUpdate (ctx tag : Nat) (hostData : Option Bytes) (s : State) : Out :=
  done (s.withTaken ctx tag 0x54 fun k s =>
    if s.diag.updating.isSome then s.refuse k stInUse
    else if s.hearthLost 2 && k.par 28 1 == 0 then s.refuse k stInternal
    else match k.par 28 1 with
      | 0 =>
        if 3670016 < k.par 24 4 then s.refuse k stBadParam 24
        else match s.readIn k (k.par 16 8) (k.par 24 4) hostData with
          | (s, .busy) => s.again k
          | (s, .fail st) => s.refuse k st 16
          | (s, .ok b) => { s with diag := { s.diag with updating := some (k.ctx, k.tag, b) } }.running k
      | 1 =>
        let v := max s.kept.svnFloor s.activeCu.svn
        if 64 < v then s.refuse k stNoSpace
        else { s with kept := { s.kept with svnFloor := v } }.final k stOk (natLE 2 v)
      | _ => s.refuse k stBadParam 28)

/-- FW_UPDATE_WRITE_DONE (R341): the image is in the inactive area, and is verified. With H2 lost the flash is not reached (Table 1.9). -/
def execFwUpdateWriteDone (ctx tag : Nat) (s : State) : Out :=
  done (s.withRunning ctx tag 0x54 fun k s =>
    if s.hearthLost 2 then ({ s with diag := { s.diag with updating := none } }).refuse k stInternal else
    let image := (s.diag.updating.map fun (w : Nat × Nat × Bytes) => w.2.2).getD []
    let check := imageCheck image
    let s := { s with kept := { s.kept with images := s.kept.images.set (1 - s.kept.bootArea) image },
                      diag := { s.diag with updating := none } }
    if imageOk check s.kept.svnFloor then s.final k stOk (natLE 2 check.svn ++ natLE 2 check.stateFormat)
    else s.refuse k stBadParam)

/-! ## TRIPLEX_MODE (R364, R370-R372, R494) -/

/-- A unit begins to rejoin for a command (R371). -/
def State.startSync (s : State) (k : Cmd) (u : Nat) : State :=
  ((s.modCu u fun c => { c with syncCmd := some (k.ctx, k.tag) }).cuState u .syncing).running k

/-- Reload: Kindling verifies the image of the inactive area for unit `u` (R372); an image that fails leaves the unit `failed`. -/
def State.reloadUnit (s : State) (k : Cmd) (u : Nat) : State :=
  let a := 1 - s.kept.bootArea
  let x := imageCheck (s.kept.images.getD a [])
  if !imageOk x s.kept.svnFloor then ((s.log 0x0901 none none (natLE 1 u ++ natLE 1 1)).cuState u .failed).refuse k stBadParam 17
  else if x.stateFormat ≠ s.activeCu.format then s.refuse k stBadParam 17
  else (s.modCu u fun c => { c with svn := x.svn, format := x.stateFormat, digest := x.digest, tables := x.tables, area := a }).startSync k u

/-- TRIPLEX_MODE (R494, Table 16.13). -/
def execTriplexMode (ctx tag : Nat) (s : State) : Out :=
  done (s.withTaken ctx tag 0x55 fun k s =>
    let u := k.par 17 1
    let ok (s : State) : State := s.final k stOk (natLE 4 s.triplexStatus)
    let st := (s.cu u).state
    match k.par 16 1 with
    | 0 => if 1 < u then s.refuse k stBadParam 17 else ok { s with triplex := { s.triplex with hotRequested := u == 1 } }
    | 1 =>
      if 3 ≤ u ∨ st ≠ .serving then s.refuse k stBadParam 17
      else if s.triplexBusy then s.refuse k stInUse 17
      else if !s.othersServe u then s.refuse k stRefused 17
      else ok ((s.dropToken u).cuState u .out)
    | 2 =>
      if 3 ≤ u ∨ st ≠ .out then s.refuse k stBadParam 17
      else if s.underTest 3 u then s.refuse k stInUse 17
      else s.startSync k u
    | 3 =>
      if 3 ≤ u ∨ st ≠ .out then s.refuse k stBadParam 17
      else if s.triplexBusy || s.underTest 3 u then s.refuse k stInUse 17
      else s.reloadUnit k u
    | 4 =>
      if 3 ≤ u ∨ st ≠ .serving then s.refuse k stBadParam 17
      else ok (s.releaseTo u)
    | _ => s.refuse k stBadParam 16)

/-- UNIT_REJOIN (R371): the unit has caught up; all release together after a gap. When all three run the image of the other area, that
area becomes the boot area (R372). -/
def execUnitRejoin (unit : Nat) (s : State) : Out :=
  done (onUnit unit 3 (fun s =>
    let c := s.cu unit
    if c.state != .syncing then s
    else
      let s := (s.modCu unit fun c => { c with syncCmd := none }).cuState unit .serving
      let a := 1 - s.kept.bootArea
      let all := s.triplex.units.all fun u => u.state == .serving && u.area == a
      let s := { s with triplex := { s.triplex with gapEnd := s.clk.elapsed + 120 }, kept := if all then { s.kept with bootArea := a } else s.kept }
      match c.syncCmd.bind fun w => s.cmd w.1 w.2 with
      | some k => s.final k stOk (natLE 4 s.triplexStatus)
      | none => s) s)

end Sys2Proof.Machine
end

