-- ==== Sys2Proof/Machine/TriplexUnits.lean ====
section
/-! DEFINITION. The three control units: renewal and expiry of the token's lease, votes, deltas, faults of a unit (chapter 12). -/

set_option Elab.async false

namespace Sys2Proof.Machine

/-- TOKEN_RENEWAL (R367): every 1 us the holder renews; every keeper restarts its lease of 4 us. -/
def execTokenRenewal (s : State) : Out :=
  done (match s.triplex.holder with
    | none => s
    | some u =>
      if (s.cu u).state != .serving || s.triplex.stopped || s.boot.inReset then s
      else
        let s := s.untilElapsed s.triplex.renewAt
        { s with triplex := { s.triplex with leaseEnd := s.clk.elapsed + 4000, renewAt := s.clk.elapsed + 1000 } })

/-- TOKEN_LEASE_EXPIRY (R367-R369): the first `serving` unit after the holder, at position k, takes the token (k - 1) x 2 us after the
lease's end, with claim + k. -/
def execTokenLeaseExpiry (s : State) : Out :=
  done (
    let l := s.rankAfter
    if s.triplex.holder.isNone || s.triplex.stopped || s.boot.inReset then s
    else match l.findIdx? fun u => (s.cu u).state == .serving with
      | none => s
      | some i => ((s.untilElapsed (s.triplex.leaseEnd + 2000 * i)).takeToken (l.getD i 0) (i + 1) true).rise 0x257)

/-- STALE_CLAIM_NOTICE (R368): a unit that a stage has told of a stale claim stops acting. -/
def execStaleClaimNotice (unit : Nat) (s : State) : Out :=
  done (match s.triplex.notices.find? fun n => n.1 == unit with
    | none => s
    | some n =>
      let s := { s with triplex := { s.triplex with notices := s.triplex.notices.erase n, staleClaims := satInc 16 s.triplex.staleClaims }
                        cuOut := s.cuOut.filter fun o => o.unit != unit }
      (s.log 0x0802 none none (natLE 1 n.1 ++ natLE 2 n.2)).cuState unit .failed)

/-- The oldest output that waits for a vote or for a standby leaves the complex (R365, R366). -/
def State.releaseOne (s : State) : State :=
  match s.cuOut.findIdx? fun o => !o.released with
  | some i => { s with cuOut := s.cuOut.modify i fun o => { o with released := true } }
  | none => s

/-- A unit leaves service by a fault; it gives up the token first (R365, R367). A command that was bringing it back ends with
`INTERNAL_ERROR` (log 53). -/
def State.failUnit (s : State) (u : Nat) : State :=
  let w := (s.cu u).syncCmd
  let s := ((s.dropToken u).modCu u fun c => { c with syncCmd := none }).cuState u .failed
  match w.bind fun w => s.cmd w.1 w.2 with
  | some k => s.refuse k stInternal
  | none => s

/-- The minority unit of three copies, where two agree. -/
def minority (a b c : Nat) : Option Nat :=
  if a = b ∧ b = c then none else if b = c then some 0 else if a = c then some 1 else if a = b then some 2 else none

/-- The copies as the voters receive them: an armed voter fault alters one (Table 17.13, kind 6). -/
def State.voterFault (s : State) (l : List Nat) : State × List Nat :=
  if s.diag.injArm && s.diag.injKind == 6 then
    let u := s.diag.injUnit
    (({ s with diag := { s.diag with injArm := false } }).injected 0x25 u, l.set u (l.sum + 1))
  else (s, l)

/-- LOCKSTEP_VOTE (R365): the output copies of CU-A, CU-B and CU-C. -/
def execLockstepVote (a b c : Nat) (s : State) : Out :=
  done (
    if !s.lockstep || s.triplex.stopped || s.boot.inReset then s
    else
      let (s, l) := s.voterFault [a, b, c]
      let x := l.getD 0 0
      let y := l.getD 1 0
      let z := l.getD 2 0
      if x = y ∧ y = z then s.releaseOne
      else match minority x y z with
        | some u =>
          let s := { s.releaseOne with triplex := { s.triplex with voteMismatch := satInc 16 s.triplex.voteMismatch } }
          (s.log 0x0801 none none (natLE 1 u)).failUnit u
        | none => (({ s with triplex := { s.triplex with stopped := true } }).rise 0x256).cxlEvent 3 1 noAddr 0)

/-- HOT_STANDBY_DELTA (R366): a standby has acknowledged the delta of a cycle, and the output of that cycle leaves. -/
def execHotStandbyDelta (s : State) : Out :=
  done (if s.lockstep || s.triplex.stopped || s.boot.inReset then s else s.releaseOne)

/-- CU_PARITY_ERROR (R367): a parity error in a unit's working memory; an armed fault of kind 7 is one. -/
def execCuParityError (unit : Nat) (s : State) : Out :=
  done (onUnit unit 3 (fun s =>
    let st := (s.cu unit).state
    if st != .serving && st != .syncing || s.boot.inReset then s
    else
      let inj := s.diag.injArm && s.diag.injKind == 7 && s.diag.injUnit == unit
      let s := if inj then ({ s with diag := { s.diag with injArm := false } }).injected 0x26 unit else s
      s.failUnit unit) s)

end Sys2Proof.Machine
end

