-- ==== Sys2Proof/Machine/SecurityUnit.lean ====
section
/-! DEFINITION. JTAG and its lock, the debug register (chapter 11). -/

set_option Elab.async false

namespace Sys2Proof.Machine

/-- JTAG is there: outside a reset, with H2 (Table 1.3). -/
def State.jtagReached (s : State) : Bool := !s.boot.inReset && !s.hearthLost 2

/-- JTAG_CHALLENGE_READ (R357): 24 random bytes and the serial number; each challenge serves one attempt. -/
def execJtagChallengeRead (s : State) : Out :=
  done (
    if !s.jtagReached || s.engineLost then s
    else
      let (d, s) := s.draw
      let c := padTo 24 (Config.random32 d) ++ natLE 8 Config.serial.toNat
      { s with sec := { s.sec with challenge := some c } }.emit (.challenge c))

/-- An unlock attempt has failed: counted and logged; the third blocks unlock and raises SECURITY (R358). -/
def State.unlockFailed (s : State) (level : Nat) : State :=
  let n := s.sec.unlockFails
  let s := { s with sec := { s.sec with unlockFails := min 3 (n + 1) } }
  let s := s.log 0x0702 none none (natLE 1 level ++ natLE 1 0)
  if n = 2 then s.rise 0x25E else s

/-- The conditions of an unlock (R357, R358). -/
def State.unlockOk (s : State) (level : Nat) (key sig : Bytes) : Bool :=
  !s.kept.debugDisabled && !s.engineLost && (level == 1 || (level == 2 && !s.anyConf)) &&
  (match s.sec.challenge with
    | some c => Config.sm3 key == Config.debugAuthority && sm2Verify key (Config.sm3 (c ++ natLE 1 level)) sig
    | none => false)

/-- JTAG_UNLOCK (R357, R358). After 3 failures every attempt is refused. -/
def execJtagUnlock (level : Nat) (key sig : Bytes) (s : State) : Out :=
  done (
    if !s.jtagReached || level == 0 then s
    else if 3 ≤ s.sec.unlockFails then { s with sec := { s.sec with challenge := none } }
    else
      let ok := s.unlockOk level key sig
      let s := { s with sec := { s.sec with challenge := none } }
      if ok then
        { s with sec := { s.sec with jtagLevel := level, chipUnlocked := true, engineOpened := s.sec.engineOpened || level == 2 } }.log 0x0702 none none
          (natLE 1 level ++ natLE 1 1)
      else s.unlockFailed level)

/-- TRST_N_ASSERT (R533): level 0; an attempt under way, one whose challenge has been read, counts as failed. -/
def execTrstNAssert (s : State) : Out :=
  done (
    let open_ := s.sec.challenge.isSome && decide (s.sec.unlockFails < 3)
    let s := { s with sec := { s.sec with jtagLevel := 0, challenge := none } }
    if open_ then s.unlockFailed 0 else s)

/-- Only the host's write over the CXL port reaches SEC_DEBUG (R358). -/
def State.secDebugWrite (s : State) (rd : Reader) : Bool := rd == .host && s.reached rd true

/-- SEC_DEBUG.relock (R358). -/
def State.relock (s : State) : State := { s with sec := { s.sec with jtagLevel := 0 } }

/-- SEC_DEBUG.disable, a fuse (R358). -/
def State.debugOff (s : State) : State := { s with kept := { s.kept with debugDisabled := true } }

/-- SEC_DEBUG_RELOCK (R358). -/
def execSecDebugRelock (rd : Reader) (s : State) : Out := done (if s.secDebugWrite rd then s.relock else s)

/-- SEC_DEBUG_DISABLE (R358). -/
def execSecDebugDisable (rd : Reader) (s : State) : Out := done (if s.secDebugWrite rd then s.debugOff else s)

end Sys2Proof.Machine
end

