-- ==== Sys2Proof/Machine/TimeGate.lean ====
section
/-! DEFINITION. Network time, slot edges, the switch of schedules, throttling (chapter 10). -/

set_option Elab.async false

namespace Sys2Proof.Machine

/-! ## Network time (R303-R307) -/

/-- A time in units of 2^-16 ns. -/
def fine (ns frac : Nat) : Int := 65536 * ns + frac

/-- Network time moves by `d` units of 2^-16 ns. -/
def State.moveTime (s : State) (d : Int) : State :=
  let t := (fine s.clk.nt s.clk.frac + d).toNat
  { s with clk := { s.clk with nt := t / 65536, frac := t % 65536 } }

/-- A natural number moved by an integer. -/
def moved (n : Nat) (d : Int) : Nat := ((n : Int) + d).toNat

/-- A step of network time (R306): every network time held as a future instant moves with it, with the acceptance times that expiries are
computed from; the calendar keeps its place (R449). -/
def State.stepTime (s : State) (d : Int) : State :=
  let s' := s.moveTime d
  let k : Int := (s'.clk.nt : Int) - s.clk.nt
  { s' with
    grants := s'.grants.map fun (g : Grant) => { g with expiry := moved g.expiry k }
    cmds := s'.cmds.map fun (c : Cmd) => { c with acceptedAt := moved c.acceptedAt k }
    sched := { s'.sched with pendingT := s'.sched.pendingT.map (moved · k)
                             causeSince := s'.sched.causeSince.map (moved · k)
                             lastCause := s'.sched.lastCause.map (moved · k) }
    cxl := { s'.cxl with calendar := s'.cxl.calendar.map (· - k) } }

/-- A change of the time state: logged and raised; a device that passes to `free` runs on its reference clock, with its one step before it,
and if it has been locked closes the isolated slots of its ports (R306, R307). -/
def State.timeState (s : State) (n distance : Nat) : State :=
  let old := s.net.state
  let s := { s with net := { s.net with distance := if n = 1 then distance else 15 } }
  if old = n then s
  else
    let s := { s with net := { s.net with state := n, everLocked := s.net.everLocked || n == 1, holdoverSince := s.clk.elapsed,
                                          stepped := s.net.stepped && n != 0 }
                      clk := { s.clk with steer := if n = 0 then 0 else s.clk.steer }
                      sched := { s.sched with isoClosed := s.sched.isoClosed || (n == 0 && s.net.everLocked) } }
    (s.rise 0x254).log 0x0601 none none (natLE 1 old ++ natLE 1 n)

/-- Twice the offset of the child, in 2^-16 ns (R305): the four times of the exchange and the port's asymmetry. -/
def twiceTheta (q : Port) (b : TimeBody) : Int :=
  (fine q.timeT2 q.timeT2Frac - fine q.timeT1 q.timeT1Frac) - (fine b.tRx b.tRxFrac - fine q.timeT3 q.timeT3Frac) - 256 * q.asym

/-- The steering term that removes an offset of `theta` units of 2^-16 ns over one exchange, 4,000 ticks (R305, R306; log 140): at most 2
units in a tick of 2 ns, which is within 20 ppm. -/
def steerFor (theta : Int) : Int := clampInt (-2) 2 (-(theta.tdiv 4000))

/-- A whole exchange with a locked parent (R306, R307): the one step of a device that leaves `free`, or a change of rate; four good ones
in a row lock. -/
def State.exchange (s : State) (p : Nat) (b : TimeBody) : State :=
  let two := twiceTheta (s.port p) b
  let s := { s with net := { s.net with theta := two / 2 } }
  if s.net.state = 0 ∧ !s.net.stepped ∧ s.sched.defaultLists ∧ 131072000 < two.natAbs then
    ({ s with net := { s.net with goodExchanges := 0, stepped := true }, clk := { s.clk with steer := 0 } }).stepTime (-(two / 2))
  else
    let good := if two.natAbs ≤ 262144 then s.net.goodExchanges + 1 else 0
    let s := { s with net := { s.net with goodExchanges := good }, clk := { s.clk with steer := steerFor (two / 2) } }
    if s.net.state = 1 ∨ 4 ≤ good then s.timeState 1 (b.distance + 1) else s

/-- A `TIME` cell of the time parent. -/
def State.parentCell (s : State) (p : Nat) (echoed : Bool) (b : TimeBody) : State :=
  let s := { s with net := { s.net with lastParentCell := s.clk.elapsed } }
  if !b.locked then ({ s with net := { s.net with goodExchanges := 0 } }).timeState 0 15
  else if echoed then s.exchange p b
  else s

/-- TIME (R305): the cell's times are kept for the answer; one of the parent ends an exchange when it echoes this device's last cell. -/
def execTime (p : Nat) (body : TimeBody) (s : State) : Out :=
  done (onUnit p 32 (fun s =>
    if (s.port p).state != .active then s
    else
      let s := (s.untilNt body.arrival).heard p
      let q := s.port p
      let echoed := q.timeSentAt.isSome && body.echo == q.timeSentSeq
      let g := s.timeImage
      let s :=
        if g.installed && !s.net.grandmaster && s.net.parent == p then s.parentCell p echoed body
        else if g.installed && g.backup == p then { s with net := { s.net with backupLocked := body.locked, lastBackupCell := s.clk.elapsed } }
        else s
      s.modPort p fun q => { q with timeEcho := body.seq % 16, timeTx := body.tTx, timeTxFrac := body.tTxFrac, timeRx := body.arrival,
                                    timeRxFrac := body.arrivalFrac }) s)

/-- TIME_CELL_SEND (R305): every 8 us, in any slot; the cell answers the last one received. -/
def execTimeCellSend (p : Nat) (s : State) : Out :=
  done (onUnit p 32 (fun s =>
    if (s.port p).state != .active then s
    else
      let s := match (s.port p).timeSentAt with
        | some t => s.untilElapsed (t + 8000)
        | none => s
      let q := s.port p
      let locked := s.net.state == 1 || s.net.grandmaster
      let body := natLE 1 (q.timeSeq + 16 * q.timeEcho) ++ natLE 8 s.clk.nt ++ natLE 2 s.clk.frac ++ natLE 8 q.timeRx ++ natLE 2 q.timeRxFrac ++
        natLE 1 (b2n locked) ++ natLE 1 s.net.distance
      (s.modPort p fun q => { q with
        timeT1 := q.timeTx, timeT1Frac := q.timeTxFrac, timeT2 := q.timeRx, timeT2Frac := q.timeRxFrac, timeT3 := s.clk.nt, timeT3Frac := s.clk.frac
        timeSentSeq := q.timeSeq, timeSeq := (q.timeSeq + 1) % 16, timeSentAt := some s.clk.elapsed }).sendControl p 4 body) s)

/-- PARENT_SILENCE_TIMEOUT (R307): 64 us without a cell of the parent; a backup parent heard as locked in that time takes its place. -/
def execParentSilenceTimeout (s : State) : Out :=
  done (
    let g := s.timeImage
    if !g.installed || s.net.grandmaster || s.net.state != 1 then s
    else
      let s := s.untilElapsed (s.net.lastParentCell + 64000)
      if g.backup < 32 && g.backup != s.net.parent && s.net.backupLocked && decide (s.clk.elapsed ≤ s.net.lastBackupCell + 64000) then
        { s with net := { s.net with parent := g.backup, lastParentCell := s.net.lastBackupCell } }
      else ({ s with net := { s.net with goodExchanges := 0 } }).timeState 2 15)

/-- HOLDOVER_EXPIRY (R307): after 8 ms. -/
def execHoldoverExpiry (s : State) : Out :=
  done (if s.net.state != 2 then s else (s.untilElapsed (s.net.holdoverSince + 8000000)).timeState 0 15)

/-! ## Throttling (R326-R328) -/

/-- The package power limit in force, in W (R3, Table 0.2). -/
def State.powerLimit (s : State) : Nat := if s.boot.envInForce = 1 then 1800 else if s.boot.envInForce = 2 then 1400 else 1000

/-- A cause of a chip-wide emergency is present (R326, R429, R444, R445). -/
def State.causeNow (s : State) : Bool :=
  s.sched.powerOver || s.bell.dieOver.any id || s.bell.failed.any (fun i => decide (i < 20)) || s.held

/-- A throttle event starts, changes level or ends: logged and raised (R328). -/
def State.throttleEvent (s : State) (what : Nat) : State := (s.log 0x0602 none none (natLE 1 s.sched.level ++ natLE 1 what)).rise 0x255

/-- Since when a cause has been present, and when one last was (R326). -/
def State.markCause (s : State) : State :=
  match s.causeNow, s.sched.causeSince with
  | true, none => { s with sched := { s.sched with causeSince := some s.clk.nt } }
  | false, some _ => { s with sched := { s.sched with causeSince := none, lastCause := some s.clk.nt } }
  | _, _ => s

/-- A cause has come or gone: one that is present raises an event, or extends the one in progress (R326). -/
def State.throttleCause (s : State) : State :=
  let s := s.markCause
  if !s.causeNow || s.sched.event then s
  else
      let s := { s with sched := { s.sched with event := true, eventPending := true, events := s.sched.events + 1,
                                                records := s.sched.records ++ [({ start := s.clk.nt } : ThrottleRec)] } }
      (s.throttleEvent 1).cxlEvent 1 1 noAddr 0

/-- The level of the event in progress. -/
def State.setLevel (s : State) (n : Nat) : State :=
  if s.sched.level = n then s
  else
    let i := s.sched.records.length - 1
    ({ s with sched := { s.sched with level := n, records := s.sched.records.modify i fun r => { r with deepest := max r.deepest n } } }).throttleEvent 2

/-- The package power over the last millisecond. -/
def State.withPower (s : State) (power : Nat) : State := { s with sched := { s.sched with powerOver := decide (s.powerLimit < power) } }

/-- THROTTLE_CAUSE (R326): `power` is the mean package power of the last 1 ms, in W. -/
def execThrottleCause (power : Nat) (s : State) : Out := done (s.withPower power).throttleCause

/-- The event in progress ends. -/
def State.endEvent (s : State) : State :=
  let i := s.sched.records.length - 1
  ({ s with sched := { s.sched with event := false, level := 0,
                                    records := s.sched.records.modify i fun r => { r with ended := some s.clk.nt } } }).throttleEvent 3

/-- Ten milliseconds of network time have passed since `t`. -/
def State.tenMs (s : State) (t : Nat) : Bool := decide (t + 10000000 ≤ s.clk.nt)

/-- THROTTLE_LEVEL_TICK (R326): at the next multiple of 10 ms of network time a cause present for the whole preceding 10 ms deepens the level,
and one absent for as long ends the event (log 141). -/
def execThrottleLevelTick (power : Nat) (s : State) : Out :=
  done (
    let s := ((s.untilNt ((s.clk.nt / 10000000 + 1) * 10000000)).withPower power).throttleCause
    if !s.sched.event || s.sched.eventPending then s
    else match s.sched.causeSince with
      | some t => if s.tenMs t then s.setLevel (min 3 (s.sched.level + 1)) else s
      | none => if (s.sched.lastCause.map s.tenMs).getD true then s.endEvent else s)

/-! ## Slot edges (R309, R315-R320) -/

/-- Before the edge of router list `k` into slot `next`: an Ember or a channel whose owner changes with an isolated-class context on
either side has ended its edge guard (R219, R316). -/
def State.leaveSlot (s : State) (k : Nat) (next : Slot) : State :=
  let crosses (j : Nat) : Bool :=
    let a := s.owner k j
    let b := next.owners.getD j ownerClosed
    a != b && (isoOwner a || isoOwner b)
  let chans := crosses resChannel
  let s := if crosses resEmber then s.edgeGuard k else s
  if chans then (s.edgeChan (2 * k)).edgeChan (2 * k + 1) else s

/-- A self-test of an Ember begins at the start of a maintenance slot (R225). -/
def State.beginTest (s : State) (k : Nat) : State :=
  if s.inMaint k resEmber && (s.ember k).state == .fenced && (s.ember k).testing.isSome then s.modEmber k fun e => { e with state := .testing }
  else s

/-- Channel `g` of tile `k` enters its slot: the work of a maintenance slot, which a frequency change of the stack in this slot puts off
(R67). -/
def State.slotWork (s : State) (k g : Nat) : State :=
  let s := s.modChan g fun c => { c with emergLogged := false }
  if !s.inMaint k resChannel || (s.chan g).changing.isSome || (s.changeDue (k / 16) && s.stackSlot k) then s
  else s.maintain g (8 * (s.slot k).len)

/-- After the edge: the incoming owner's runs are served, a maintenance slot's work is done, pooled answers whose turn has come are looked
up, a port sends again. -/
def State.enterSlot (s : State) (k : Nat) : State :=
  if k < 256 then
    let s := (s.edgeGuardEnd k).beginTest k
    let s := if s.changeStarts (k / 16) then s.beginChange (k / 16) else s
    ((s.slotWork k (2 * k)).slotWork k (2 * k + 1)).drainAnswers k |>.settleCalibrations
  else if k < 288 then (s.modPort (k - 256) fun q => { q with guard := false }).pump (k - 256)
  else s

/-- What happens at a cycle start: a waiting throttle event takes effect, and the isolated slots of the ports open again on a locked device
(R307, R326). -/
def State.cycleBegins (s : State) : State :=
  let s := if s.sched.eventPending then ({ s with sched := { s.sched with eventPending := false } }).setLevel 2 else s
  if s.sched.isoClosed && s.net.state == 1 then { s with sched := { s.sched with isoClosed := false } } else s

/-- GATE_SLOT_EDGE (R309): list `k` passes to its next entry; not in a supply episode (R429), and not at the T of a switch of gates, where the
switch itself starts the new version's first slot (R314). -/
def execGateSlotEdge (list : Nat) (s : State) : Out :=
  done (onUnit list 289 (fun s =>
    if s.held || s.switchesAtEdge list then s
    else
      let s := s.untilNt (s.nextEdge list)
      let l := s.gateList list
      let e := (s.listPos list).entry
      let n := if e + 1 < l.length then e + 1 else 0
      let s := if list < 256 then s.leaveSlot list (s.nextSlot list) else s
      let s := { s with sched := { s.sched with pos := Tab.set {} s.sched.pos list { entry := n } } }
      (if n = 0 then s.cycleBegins else s).enterSlot list) s)

/-- PORT_EDGE_GUARD (R319, R327): the last GATE_LINK_GUARD of the usable share. -/
def execPortEdgeGuard (p : Nat) (s : State) : Out :=
  done (onUnit p 32 (fun s =>
    if !s.guardedEdge (256 + p) 0 || s.held then s
    else ((s.untilNt (s.shareEnd (256 + p) - (s.port p).linkGuard)).modPort p fun q => { q with guard := true }).pump p) s)

/-- USABLE_SHARE_END (R327). -/
def execUsableShareEnd (list : Nat) (s : State) : Out :=
  done (onUnit list 289 (fun s =>
    if s.throttleLevel = 0 || s.held then s
    else
      let s := s.untilNt (s.shareEnd list)
      let s := { s with sched := { s.sched with pos := Tab.modify {} s.sched.pos list fun x => { x with shareEnded := true } } }
      if 256 ≤ list && decide (list < 288) then s.pump (list - 256) else s) s)

/-! ## Every list at once (R314, R432) -/

/-- The lists `A` leave their slots, the gate version changes, the lists `B` start from their first entry; `first k` is the slot that list
`k` enters. -/
def State.restartFor (s : State) (A B : List Nat) (first : Nat → Slot) (change : State → State) : State :=
  let s := A.foldl (fun (t : State) k => t.leaveSlot k (first k)) s
  let s := change { s with sched := { s.sched with pos := [] } }
  B.foldl (fun (t : State) k => t.enterSlot k) s.cycleBegins

/-- Every list starts from its first entry. -/
def State.restartLists (s : State) (first : Nat → Slot) (change : State → State) : State :=
  s.restartFor (List.range 256) (List.range 289) first change

/-- The other gate version becomes active (R314). -/
def State.switchGates (s : State) : State :=
  let v := s.sched.active
  let old := s.sched.versions.modify v fun (g : Gates) => { g with lastActive := if s.sched.defaultLists then g.lastActive else some s.clk.elapsed }
  ({ s with sched := { s.sched with active := 1 - v, defaultLists := false,
                                    versions := old.modify (1 - v) fun (g : Gates) => { g with fresh := false } } }).setParent

/-- The other route version becomes active (R295). -/
def State.switchRoutes (s : State) : State :=
  let v := s.routeActive
  ({ s with routeActive := 1 - v, routeSwitched := true,
            routes := s.routes.modify v fun (r : Routes) => { r with lastActive := if s.routeSwitched then some s.clk.elapsed else r.lastActive } }).setClasses

/-- EPOCH_SWITCH_AT_T (R295, R314): at T every list and every route changes version at once; the final reply follows. In a supply episode the
slots do not end (R429), so it comes after. -/
def execEpochSwitchAtT (s : State) : Out :=
  done (match s.sched.pendingT with
    | none => s
    | some t =>
      if s.held then s
      else
        let s := s.untilNt t
        let s := if s.sched.pendingRoutes then s.switchRoutes else s
        let next := s.sched.versions.getD (1 - s.sched.active) {}
        let s := if s.sched.pendingGates then s.restartLists (fun k => (next.list k).headD {}) State.switchGates else s
        let w := s.sched.pendingCmd
        let s := { s with sched := { s.sched with pendingT := none, pendingRoutes := false, pendingGates := false, pendingCmd := none } }
        match w.bind fun w => s.cmd w.1 w.2 with
        | some k => s.final k stOk (natLE 8 t ++ natLE 1 s.routeActive ++ natLE 1 s.sched.active)
        | none => s)

end Sys2Proof.Machine
end

