-- ==== Sys2Proof/Machine/Boot.lean ====
section
/-! DEFINITION. Resets, start-up, the partial reset of a Hearth, the supply warning band, the loss of a Hearth (chapters 1 and 14). -/

set_option Elab.async false

namespace Sys2Proof.Machine

/-! ## Full reset (R404-R406, R436) -/

/-- What fuses, flash and the always-on domain hold after a full reset: an envelope burn that it cuts short has burned some of its code
bits, which ones is free (R424; log 55); a firmware image it cuts short no longer verifies (R533). -/
def State.keptAfter (s : State) (d : Nat) : Kept :=
  let k := s.kept
  let k := match s.burning with
    | some code => { k with envBurned := k.envBurned ||| (code &&& (Config.freeByte d).toNat) }
    | none => k
  if s.diag.updating.isSome then { k with images := k.images.set (1 - k.bootArea) [] } else k

/-- A full reset: everything but Table 14.2 returns to its reset state. The number of the next free draw, the record of outputs and the
queue of commands are the model's own and stay. -/
def State.toReset (s : State) (cause : Nat) : State :=
  let (d, s) := s.draw
  { ({} : State) with
    kept := s.keptAfter d, draws := s.draws, outbox := s.outbox, pending := s.pending
    boot := { cause, inReset := true, powerCycle := cause == 0 } }

/-- POWER_ON_RESET (R404): all rails valid. -/
def execPowerOnReset (s : State) : Out := done (s.toReset 0)

/-- EXTERNAL_RESET (R404): SYS_RST_N low for 10 us. -/
def execExternalReset (s : State) : Out := done (s.toReset 1)

/-- SUPPLY_RESET (R428): VDD_CORE below 0.66 V for 50 ns. -/
def execSupplyReset (s : State) : Out := done (s.toReset 2)

/-- CLKRST_RESET (R404, Table 17.8): bit 0 with the key 0xD1. -/
def execClkrstReset (rd : Reader) (v : Reg) (s : State) : Out :=
  done (if s.mayWrite rd false && bit v.toNat 0 && bits v.toNat 8 8 == 0xD1 then s.toReset 3 else s)

/-- INTERNAL_RESET_RELEASE (R406, R409): 10 us after an external or host reset, 1 ms after a supply reset; step 1 begins. The envelope
of a sealed field is in force (R3). VDD_CORE reads its nominal value (log 54). -/
def execInternalResetRelease (s : State) : Out :=
  done (
    if !s.boot.inReset then s
    else
      let s := s.untilElapsed (match s.boot.cause with | 0 => 0 | 2 => 1000000 | _ => 10000)
      { s with clk := { s.clk with nt := 0, frac := 0, steer := 0 }
               boot := { s.boot with inReset := false, step := 1, envInForce := if s.kept.envSealed then s.kept.envBurned else 0,
                                     vcore := [750, 750, 750, 750], lowest := 750 } })

/-! ## Kindling and the flash records (R339, R340, R410, R411, Table 14.6) -/

/-- An image fails a unit's checks: logged. -/
def State.kindlingFail (s : State) (u image : Nat) : State := s.log 0x0901 none none (natLE 1 u ++ natLE 1 image)

/-- Unit `u` runs image `x` of an area. -/
def State.unitLoads (s : State) (u area : Nat) (x : ImageCheck) (backup : Bool) : State :=
  s.modCu u fun c => { c with svn := x.svn, format := x.stateFormat, digest := x.digest, tables := x.tables, area, passed := true, backup, verified := true }

/-- Unit `u` verifies the boot image, and the backup image where that fails. -/
def State.verifyUnit (s : State) (u : Nat) : State :=
  let a := s.kept.bootArea
  let primary := imageCheck (s.kept.images.getD a [])
  let backup := imageCheck (s.kept.images.getD (1 - a) [])
  let floor := s.kept.svnFloor
  if imageOk primary floor then s.unitLoads u a primary false
  else
    let s := s.kindlingFail u 0
    if imageOk backup floor then s.unitLoads u (1 - a) backup true
    else ((s.kindlingFail u 1).modCu u fun c => { c with verified := true }).cuState u .failed

/-- The wear record with the highest sequence number (R451). -/
def newestRecord (l : List WearRec) : Option WearRec :=
  l.foldl (fun (b : Option WearRec) r =>
    match b with
    | some x => if x.seq < r.seq then some r else b
    | none => some r) none

/-- Wear counters, and the lifetime seconds where VDD_AON was lost, from the newest record (R448, R451). -/
def State.loadWear (s : State) : State :=
  let s := match newestRecord s.kept.wear with
    | some r => { s with bell := { s.bell with wear := r.wear, ckptSeq := r.seq, ckptSlot := (r.slot + 1) % 256 }
                         kept := { s.kept with lifeSeconds := if s.kept.aonLost then r.life else s.kept.lifeSeconds } }
    | none => s
  { s with bell := { s.bell with aonLost := s.kept.aonLost }, kept := { s.kept with aonLost := false } }

/-- Retirement records (Table 14.6, R98, R227, R492). -/
def State.applyRetirements (s : State) : State :=
  let s := s.kept.retiredChans.foldl (fun t g =>
    (List.range 12).foldl (fun t i => t.modCord (12 * g + i) fun c => { c with state := .retired }) (t.modChan g fun c => { c with state := .retired })) s
  let s := s.kept.retiredEmbers.foldl (fun t e => t.modEmber e fun x => { x with retired := true, state := .fenced }) s
  s.kept.retiredPorts.foldl (fun t p => t.modPort p fun q => { q with retired := true }) s

/-- Every unit has been through Kindling: nobody passed, or the first in rank takes the token with claim 1 and step 3 is done. -/
def State.kindlingEnds (s : State) : State :=
  match s.triplex.rank.find? fun u => (s.cu u).passed with
  | none => { s with boot := { s.boot with halted := true }, triplex := { s.triplex with holder := none } }
  | some u =>
    let s := { s with triplex := { s.triplex with holder := some u, claim := 1, leaseEnd := s.clk.elapsed + 4000, renewAt := s.clk.elapsed + 1000 } }
    let s := if s.engineLost then s else s.issueAttest
    let s := ((s.routeOwned u).applyRetirements).loadWear
    { s with boot := { s.boot with step := 4 } }

/-- KINDLING_VERIFY (R339): a unit verifies the boot image, or the backup image. -/
def execKindlingVerify (unit : Nat) (s : State) : Out :=
  done (onUnit unit 3 (fun s =>
    if s.boot.inReset || (s.boot.step != 1 && s.boot.step != 2) || (s.cu unit).verified || s.held || s.boot.halted then s
    else
      let s := if s.boot.step = 1 then
          { s with boot := { s.boot with step := 2 }, kept := { s.kept with bootCount := (s.kept.bootCount + 1) % 2 ^ 32 } }
        else s
      let s := s.verifyUnit unit
      if s.triplex.units.all fun (c : Cu) => c.verified || c.state == CuState.lost then s.kindlingEnds else s) s)

/-! ## Tiles, tables, stacks (R413-R416) -/

/-- A tile's Ember and channels are fenced whole; a retired channel stays so. -/
def State.fenceTile (s : State) (t : Nat) : State :=
  let stop (s : State) (g : Nat) : State := if (s.chan g).state == .retired then s else s.stopChan g
  ((stop (stop s (2 * t)) (2 * t + 1)).modEmber t fun e => { e with state := .fenced }).rise (srcMemSvc t)

/-- TILE_WAVE (R413): wave `w`, 50 us after the one before. -/
def execTileWave (w : Nat) (s : State) : Out :=
  done (
    if s.boot.inReset || s.boot.step != 4 || s.boot.waves != w || 8 ≤ w || s.held then s
    else
      let s := if w = 0 then s else s.untilElapsed (s.boot.waveAt + 50000)
      let tiles := (List.range 256).filter fun t => t % 64 / 8 == w && !s.hearthLost (tileHearth t)
      let s := tiles.foldl (fun (t : State) i => t.modEmber i fun e => { e with poweredOff := false }) s
      { s with boot := { s.boot with waves := w + 1, waveAt := s.clk.elapsed } })

/-- TILE_POWER_GOOD_TIMEOUT (R413): a tile of the last wave without power-good after 40 us is fenced whole. -/
def execTilePowerGoodTimeout (tile : Nat) (s : State) : Out :=
  done (onUnit tile 256 (fun s =>
    if s.boot.inReset || s.boot.step != 4 || s.boot.waves != tile % 64 / 8 + 1 || s.hearthLost (tileHearth tile) || s.held ||
        ((s.chan (2 * tile)).state == .fenced && (s.ember tile).state == .fenced) then s
    else
      let s := (s.untilElapsed (s.boot.waveAt + 40000)).fenceTile tile
      { s with boot := { s.boot with tilesFenced := min 255 (s.boot.tilesFenced + 1) } }.log 0x0403 none none (natLE 1 tile)) s)

/-- DECODE_TABLE_BROADCAST (R414): the tiles whose CRC fails on the first sending and on the repeat; both fence the tile's Ember. -/
def execDecodeTableBroadcast (first second : List Nat) (s : State) : Out :=
  done (
    if s.boot.inReset || s.boot.step != 4 || s.boot.waves != 8 || s.held then s
    else
      let s := s.untilElapsed (s.boot.waveAt + 40000)
      let bad := ((multicast (cuRouter (s.triplex.holder.getD 0)) (List.range 256)).map (·.1)).filter fun t => first.contains t && second.contains t && !s.hearthLost (tileHearth t)
      let s := bad.foldl (fun (t : State) i => (t.modEmber i fun e => { e with state := .fenced }).log 0x0404 none none (natLE 1 i)) s
      { s with boot := { s.boot with step := 6 } })

/-- The order of training (R415). -/
def trainOrder : List Nat := [0, 4, 8, 12, 1, 5, 9, 13, 2, 6, 10, 14, 3, 7, 11, 15]

/-- The next stack to be trained; those of a lost Hearth are skipped (R436). -/
def State.nextStack (s : State) : Option Nat := (trainOrder.drop s.boot.stacksDone).find? fun k => !s.hearthLost (k / 4)

/-- Step 6 ends when no stack is left. -/
def State.trainingEnds (s : State) : State :=
  if s.boot.step = 6 ∧ s.nextStack = none then { s with boot := { s.boot with step := 7 } } else s

/-- A channel after its stack's training: in service with an empty bitmap and its periods started, or fenced. -/
def State.trainChan (s : State) (g : Nat) (failed : Bool) : State :=
  match (s.chan g).state with
  | .retired | .fenced => s
  | _ =>
    if failed then s.fenceChan g 3
    else s.modChan g fun c =>
      { c with trained := true, refDebt := 0, debtNext := s.clk.elapsed + 3906, zqLast := s.clk.elapsed, rtLast := s.clk.elapsed,
               rtTemp := s.dieTemp (chanStack g) }

/-- STACK_TRAINING_DONE (R415): `failed`: the channels of the stack that fail training or the read-back. -/
def execStackTrainingDone (stack : Nat) (failed : List Nat) (s : State) : Out :=
  done (
    if s.boot.inReset || s.boot.step != 6 || s.nextStack != some stack || s.held then s
    else
      let s := (List.range 32).foldl (fun (t : State) c => t.trainChan (32 * stack + c) (failed.contains c)) s
      { s with boot := { s.boot with stacksDone := (trainOrder.findIdx? (· == stack)).getD 0 + 1 } }.trainingEnds)

/-! ## Partial reset of a Hearth (R425-R427) -/

/-- A port enters `hold` and says so (R274). -/
def State.holdPort (s : State) (p cause : Nat) : State :=
  if (s.port p).state == .active then
    (s.modPort p fun q => { q with state := .hold, holdCause := cause, enteredAt := s.clk.elapsed }).sendControl p 3 (natLE 1 cause) |>.pump p
  else s

/-- The ports of a Hearth. -/
def hearthPorts (h : Nat) : List Nat := (List.range 8).map (8 * h + ·)
/-- The tiles, channels and cords of a Hearth. -/
def hearthTiles (h : Nat) : List Nat := (List.range 64).map (64 * h + ·)
def hearthChans (h : Nat) : List Nat := (List.range 128).map (128 * h + ·)
def hearthCords (h : Nat) : List Nat := (List.range 1536).map (1536 * h + ·)

/-- The unit of an armed ERR injection lies on Hearth `h` (Table 17.16). -/
def State.injOn (s : State) (h : Nat) : Bool :=
  let u := s.diag.injUnit
  s.diag.injArm && (match s.diag.injKind with
    | 1 | 4 => tileHearth u == h
    | 2 | 6 | 7 => u == h
    | 11 => portHearth u == h
    | _ => false)

/-- Arms of a Hearth's injection points clear (Table 17.16). -/
def State.clearArms (s : State) (h : Nat) : State :=
  let s := (hearthChans h).foldl (fun (t : State) g => if (t.chan g).injArm then t.modChan g fun c => { c with injArm := false } else t) s
  let s := (hearthTiles h).foldl (fun (t : State) i => if (t.ember i).injArm then t.modEmber i fun e => { e with injArm := false } else t) s
  if s.injOn h then { s with diag := { s.diag with injArm := false } } else s

/-- Steps 1 to 3 of Table 14.8. -/
def State.startPartial (s : State) (h : Nat) : State :=
  let out := (hearthTiles h).filter fun t => !(s.ember t).inService
  let s := { s with boot := { s.boot with hresetPending := s.boot.hresetPending.filter (· != h)
                                          hreset := some { hearth := h, startedAt := s.clk.elapsed, out } } }
  let s := (hearthPorts h).foldl (fun (t : State) p => t.holdPort p 1) s
  let s := (hearthTiles h).foldl (fun (t : State) i => if out.contains i then t else t.fenceEmber i) s
  let s := (s.modFaultQ h fun q => { q with slots := [], unread := [], raised := [], stall := [], rewalk := false, full := false }).clearArms h
  let s := s.endWaits fun m => tileHearth (homeTile (m.dpa / 64)) == h
  (hearthCords h).foldl (fun (t : State) n => t.recallCord n) s

/-- The next request that waits starts when none runs and the device is ready. -/
def State.nextHreset (s : State) : State :=
  match s.boot.hreset, s.boot.hresetPending with
  | none, h :: _ => if s.ready then s.startPartial h else s
  | _, _ => s

/-- A request for a partial reset: ignored for a Hearth that waits, is under one, or is lost. -/
def State.askPartial (s : State) (h : Nat) : State :=
  if s.boot.hresetPending.contains h || (s.boot.hreset.map fun (r : PartialReset) => r.hearth) == some h || s.hearthLost h then s
  else { s with boot := { s.boot with hresetPending := s.boot.hresetPending ++ [h] } }.nextHreset

/-- CLKRST_HRESET (R425). -/
def execClkrstHreset (rd : Reader) (v : Reg) (s : State) : Out :=
  done (if s.mayWrite rd false then ((List.range 4).filter fun h => bit v.toNat h).foldl (fun (t : State) h => t.askPartial h) s else s)

/-- FIRMWARE_READY (R409, R416, R451): step 7 ends; a power-on is counted before the first checkpoint is due. -/
def execFirmwareReady (s : State) : Out :=
  done (
    if s.boot.inReset || s.boot.step != 7 || s.held then s
    else
      let w := s.bell.wear
      { s with boot := { s.boot with step := 8, ready := true, powerCycle := false }
               cxl := { s.cxl with mediaReady := true }
               bell := { s.bell with wear := { w with powerCycles := if s.boot.powerCycle then satInc 32 w.powerCycles else w.powerCycles }
                                     ckptDue := true, ckptDueAt := s.clk.elapsed, ckptTries := 0 } }.nextHreset)

/-- The homes, channels and Embers of a Hearth have nothing left to do. -/
def State.hearthQuiet (s : State) (h : Nat) : Bool :=
  let here (l : Nat) : Bool := tileHearth (homeTile l) == h
  !(s.dir.any fun p => here p.1) && !(s.locks.any fun p => here p.1) && !(s.syncWaits.any fun w => here (w.req.dpa / 64)) &&
  !(s.wayWait.any fun p => tileHearth (p.1 / 16384) == h) &&
  !((s.tripWrites ++ s.tripReads).any fun m => here (m.dpa / 64)) &&
  ((hearthChans h).all fun g =>
    let c := s.chan g
    c.waiting == [] && c.reads == [] && c.granted == [] && c.partials == [] && c.filling == []) &&
  (hearthTiles h).all fun t => (s.ember t).run.isNone && (s.ember t).queue == []

/-- A controller after the reset: its registers at reset values, its timing sets, its cords' and records' state kept (R425; log 56). -/
def Chan.afterPartial (c : Chan) (now : Nat) : Chan :=
  { ({} : Chan) with
    state := c.state, trained := c.trained, banked := c.banked, changing := c.changing, margin := c.margin, activePoint := c.activePoint, shadowPoint := c.shadowPoint, poisoned := c.poisoned, guard := c.guard
    refDebt := c.refDebt, debtNext := now + 3906, zqLast := c.zqLast, rtLast := c.rtLast, rtTemp := c.rtTemp, zqDue := c.zqDue, rtDue := c.rtDue,
    zqDueAt := c.zqDueAt, rtDueAt := c.rtDueAt, calZq := c.calZq,
    calRt := c.calRt, calCmds := c.calCmds, ceSinceReset := c.ceSinceReset, ceLastHour := c.ceLastHour, ceThisHour := c.ceThisHour,
    ueSinceReset := c.ueSinceReset, addrSinceReset := c.addrSinceReset, cinderSinceReset := c.cinderSinceReset, mergeSinceReset := c.mergeSinceReset,
    retiring := c.retiring, retireCords := c.retireCords, retireMoved := c.retireMoved, retireCinder := c.retireCinder }

/-- Merge buffers and bitmap cache written back, then the controller's reset. -/
def State.resetChan (s : State) (g : Nat) : State :=
  let s := s.flushAll g
  let s := ((s.chan g).bmCache.filter (·.dirty)).foldl (fun (t : State) b => t.bitmapWrite g b.idx) s
  s.modChan g fun c => c.afterPartial s.clk.elapsed

/-- Steps 4 to 7 of Table 14.8. -/
def State.endPartial (s : State) (r : PartialReset) : State :=
  let s := s.untilElapsed (r.startedAt + 60000)
  let h := r.hearth
  let s := (hearthChans h).foldl (fun (t : State) g => t.resetChan g) s
  let s := (hearthTiles h).foldl (fun (t : State) i =>
    (t.modSlice i fun x => { ({} : Slice) with wayShared := x.wayShared }).modEmber i fun e =>
      if r.out.contains i then e
      else { ({} : Ember) with poweredOff := false, guard := e.guard, state := if e.guard then .switching else .idle }) s
  let s := s.modFaultQ h fun _ => {}
  let s := { s with boot := { s.boot with hreset := none } }
  let s := (hearthPorts h).foldl (fun (t : State) p => if (t.port p).state == .hold then t.portUp p else t) s
  (s.log 0x0903 none none (natLE 1 h ++ natLE 4 (toMicros (s.clk.elapsed - r.startedAt)))).nextHreset

/-- PARTIAL_RESET_COMPLETE (R426): once every line is recalled and every queue drained; it pauses in a supply episode (R436). -/
def execPartialResetComplete (s : State) : Out :=
  done (match s.boot.hreset with
    | none => s
    | some r => if s.held || !s.hearthQuiet r.hearth then s else s.endPartial r)

/-! ## Envelope (R423, R424) -/

/-- CLKRST_ENVELOPE takes a value: a code that agrees with the bits already burned, with the key; not a sealed field, nor one whose burn
runs. -/
def State.burnEnvelope (s : State) (v : Nat) : State :=
  let code := bits v 0 2
  if bits v 8 8 == 0xE7 && code != 0 && !s.kept.envSealed && s.burning.isNone && (s.kept.envBurned &&& code) == s.kept.envBurned then
    { s with burning := some code }
  else s

/-- CLKRST_ENVELOPE (R423): only a host write over the CXL port. -/
def execClkrstEnvelope (rd : Reader) (v : Reg) (s : State) : Out :=
  done (if rd == .host && s.reached rd false then s.burnEnvelope v.toNat else s)

/-- ENVELOPE_BURN_DONE (R423): code and seal are burned; not in a supply episode (R436). -/
def execEnvelopeBurnDone (s : State) : Out :=
  done (
    match s.burning with
    | some code => if s.held then s else { s with burning := none, kept := { s.kept with envBurned := code, envSealed := true } }
    | none => s)

/-! ## The supply warning band (R428-R432) -/

/-- A reading of VDD_CORE at a Hearth, in mV. -/
def State.reading (s : State) (h mv : Nat) : State :=
  let v := s.boot.vcore.set h mv
  let low := v.foldl min mv
  { s with boot := { s.boot with
      vcore := v, droop := s.boot.droop.modify h fun d => max d (750 - mv), lowest := low, lowHearth := (v.findIdx? (· == low)).getD h } }

/-- The warning level is met at Hearth `h`: an episode begins, or its release is taken back (R428, R429). -/
def State.supplyWarning (s : State) (h mv : Nat) : State :=
  let s := s.reading h mv
  match s.boot.episode with
  | some e => { s with boot := { s.boot with episode := some { e with released := none } } }
  | none =>
    let s := { s with boot := { s.boot with episode := some { startedAt := s.clk.elapsed }, episodes := satInc 16 s.boot.episodes } }
    let s := (s.rise 0x25A).cxlEvent 1 1 noAddr 0
    let s := (List.range 32).foldl (fun (t : State) p => t.holdPort p 2) s
    s.throttleCause

/-- SUPPLY_WARNING_DETECT (R428): Hearth `h` has read `mv` millivolts, below 700, for 100 ns. -/
def execSupplyWarningDetect (h mv : Nat) (s : State) : Out :=
  done (if s.boot.inReset || 700 ≤ mv || 4 ≤ h then s else s.supplyWarning h mv)

/-- SUPPLY_BANK_TIMER (R80, R430): 2 ms into an episode every stack enters `banked`, its accesses in progress complete and its merge buffers
flushed. -/
def execSupplyBankTimer (s : State) : Out :=
  done (match s.boot.episode with
    | none => s
    | some e =>
      if e.banked || e.released.isSome then s
      else
        let s := s.untilElapsed (e.startedAt + 2000000)
        let s := (s.chans.map Prod.fst).foldl (fun t g => t.drainChan g) s
        let s := (List.range 512).foldl (fun (t : State) g => t.modChan g fun c => { c with banked := true, openRows := [] }) s
        ({ s with boot := { s.boot with episode := some { e with banked := true } } }.rise 0x25B).cxlEvent 1 1 noAddr 0)

/-- SUPPLY_RELEASE (R431): above 0.71 V for 100 ns, or for 100 us when the stacks are banked; these then leave `banked`, meet the exit time
and are calibrated, 2.9 us in all. The readings are back at nominal (log 54). -/
def execSupplyRelease (s : State) : Out :=
  done (match s.boot.episode with
    | none => s
    | some e =>
      if e.released.isSome then s
      else
        let s := s.untilElapsed s.boot.heldUntil
        let s := { s with boot := { s.boot with vcore := [750, 750, 750, 750], lowest := 750, lowHearth := 0 } }
        let s := if e.banked then
            let s := s.pass (100000 + 2900)
            let s := (List.range 512).foldl (fun (t : State) g => t.modChan g fun c =>
              if c.changing.isSome then c
              else { c with banked := false, zqLast := s.clk.elapsed, rtLast := s.clk.elapsed, rtTemp := s.dieTemp (chanStack g),
                            zqDue := false, rtDue := false }) s
            (s.chans.map Prod.fst).foldl (fun t g => t.serveChan g) s
          else s.pass 100
        { s with boot := { s.boot with episode := some { e with released := some s.clk.elapsed } } })

/-- The first cycle start of the lists in force at or after network time `t`. -/
def State.cycleAt (s : State) (t : Nat) : Nat :=
  let cyc := 8 * s.gateCycle
  let off := (t + cyc * 8 * s.gatePhase - 8 * s.gatePhase) % cyc
  if off = 0 then t else t + (cyc - off)

/-- SUPPLY_EPISODE_END (R432): at the first cycle start at least 10 us after the release and after the last stack is ready. -/
def execSupplyEpisodeEnd (s : State) : Out :=
  done (match s.boot.episode with
    | none => s
    | some e =>
      match e.released with
      | none => s
      | some r =>
        let s := s.untilElapsed (r + 10000)
        let s := s.untilNt (s.cycleAt s.clk.nt)
        let len := s.clk.elapsed - e.startedAt
        let us := toMicros len
        let s := { s with grants := s.grants.map fun (g : Grant) => { g with expiry := g.expiry + len }
                          boot := { s.boot with episode := none, episodeLastLen := min (2 ^ 24 - 1) us, episodeLastBanked := e.banked } }
        let s := s.restartLists (fun k => (s.gateList k).headD {}) fun (t : State) => t
        let s := (List.range 32).foldl (fun (t : State) p => if (t.port p).state == .hold then t.portUp p else t) s
        let s := s.log 0x0904 none none (natLE 4 us ++ natLE 1 (b2n e.banked))
        (s.cxlEvent 1 1 noAddr 0).throttleCause)

/-- CLOCK_PRESENCE_CHANGE (R526, R535): a domain's bit of CLKRST_PLL; no other action. -/
def execClockPresenceChange (domain : Nat) (running : Bool) (s : State) : Out :=
  done (if 1 ≤ domain ∧ domain ≤ 18 then { s with boot := { s.boot with pll := s.boot.pll.set (domain - 1) running } } else s)

/-! ## Loss of a Hearth (R23, R57, R378, Table 1.9) -/

/-- The commands and windows of a lost stage: what it had not handed over is lost without replies (R57). -/
def State.loseStage (s : State) (h : Nat) : State :=
  let lost (c : Nat) : Bool := s.stageOf c == h
  let s' := { s with cmds := s.cmds.filter fun (k : Cmd) => !(k.phase == CmdPhase.waiting && lost k.ctx),
                     windows := s.windows.filter fun (p : Nat × List WinEntry) => !lost p.1 }
  s'.modStage h fun x => { x with alive := false }

/-- A request open at a lost home ends with `RETIRED`; an answer or a sweep there is lost with it (R23, R378). -/
def State.loseReq (s : State) (m : Req) : State :=
  match m.op with
  | .rspData | .rspAck | .rspNone | .recall | .downgrade | .inv => s
  | _ => s.finish m .err 5 0 []

/-- A read waiting there for a word ends likewise; an Ember's descriptor ends with the memory error. -/
def State.loseWait (s : State) (w : SyncWait) : State :=
  match w.req.src with
  | some _ => s.loseReq w.req
  | none =>
    let t := w.req.txn
    match (s.ember t).run with
    | some r => (s.modEmber t fun e => { e with state := if e.state == .waiting then .running else e.state }).runError t (errOfReason 5 (dSync (s.descOf r)))
    | none => s

/-- The homes of a lost Hearth: entries, locks, queues, pools and waits (R378). -/
def State.loseHomes (s : State) (h : Nat) : State :=
  let here (l : Nat) : Bool := tileHearth (homeTile l) == h
  let queued := s.locks.flatMap fun (p : Nat × Option Lock) => if here p.1 then (p.2.map fun (k : Lock) => k.queue).getD [] else []
  let pooled := s.answerWait.flatMap fun (p : Nat × List Req) => p.2.filter fun m => here (m.dpa / 64)
  let waits := s.syncWaits.filter fun w => here (w.req.dpa / 64)
  let s := { s with
    dir := s.dir.filter fun (p : Nat × Option DirEnt) => !here p.1
    locks := s.locks.filter fun (p : Nat × Option Lock) => !here p.1
    wayWait := s.wayWait.filter fun (p : Nat × List Req) => !(tileHearth (p.1 / 16384) == h)
    answerWait := Tab.mapVals [] s.answerWait fun (l : List Req) => l.filter fun m => !here (m.dpa / 64)
    syncWaits := s.syncWaits.filter fun w => !here (w.req.dpa / 64)
    tripWrites := s.tripWrites.filter fun m => !here (m.dpa / 64)
    tripReads := s.tripReads.filter fun m => !here (m.dpa / 64)
    resends := s.resends.filter fun e => !(tileHearth e.slice == h) }
  let s := (queued ++ pooled).foldl (fun (t : State) m => t.loseReq m) s
  waits.foldl (fun (t : State) w => t.loseWait w) s

/-- A triplet homed on a lost Hearth is homed at its next surviving cord (R378). -/
def State.passHomes (s : State) : State :=
  let gone (n : Nat) : Bool := s.hearthLost (chanHearth (cordChan n))
  let order (l : List Nat) : List Nat := if 1 < l.length then (l.filter fun n => !gone n) ++ l.filter gone else l
  { s with gmap := Tab.mapVals [] s.gmap order
           regions := Tab.mapVals none s.regions fun (r : Option Region) => r.map fun (x : Region) => { x with granules := x.granules.map order } }

/-- The blocks of Table 1.3 on a lost Hearth (Table 1.9). -/
def State.loseBlocks (s : State) (h : Nat) : State :=
  let s := if h < 3 then s.cuState h .lost else s
  let s := if h = 0 then { s with cxl := { s.cxl with linkUp := false, rate := 0, width := 0 } } else s
  if h = 2 then { s with bell := { s.bell with undriven := true }, sec := { s.sec with jtagLevel := 0, challenge := none } } else s

/-- HEARTH_LOST (R23): firmware fences a Hearth. -/
def execHearthLost (h : Nat) (s : State) : Out :=
  done (
    if s.boot.inReset || s.hearthLost h || 4 ≤ h then s
    else
      let s := { s.loseStage h with boot := { s.boot with lostHearths := s.boot.lostHearths ++ [h], hresetPending := s.boot.hresetPending.filter (· != h)
                                                          hreset := if (s.boot.hreset.map fun (r : PartialReset) => r.hearth) == some h then none else s.boot.hreset } }
      let s := (s.log 0x0902 none none (natLE 1 h)).rise 0x259
      let s := s.cxlEvent 2 1 noAddr 0
      let s := s.loseHomes h
      let s := (hearthTiles h).foldl (fun (t : State) i => t.fenceEmber i) s
      let s := (hearthChans h).foldl (fun (t : State) g =>
        (if (t.chan g).state == .retired then t else (t.stopChan g).flushAll g).modChan g fun c =>
          { c with waiting := [], reads := [], granted := [], partials := [], filling := [], bmCache := [] }) s
      let s := (hearthPorts h).foldl (fun (t : State) p => t.linkDown p) s
      let s := s.modFaultQ h fun _ => {}
      let s := (s.passHomes.loseBlocks h).settleCords
      s.settleCalibrations.trainingEnds.nextHreset)

end Sys2Proof.Machine
end

