-- ==== Sys2Proof/Machine/CxlPort.lean ====
section
/-! DEFINITION. The CXL port: link and resets, memory requests of the host, mailbox, DOE (chapters 11 and 13). Byte layouts of replies are
those of CXL, DMTF and PCI standards; the model holds their contents (log 37). -/

set_option Elab.async false

namespace Sys2Proof.Machine

/-! ## Link and resets (R381, R382, R395) -/

/-- The highest of three grades that the partner reaches; none below the lowest. -/
def gradeOf (v a b c : Nat) : Option Nat := if a ≤ v then some a else if b ≤ v then some b else if c ≤ v then some c else none

/-- CXL_LINK_TRAINED (R382): the partner's highest rate in GT/s, its widest width, its flit mode. -/
def execCxlLinkTrained (rate width : Nat) (flit256 : Bool) (s : State) : Out :=
  done (
    if s.boot.inReset || s.hearthLost 0 || !flit256 then s
    else match gradeOf rate 64 32 16, gradeOf width 16 8 4 with
      | some r, some w => { s with cxl := { s.cxl with linkUp := true, rate := r, width := w } }
      | _, _ => s)

/-- The link is down; what the host holds follows from the recalls' time-outs (R389). -/
def State.cxlDown (s : State) : State := { s with cxl := { s.cxl with linkUp := false, rate := 0, width := 0 } }

/-- CXL_LINK_DOWN (R389). -/
def execCxlLinkDown (s : State) : Out := done s.cxlDown

/-- MSI-X table and mailbox cleared; a running mailbox command is aborted (Table 13.8). -/
def Cxl.cleared (c : Cxl) : Cxl :=
  { c with msixTable := List.replicate 24 0, msixMasked := List.replicate 8 true, msixPending := List.replicate 8 false,
           release := none, mbIrq := false, doeIrq := false }

/-- PERST_HOT_RESET (R395): the link retrains; configuration space, BARs, decoders and MSI-X return to reset values. -/
def execPerstHotReset (s : State) : Out :=
  done (
    if s.boot.inReset then s
    else
      { s.cxlDown with cxl := { s.cxlDown.cxl.cleared with busMaster := false, bars := List.replicate 6 0, decoders := List.replicate 8 {},
                                                           msixEnabled := false } })

/-- A completion at the claiming target (Table 13.10): a counter that holds 255 is not lowered. -/
def Src.complete (x : Src) : Src :=
  if x.count = 0 then { x with state := .idle } else { x with state := .pending, count := if x.count = 255 then 255 else x.count - 1 }

/-- FLR (R395, R402): sources active at targets 0-3 are completed; decoders, BARs and links are kept. -/
def execFlr (s : State) : Out :=
  done (
    if s.boot.inReset || !s.cxl.linkUp then s
    else
      let s := { s with cxl := s.cxl.cleared }
      s.withIntc { s.intc with srcs := Tab.mapVals {} s.intc.srcs fun (x : Src) => if x.state = .active ∧ x.claimer < 4 then x.complete else x })

/-! ## Memory requests of the host (R178, R385-R388) -/

/-- Device-side address of an offset in decoder `d` whose range starts at capacity address `base`. -/
def Decoder.capacity (d : Decoder) (base off : Nat) : Nat := base + off / (d.granularity * d.ways) * d.granularity + off % d.granularity

/-- Capacity address of a host physical address by the committed decoders, in order; `c` is where the next decoder's range starts. -/
def decodeHpa (hpa : Nat) : List Decoder → Nat → Option Nat
  | [], _ => none
  | d :: t, c =>
    if !d.committed then none
    else if d.base ≤ hpa ∧ hpa < d.base + d.size then some (d.capacity (c + d.skip) (hpa - d.base))
    else decodeHpa hpa t (c + d.skip + d.size / d.ways)

/-- The host has accepted an extent of that capacity address; a forced release leaves it in place until the host releases it (R133, R388). -/
def State.accepted (s : State) (c : Nat) : Bool :=
  s.grants.any fun g => g.holder == 4096 && g.accepted && (!g.tombstone || g.forced) &&
    (s.extents g).any fun e => decide (e.base ≤ c) && decide (c < e.base + e.len)

/-- The request that a CXL.mem message makes at the CXL stamping point. -/
def State.hostReq (s : State) (c : Nat) (op : HostMemOp) : Req :=
  let m : Req := { src := some 0x7FFF, holder := 4096, point := 288, txn := s.nextOrder % 2 ^ 32, addr := c / 64 * 64, entered := s.nextOrder,
                   lastPending := s.clk.elapsed }
  match op with
  | .readShared => { m with op := .rdShared }
  | .readOwn => { m with op := .rdOwn }
  | .readCur => { m with op := .rdCur }
  | .writeLine d => { m with op := .wrInv, data := padTo 64 d }
  | .writePart o d => { m with op := .wrPart, addr := c / 64 * 64 + o % 64, aux := min d.length (64 - o % 64), data := placed (o % 64) d }
  | .writeBack d => { m with op := .wb, data := padTo 64 d }

/-- CXL_MEM_REQUEST (R388): an address that no decoder maps, and one outside every accepted extent, is refused; an owner's write-back goes
to the home, any other request to the stamping point. -/
def execCxlMemRequest (hpa : Nat) (op : HostMemOp) (s : State) : Out :=
  done (
    if s.boot.inReset || !s.cxl.linkUp then s
    else match decodeHpa hpa s.cxl.decoders 0 with
      | none => s.endAtPoint (s.hostReq hpa op) 9
      | some c =>
        let m := s.hostReq c op
        let t := { s with nextOrder := s.nextOrder + 1 }
        match m.op, s.resolve m.pool with
        | .wb, some (r, dpa) => t.toHome { m with region := r, dpa }
        | _, _ =>
          if s.accepted c then { t with stampQ := Tab.modify [] t.stampQ 288 (· ++ [m]) }
          else s.endAtPoint m 9)

/-! ## The mailbox (R390-R392) -/

/-! Return codes of CXL mailbox commands (log 37). -/
def mbOk : Nat := 0
def mbBackground : Nat := 1
def mbInvalid : Nat := 2
def mbUnsupported : Nat := 3
def mbBusy : Nat := 6
def mbBadHandle : Nat := 0xE

/-- The mailbox is reached. -/
def State.mailboxOn (s : State) : Bool := !s.boot.inReset && s.cxl.linkUp

/-- A mailbox command completes, with vector 4 where the host asked for it. -/
def State.mbDone (s : State) (code : Nat) (r : MbReply) : State :=
  let s := s.emit (.mailbox code r)
  if s.cxl.mbIrq then s.msix 4 else s

/-- A mailbox command: `f` where the mailbox is reached. -/
def State.onMailbox (s : State) (f : State → State) : State := if s.mailboxOn then f s else s

/-- GET_EVENT_RECORDS (R392): the oldest records, as many as the payload of 2 KiB holds. -/
def execGetEventRecords (log : Nat) (s : State) : Out :=
  done (s.onMailbox fun s =>
    match s.cxl.logs[log]? with
    | some l => s.mbDone mbOk (.events log (l.records.take 15) l.overflow l.dropped)
    | none => s.mbDone mbInvalid .nothing)

/-- CLEAR_EVENT_RECORDS (R392): the records named, all of them where none is named; room in the log ends its overflow. -/
def execClearEventRecords (log : Nat) (handles : List Nat) (s : State) : Out :=
  done (s.onMailbox fun s =>
    match s.cxl.logs[log]? with
    | some l =>
      if handles.any fun h => !(l.records.any fun r => r.handle == h) then s.mbDone mbBadHandle .nothing
      else
        let left := if handles = [] then [] else l.records.filter fun r => !handles.contains r.handle
        let l' : EventLog := { l with records := left, overflow := l.overflow && decide (64 ≤ left.length), dropped := if left.length < 64 then 0 else l.dropped }
        { s with cxl := { s.cxl with logs := s.cxl.logs.set log l' } }.mbDone mbOk .nothing
    | none => s.mbDone mbInvalid .nothing)

/-- GET_EVENT_INTERRUPT_POLICY (R390). -/
def execGetEventInterruptPolicy (s : State) : Out := done (s.onMailbox fun s => s.mbDone mbOk (.policy s.cxl.eventPolicy))

/-- SET_EVENT_INTERRUPT_POLICY (R390): for each log no interrupt or MSI-X, whose vector is 5. -/
def execSetEventInterruptPolicy (policy : List Nat) (s : State) : Out :=
  done (s.onMailbox fun s =>
    if policy.length ≠ 5 || policy.any fun p => decide (1 < p % 4) then s.mbDone mbInvalid .nothing
    else { s with cxl := { s.cxl with eventPolicy := policy.map fun p => if p % 4 = 1 then 0x51 else 0 } }.mbDone mbOk .nothing)

/-- GET_FW_INFO (R390): the running image and its slot. -/
def execGetFwInfo (s : State) : Out := done (s.onMailbox fun s => s.mbDone mbOk (.firmware s.activeCu.svn s.activeCu.area))

/-- GET_TIMESTAMP (R449). -/
def execGetTimestamp (s : State) : Out :=
  done (s.onMailbox fun s => s.mbDone mbOk (.timestamp (match s.cxl.calendar with | some c => toBits 64 (s.clk.nt + c) | none => 0)))

/-- SET_TIMESTAMP (R449): the timestamp less the network time is kept. -/
def execSetTimestamp (stamp : Nat) (s : State) : Out :=
  done (s.onMailbox fun s => { s with cxl := { s.cxl with calendar := some ((stamp : Int) - s.clk.nt) } }.mbDone mbOk .nothing)

/-- GET_SUPPORTED_LOGS (R390): the Command Effects Log only. -/
def execGetSupportedLogs (s : State) : Out := done (s.onMailbox fun s => s.mbDone mbOk (.commandEffects (Config.cxlPayload 0x0400 0)))

/-- GET_LOG (R390). -/
def execGetLog (s : State) : Out := done (s.onMailbox fun s => s.mbDone mbOk (.commandEffects (Config.cxlPayload 0x0401 0)))

/-- IDENTIFY_MEMORY_DEVICE (R390). -/
def execIdentifyMemoryDevice (s : State) : Out := done (s.onMailbox fun s => s.mbDone mbOk (.identify 6144 0 256))

/-- GET_HEALTH_INFO (R390, R533): from bellows, supply and wear records, with the regulators and status words read. -/
def execGetHealthInfo (s : State) : Out :=
  done (s.onMailbox fun s =>
    s.mbDone mbOk (.health (s.bell.failsafe || s.bell.starting) s.boot.episodes s.cxl.statusWords s.cxl.regulators s.bell.wear))

/-- GET_POISON_LIST (R390). -/
def execGetPoisonList (s : State) : Out := done (s.onMailbox fun s => s.mbDone mbOk (.poison s.cxl.poison s.cxl.poisonOverflow))

/-- GET_DC_CONFIGURATION (R386). -/
def execGetDcConfiguration (s : State) : Out :=
  done (s.onMailbox fun s => s.mbDone mbOk (.dcConfig ((List.range 8).map fun r => ({ base := r * 2 ^ 42, len := 2 ^ 42 } : Extent)) (2 ^ 28)))

/-- The host's grants that stand as accepted extents. -/
def State.heldGrants (s : State) : List Grant := s.grants.filter fun g => g.holder == 4096 && g.accepted && (!g.tombstone || g.forced)

/-- GET_DC_EXTENT_LIST (R390). -/
def execGetDcExtentList (s : State) : Out := done (s.onMailbox fun s => s.mbDone mbOk (.extents (s.heldGrants.flatMap s.extents)))

/-- The grant on offer to the host with that extent. -/
def State.offerOf (s : State) (e : Extent) : Option Grant :=
  s.grants.find? fun g => g.holder == 4096 && g.offered && !g.accepted && !g.tombstone && !g.leaving && (s.extents g).contains e

/-- ADD_DC_RESPONSE (R391): every extent named must be on offer; then each is accepted. -/
def execAddDcResponse (extents : List Extent) (s : State) : Out :=
  done (s.onMailbox fun s =>
    if extents.any fun e => (s.offerOf e).isNone then s.mbDone mbInvalid .nothing
    else
      (extents.foldl (fun (t : State) e =>
        match t.offerOf e with
        | some g => t.modGrant 4096 g.region fun g => { g with accepted := true, offered := false }
        | none => t) s).mbDone mbOk .nothing)

/-- DC_OFFER_TIMEOUT (R391): 10 s after the oldest open offer it is withdrawn and context 0's grant for the host revoked. -/
def execDcOfferTimeout (s : State) : Out :=
  done (
    let l := s.grants.filter fun g => g.holder == 4096 && g.offered && !g.accepted && !g.tombstone && !g.leaving
    match l.foldl (fun (b : Option Grant) g => match b with
        | some x => if g.offeredAt < x.offeredAt then some g else b
        | none => some g) none with
    | none => s
    | some g =>
      let s := s.untilElapsed (g.offeredAt + 10000000000)
      let s := (s.extents g).foldl (fun t e => t.dcEvent dcRelease e) s
      (s.modGrant 4096 g.region fun g => { g with offered := false }).queueStep g.region { holder := 4096 })

/-- The held grant with that extent. -/
def State.heldOf (s : State) (e : Extent) : Option Grant := s.heldGrants.find? fun g => (s.extents g).contains e

/-- One extent leaves the host: a live grant is revoked, one already gone by force is given up (R133). -/
def State.releaseExtent (s : State) (e : Extent) : State :=
  match s.heldOf e with
  | none => s
  | some g =>
    if g.tombstone then s.modGrant 4096 g.region fun g => { g with forced := false }
    else if g.leaving then s
    else s.queueStep g.region { holder := 4096, hostRelease := true }

/-- RELEASE_DYNAMIC_CAPACITY (R133, R390): a background command; one runs at a time. -/
def execReleaseDynamicCapacity (extents : List Extent) (s : State) : Out :=
  done (s.onMailbox fun s =>
    if s.cxl.release.isSome then s.mbDone mbBusy .nothing
    else if extents.any fun e => (s.heldOf e).isNone then s.mbDone mbInvalid .nothing
    else
      let rs := (extents.filterMap s.heldOf).map fun (g : Grant) => g.region
      let s := extents.foldl (fun t e => t.releaseExtent e) s
      { s with cxl := { s.cxl with release := some { regions := rs } } }.mbDone mbBackground .nothing)

/-- The host's step of a region has ended. -/
def State.hostGone (s : State) (n : Nat) : Bool :=
  !(((s.region n).map fun (r : Region) => r.steps.any fun st => st.holder == 4096).getD false) &&
  !(s.grants.any fun g => g.holder == 4096 && g.region == n && !g.tombstone)

/-- RELEASE_DC_COMPLETE (R390): the background command ends with phase 2. -/
def execReleaseDcComplete (s : State) : Out :=
  done (match s.cxl.release with
    | none => s
    | some r =>
      if r.regions.any fun n => !s.hostGone n then s
      else
        let s := r.regions.foldl (fun (t : State) n => t.modGrant 4096 n fun g => { g with forced := false }) s
        { s with cxl := { s.cxl with release := none } }.mbDone mbOk .nothing)

/-- MAILBOX_UNSUPPORTED (R390). -/
def execMailboxUnsupported (opcode : Nat) (s : State) : Out :=
  done (s.onMailbox fun s =>
    if [0x0100, 0x0101, 0x0102, 0x0103, 0x0200, 0x0300, 0x0301, 0x0400, 0x0401, 0x4000, 0x4200, 0x4300, 0x4800, 0x4801, 0x4802, 0x4803].contains opcode
    then s else s.mbDone mbUnsupported .nothing)

/-! ## DOE (R393) -/

/-- A DOE object is answered, with vector 6 where the host asked for it. -/
def State.doeDone (s : State) (r : DoeReply) : State :=
  let s := s.emit (.doe r)
  if s.cxl.doeIrq then s.msix 6 else s

/-- DOE_DISCOVERY (R393): Discovery, CMA/SPDM, CXL Table Access. -/
def execDoeDiscovery (index : Nat) (s : State) : Out :=
  done (s.onMailbox fun s => s.doeDone (match index with
    | 0 => .discovery 1 0 1
    | 1 => .discovery 1 1 2
    | 2 => .discovery 0x1E98 2 0
    | _ => .discovery 0xFFFF 0 0))

/-- CDAT_TABLE_ACCESS (R393): entries 1 to 8 are the DSMAS of the DC regions, with base and length; entry 9 the DSLBIS, with 400 ns and
118 GB/s for reads and for writes. -/
def execCdatTableAccess (entry : Nat) (s : State) : Out :=
  done (s.onMailbox fun s => s.doeDone (.cdat entry (
    if 1 ≤ entry ∧ entry ≤ 8 then natLE 8 ((entry - 1) * 2 ^ 42) ++ natLE 8 (2 ^ 42)
    else if entry = 9 then natLE 4 400 ++ natLE 4 400 ++ natLE 4 118 ++ natLE 4 118
    else Config.cxlPayload 0xCDA7 entry)))

end Sys2Proof.Machine
end

