-- ==== Sys2Proof/Machine/IntcUnit.lean ====
section
/-! DEFINITION. The interrupt controller's registers that act (chapter 13). -/

set_option Elab.async false

namespace Sys2Proof.Machine

/-- A reader that counts as the host (R356). -/
def Reader.isHost (rd : Reader) : Bool := rd == .host || rd == .jtag

/-- Targets of the control units. -/
def unitTarget (k : Nat) : Bool := decide (4 ≤ k) && decide (k ≤ 6)

/-- The source a claim of target `k` selects: the highest priority, then the lowest number (R399). -/
def Intc.best (c : Intc) (k : Nat) : Option (Nat × Src) :=
  c.srcs.foldl (fun (b : Option (Nat × Src)) p =>
    if !p.2.selectable k (c.targets.getD k {}).threshold then b
    else match b with
      | some q => if q.2.priority < p.2.priority ∨ (q.2.priority = p.2.priority ∧ p.1 < q.1) then some p else b
      | none => some p) none

/-- Offset of a register of target `k`. -/
def targetOff (k r : Nat) : Nat := 0x11000 + 0x40 * k + r

/-- The value a claim returns (Table 13.15). -/
def claimValue (n : Nat) (x : Src) : Nat := n + 2 ^ 16 * x.count + 2 ^ 24 * x.priority + 2 ^ 31

/-- A claim at target `k`: its value and the controller after it. -/
def State.claim (s : State) (k : Nat) : Nat × State :=
  match s.intc.best k with
  | none => (0, s)
  | some (n, x) =>
    (claimValue n x, s.withIntc { s.intc with srcs := Tab.modify {} s.intc.srcs n fun y => { y with state := .active, claimer := k, count := 0 } })

/-- INTC_CLAIM (R399). A host read of a control unit's target returns 0 and changes nothing. -/
def execIntcClaim (rd : Reader) (target : Nat) (s : State) : Out :=
  done (onUnit target 8 (fun s =>
    if !s.mayWrite rd false then s
    else
      let (v, s) := if Reader.isHost rd && unitTarget target then (0, s) else s.claim target
      s.emit (.regRead rd (targetOff target 0) (BitVec.ofNat 32 v))) s)

/-- A completion written to target `k` (R400, R401). -/
def State.completeSrc (s : State) (k n : Nat) : State :=
  let x := s.src n
  if x.state = .active ∧ x.claimer = k then
    let was := s.intc.asserted k
    let s := s.modSrc n Src.complete
    if k < 4 && was && s.intc.asserted k then s.msix k else s
  else { s with intc := { s.intc with targets := s.intc.targets.modify k fun t => { t with misfire := satInc 16 t.misfire } } }

/-- INTC_COMPLETE (R400). -/
def execIntcComplete (rd : Reader) (target : Nat) (v : Reg) (s : State) : Out :=
  done (onUnit target 8 (fun s =>
    if !s.mayWrite rd false || (Reader.isHost rd && unitTarget target) then s else s.completeSrc target (bits v.toNat 0 10)) s)

/-- INTC_TEST (R397): a rising edge on one of the test sources. -/
def execIntcTest (rd : Reader) (v : Reg) (s : State) : Out :=
  done (if s.mayWrite rd false then s.rise (0x3F0 + bits v.toNat 0 4) else s)

/-- INTC_SRCn takes a value; the host cannot write an owned source, and its write of a target of the control units leaves that field
(R397, Table 13.14). -/
def State.writeSrc (s : State) (host : Bool) (n v : Nat) : State :=
  if host && decide (0x270 ≤ n) && decide (n < 0x280) then s
  else
    let k := bits v 3 3
    s.modSrc n fun x => { x with priority := bits v 0 3, target := if host && unitTarget k then x.target else k, enable := bit v 6 }

/-- INTC_SRC_WRITE (R397). -/
def execIntcSrcWrite (rd : Reader) (src : Nat) (v : Reg) (s : State) : Out :=
  done (onUnit src 1024 (fun s => if s.mayWrite rd false then s.writeSrc (Reader.isHost rd) src v.toNat else s) s)

end Sys2Proof.Machine
end

