-- ==== Sys2Proof/Machine/BellowsUnit.lean ====
section
/-! DEFINITION. Bellows, the lifetime clock, wear records, the regulators (chapters 15 and 18). Temperatures are in 1/16 degree; duties are
computed in 1/16,000 of a unit (log 60). -/

set_option Elab.async false

namespace Sys2Proof.Machine

def State.modBell (s : State) (f : Bellows → Bellows) : State := { s with bell := f s.bell }

/-- Bellows works: outside a reset, its Hearth not lost. -/
def State.bellowsOn (s : State) : Bool := !s.boot.inReset && !s.bell.undriven

/-! ## Readings (Table 15.3, Table 17.14) -/

/-- A kind of injected fault applies to a sensor (Table 17.14). -/
def injFits (sensor kind : Nat) : Bool :=
  (sensor < 22 && kind < 2) || (decide (20 ≤ sensor) && decide (sensor < 24) && kind == 2)

/-- The injected fault stands on sensor `i` with that kind. -/
def Bellows.injOn (b : Bellows) (i kind : Nat) : Bool := b.injArm && b.injSensor == i && b.injKind == kind

/-- A coolant reading as bellows receives it. -/
def Bellows.coolant (b : Bellows) (i : Nat) (r : Option Int) : Option Int :=
  if b.injOn i 0 then some 0 else if b.injOn i 2 then none else if b.injOn i 1 && !b.injUsed then r.map (· + 400) else r

/-- A die reading as bellows receives it. -/
def Bellows.dieRead (b : Bellows) (i : Nat) (r : Int) : Int :=
  if b.injOn i 0 then -640 else if b.injOn i 1 && !b.injUsed then r + 400 else r

/-- A coolant sensor fails a check: three reads in a row, its range, a jump. -/
def coolantBad (fails : Nat) (seen : Bool) (old : Int) (r : Option Int) : Bool :=
  decide (3 ≤ fails) || (match r with
    | some v => decide (v < 32) || decide (1280 < v) || (seen && decide (32 < (v - old).natAbs))
    | none => false)

/-- A die sensor fails a check. -/
def dieBad (seen : Bool) (old v : Int) : Bool := decide (v < -320) || decide (2080 < v) || (seen && decide (320 < (v - old).natAbs))

/-- The readings of one step and the sensors that fail a check in it, in number order. -/
def Bellows.sense (b : Bellows) (x : SensorReads) : Bellows :=
  let inlet := b.coolant 20 x.inlet
  let outlet := b.coolant 21 x.outlet
  let die := (List.range 20).map fun i => b.dieRead i (x.die.getD i (b.die.getD i 0))
  let inletFails := if inlet.isNone then b.inletFails + 1 else 0
  let outletFails := if outlet.isNone then b.outletFails + 1 else 0
  let tin := inlet.getD b.inlet
  let tout := outlet.getD b.outlet
  let outletLow := if tout < tin - 32 then b.outletLow + 1 else 0
  let spinning := decide (256 ≤ b.pump)
  let flowSilent := if spinning then b.flowSilent + 1 else 0
  let tachSilent := if spinning then b.tachSilent + 1 else 0
  let failed := ((List.range 20).filter fun i => dieBad b.seen (b.die.getD i 0) (die.getD i 0)) ++
    (if coolantBad inletFails b.seen b.inlet inlet then [20] else []) ++
    (if coolantBad outletFails b.seen b.outlet outlet || decide (1000 ≤ outletLow) then [21] else []) ++
    (if 500 ≤ flowSilent then [22] else []) ++ (if 500 ≤ tachSilent then [23] else [])
  let hot := (List.range 20).map fun i =>
    let top : Int := if i < 4 then 1600 else 1408
    let t := die.getD i 0
    decide (top ≤ t) || (b.dieOver.getD i false && decide (top - 48 ≤ t))
  let good := if failed = [] then b.plausibleMs + 1 else 0
  { b with inlet := tin, outlet := tout, die, inletFails, outletFails, outletLow, flowSilent, tachSilent, failed, dieOver := hot, seen := true,
           plausibleMs := good, starting := b.starting && decide (good < 1000), injUsed := b.injUsed || b.injArm }

/-! ## The control law (R439, R440) -/

/-- Mean power of a profile, within the envelope's limit. -/
def State.meanPower (s : State) (p : Profile) : Nat := min p.meanW s.powerLimit

/-- The active profile, and the inactive one in lookahead (R440). -/
def State.activeProfile (s : State) : Option Profile := if s.sched.defaultLists then none else s.gates.profile
def State.aheadProfile (s : State) : Option Profile :=
  let g := s.sched.versions.getD (1 - s.sched.active) {}
  if g.fresh then g.profile else none

/-- The feed-forward power. -/
def State.feedPower (s : State) : Nat :=
  let base := match s.activeProfile with | some p => s.meanPower p | none => s.bell.defaultW
  match s.aheadProfile with | some p => max base (s.meanPower p) | none => base

/-- The largest of some readings. -/
def hottest (l : List Int) : Int := l.foldl max (l.headD 0)

/-- The error `e`, in 1/16 degree. -/
def Bellows.err (b : Bellows) : Int := max (hottest (b.die.take 4) - 16 * b.setHearth) (hottest (b.die.drop 4) - 16 * b.setStack)

/-- One step of the law with feed-forward power `p`: the integral term and the outputs. -/
def Bellows.control (b : Bellows) (p : Nat) : Bellows :=
  let full : Int := 1024 * 16000
  let ff : Int := min ((16 * p * b.ffGain : Nat) : Int) full
  let e := b.err
  let u := ff + 1000 * b.kp * e + b.integ
  let integ := if (full ≤ u ∧ 0 < e) ∨ (u ≤ 0 ∧ e < 0) then b.integ else b.integ + b.ki * e
  let valve := (clampInt 0 1024 ((ff + 1000 * b.kp * e + integ) / 16000)).toNat
  { b with integ, valve, pump := min 1024 (max b.pumpMin valve) }

/-- The outputs of one step. -/
def Bellows.drive (b : Bellows) (p : Nat) : Bellows :=
  if b.failsafe || b.starting then { b with valve := 1024, pump := 1024 }
  else if b.manual then { b with valve := min 1024 b.manualValve, pump := min 1024 b.manualPump }
  else b.control p

/-- A move of the valve command from `old`: a reversal counts when it follows a move of at least 102 units (Table 15.6). -/
def Bellows.valveMoved (b : Bellows) (old : Nat) : Bellows :=
  let dir : Int := (b.valve : Int) - old
  if dir = 0 then b
  else
    let sign : Int := if 0 < dir then 1 else -1
    if b.lastMove = sign then b
    else
      let far := b.lastMove ≠ 0 ∧ 102 ≤ ((old : Int) - b.moveFrom).natAbs
      { b with lastMove := sign, moveFrom := old
               wear := { b.wear with valveReversals := if far then min (2 * (2 ^ 32 - 1) + 1) (b.wear.valveReversals + 1) else b.wear.valveReversals } }

/-- Fail-safe begins with the first failed sensor (R443). -/
def State.enterFailsafe (s : State) : State :=
  match s.bell.failed with
  | [] => s
  | i :: _ =>
    if s.bell.failsafe then s
    else
      let s := s.modBell fun b => { b with failsafe := true, failedSensor := i, failsafeCount := satInc 16 b.failsafeCount,
                                           wear := { b.wear with failsafes := satInc 32 b.wear.failsafes } }
      ((s.rise 0x25C).log 0x0A01 none none (natLE 1 i)).cxlEvent 1 1 noAddr 0

/-- BELLOWS_CONTROL_TICK (R439): every 1 ms. -/
def execBellowsControlTick (reads : SensorReads) (s : State) : Out :=
  done (
    if !s.bellowsOn then s
    else
      let s := s.untilElapsed ((s.clk.elapsed / 1000000 + 1) * 1000000)
      let old := s.bell
      let s := if old.injArm && !old.injUsed then s.injected 0x19 old.injSensor else s
      let s := (s.modBell fun b => b.sense reads).enterFailsafe
      let p := s.feedPower
      let s := s.modBell fun b => (b.drive p).valveMoved old.valve
      let up := (List.range 20).filter fun i => s.bell.dieOver.getD i false && !old.dieOver.getD i false
      (up.foldl (fun (t : State) _ => t.rise 0x25D) s).throttleCause)

/-- BELL_CTRL.clear_failsafe (R443): ignored until every sensor has been plausible for 10 s. -/
def State.clearFailsafe (s : State) : State :=
  if s.bell.failsafe && decide (10000 ≤ s.bell.plausibleMs) then s.modBell fun b => { b with failsafe := false, failedSensor := 31 } else s

/-- BELL_CLEAR_FAILSAFE (R443). -/
def execBellClearFailsafe (rd : Reader) (s : State) : Out := done (if s.mayWrite rd true && s.bellowsOn then s.clearFailsafe else s)

/-- COOLANT_PULSE (R437): one pulse of the flow meter or of the tachometer; none comes through while it is silenced (Table 17.14). -/
def execCoolantPulse (tach : Bool) (s : State) : Out :=
  done (
    if !s.bellowsOn || s.bell.injOn (if tach then 23 else 22) 2 then s
    else s.modBell fun b =>
      if tach then { b with tachSilent := 0 }
      else { b with flowSilent := 0, flowPulses := (b.flowPulses.filter fun t => decide (s.clk.elapsed < t + 60000000000)) ++ [s.clk.elapsed] })

/-- The flow in mL/min that BELL_FLOW shows (log 61). -/
def State.flow (s : State) : Nat :=
  if s.bell.flowK = 0 then Config.flowWithoutK % 2 ^ 20
  else
    let n := (s.bell.flowPulses.filter fun t => decide (s.clk.elapsed < t + Config.flowWindow)).length
    min (2 ^ 20 - 1) (n * 60000000000000 / (s.bell.flowK * Config.flowWindow))

/-- BELL_INJ_CTRL takes a value: nothing while it is armed (Table 17.16). -/
def State.bellInj (s : State) (v : Nat) : State :=
  if s.bell.injArm then s
  else
    let i := bits v 1 5
    let k := bits v 6 2
    let d := if bits v 8 8 = 0 then 1 else bits v 8 8
    s.modBell fun b => { b with injSensor := i, injKind := k, injDuration := d, injArm := bit v 0 && injFits i k, injUsed := false,
                                injEnd := s.clk.elapsed + 10000000 * d }

/-- BELL_INJ_CTRL (R516). -/
def execBellInjCtrl (rd : Reader) (v : Reg) (s : State) : Out := done (if s.mayWrite rd true && s.bellowsOn then s.bellInj v.toNat else s)

/-- BELL_INJ_EXPIRY (R516). -/
def execBellInjExpiry (s : State) : Out :=
  done (if !s.bell.injArm then s else (s.untilElapsed s.bell.injEnd).modBell fun b => { b with injArm := false, injUsed := false })

/-! ## The lifetime clock and the wear records (R448-R452) -/

/-- The bin of a temperature, in 1/16 degree. -/
def tempBin (bounds : List Int) (t : Int) : Nat := (bounds.filter fun b => decide (16 * b ≤ t)).length

def stackBounds : List Int := [50, 60, 70, 80, 85, 88, 95]
def hearthBounds : List Int := [60, 70, 80, 90, 95, 100, 105]

/-- One second in the bins of `n` sensors. -/
def binSecond (bins : List Nat) (bounds : List Int) (temps : List Int) (n : Nat) : List Nat :=
  (List.range n).foldl (fun l i => l.modify (8 * i + tempBin bounds (temps.getD i 0)) (satInc 32)) bins

/-- One second of wear (Table 15.6): bins, lanes in use by ports in `active`, the pump. -/
def State.wearSecond (s : State) : State :=
  let lanes := (List.range 32).flatMap fun p => if (s.port p).state == .active then (s.port p).laneMap.map (5 * p + ·) else []
  s.modBell fun b => { b with wear := { b.wear with
    stackBins := if b.seen then binSecond b.wear.stackBins stackBounds (b.die.drop 4) 16 else b.wear.stackBins
    hearthBins := if b.seen then binSecond b.wear.hearthBins hearthBounds (b.die.take 4) 4 else b.wear.hearthBins
    laneTime := lanes.foldl (fun l i => l.modify i (satInc 32)) b.wear.laneTime
    pumpTime := if 256 ≤ b.pump then satInc 32 b.wear.pumpTime else b.wear.pumpTime } }

/-- A whole hour has passed: the corrected counts of the last whole hour stand for telemetry (R495; log 52). -/
def State.hourPassed (s : State) : State :=
  { s with chans := Tab.mapVals {} s.chans fun (c : Chan) => { c with ceLastHour := c.ceThisHour, ceThisHour := 0 } }

/-- LIFETIME_SECOND_TICK (R448, R450, R451). -/
def execLifetimeSecondTick (s : State) : Out :=
  done (
    if s.bell.undriven then s
    else
      let s := s.untilElapsed ((s.clk.elapsed / 1000000000 + 1) * 1000000000)
      let n := (s.kept.lifeSeconds + 1) % 2 ^ 64
      let s := { s with kept := { s.kept with lifeSeconds := n } }
      let s := if s.boot.inReset then s else s.wearSecond
      let s := if n % 3600 = 0 then s.hourPassed else s
      if s.ready && n % 600 == 0 then s.modBell fun b => { b with ckptDue := true, ckptDueAt := s.clk.elapsed, ckptTries := 0 } else s)

/-- A checkpoint's record in its slot; the sector is erased when the ring reaches it. -/
def State.putRecord (s : State) (ok : Bool) : State :=
  let k := s.bell.ckptSlot
  let seq := (s.bell.ckptSeq + 1) % 2 ^ 32
  let left := s.kept.wear.filter fun (r : WearRec) => !(r.slot == k || (k % 2 == 0 && r.slot == k + 1))
  let rec_ : WearRec := { seq, slot := k, life := s.kept.lifeSeconds, calendar := s.cxl.calendar, wear := s.bell.wear }
  let s := { s with kept := { s.kept with wear := if ok then left ++ [rec_] else left } }
  s.modBell fun b => { b with ckptSlot := (k + 1) % 256, ckptSeq := if ok then seq else b.ckptSeq, ckptDue := !ok && b.ckptDue,
                              ckptTries := if ok then 0 else b.ckptTries + 1 }

/-- CHECKPOINT_WRITE_DONE (R452): the due checkpoint has been programmed and read back, or has failed. It waits for a supply episode and for
a firmware write, 60 s of which skip it (Table 15.7). -/
def execCheckpointWriteDone (ok : Bool) (s : State) : Out :=
  done (
    if !s.bellowsOn || !s.bell.ckptDue || s.held then s
    else if s.diag.updating.isSome then
      if s.bell.ckptDueAt + 60000000000 ≤ s.clk.elapsed then s.modBell fun b => { b with ckptDue := false } else s
    else
      let k := s.bell.ckptSlot
      let s := s.putRecord ok
      if 3 ≤ s.bell.ckptTries then
        ((s.modBell fun b => { b with ckptDue := false, ckptTries := 0, ckptFails := satInc 16 b.ckptFails }).rise 0x25F).log 0x0A03 none none (natLE 1 k)
      else s)

/-- Free bytes. -/
def State.freeBytes (s : State) : Nat → Bytes × State
  | 0 => ([], s)
  | n + 1 =>
    let (d, s) := s.draw
    let (t, s) := s.freeBytes n
    (Config.freeByte d :: t, s)

/-- VDD_AON_LOSS (R448): the counter has lost its value until Kindling loads it from the newest record. -/
def execVddAonLoss (s : State) : Out :=
  done (
    let (b, s) := s.freeBytes 8
    { s with kept := { s.kept with lifeSeconds := leNat b, aonLost := true } })

/-! ## Regulators (R408, R527, R533) -/

/-- The management interfaces work, and Kindling has ended. -/
def State.managed (s : State) : Bool := !s.boot.inReset && !s.hearthLost 2 && decide (4 ≤ s.boot.step)

/-- PMBUS_POLL (R527): every 10 ms. -/
def execPmbusPoll (regs : List Regulator) (s : State) : Out :=
  done (
    if !s.managed then s
    else
      let s := s.untilElapsed ((s.clk.elapsed / 10000000 + 1) * 10000000)
      { s with cxl := { s.cxl with regulators := regs.take 16 } })

/-- PMB_ALERT (R533): the status word read, as Get Health Info reports it; the latest 16 are held. -/
def execPmbAlert (statusWord : Nat) (s : State) : Out :=
  done (
    if !s.managed then s
    else
      let l := s.cxl.statusWords ++ [statusWord % 65536]
      { s with cxl := { s.cxl with statusWords := l.drop (l.length - 16) } })

end Sys2Proof.Machine
end

