-- ==== Sys2Proof/Machine/CmdTelem.lean ====
section
/-! DEFINITION. Telemetry records and the device log as commands read them (chapters 10 and 16). -/

set_option Elab.async false

namespace Sys2Proof.Machine

/-! ## Telemetry (R495, Table 16.14) -/

/-- The code of a channel state (Table 3.12). -/
def chanCode : ChanState → Nat
  | .inService => 0 | .migrating => 1 | .retired => 2 | .fenced => 3

/-- FAB_STATE (Table 9.15). -/
def State.fabState (s : State) (p : Nat) : Nat :=
  let q := s.port p
  let lane (i : Nat) : Nat := q.laneMap.getD i 0 * 2 ^ (8 + 3 * i)
  linkCode q.state + 8 * q.width + 32 * q.speed + 128 * b2n (q.laneMap.contains 4) + lane 0 + lane 1 + lane 2 + lane 3 + 2 ^ 23 * s.routeActive

/-- The throttle record (R328): level, events, and for the latest 16 events start, end and deepest level. -/
def State.throttleTelem (s : State) : List Nat :=
  let l := s.sched.records
  [s.throttleLevel, s.sched.events] ++ (l.drop (l.length - 16)).flatMap fun r => [r.start, r.ended.getD noAddr, r.deepest]

/-- The wear counters in table order (Table 15.6). -/
def Wear.values (w : Wear) : List Nat :=
  w.stackBins ++ w.hearthBins ++ w.laneTime ++ [w.valveReversals / 2, w.pumpTime, w.powerCycles, w.failsafes]

/-- Values of a group and index for an issuer; none where Table 16.14 defines none. -/
def State.telemValues (s : State) (c group i : Nat) : Option (List Nat) :=
  match group with
  | 1 =>
    let x := s.stage i
    if i < 4 then some [x.shapeDiscards, x.senderDiscards, x.checkFailures, x.busyReplies, x.undelivered, x.accepted] else none
  | 2 =>
    let x := s.chan i
    if i < 512 then some [chanCode x.state, x.ceLastHour, x.ceSinceReset, x.ueSinceReset, x.addrSinceReset, x.cinderSinceReset, Config.rowSpares i,
                          x.mergeSinceReset] else none
  | 3 => some s.throttleTelem
  | 4 =>
    let q := s.port i
    if i < 32 then some [s.fabState i, q.cellsSinceReset, q.rxSinceReset, q.crcSinceReset, q.replaysSinceReset, q.downsSinceReset, q.fecCorrSinceReset,
                         q.fecUncorrSinceReset] else none
  | 5 => (s.ctx c).map fun x =>
      if x.conf then List.replicate 8 0
      else [x.descDone, x.linesStreamed, x.faultCycles, x.runsInError, x.accepted, x.undelivered, x.cellsSent, x.cellsReceived]
  | 6 => some (s.bell.wear.values ++ [s.kept.lifeSeconds])
  | _ => none

/-- A group that only context 0 reads. -/
def telemPrivate (group : Nat) : Bool := [1, 2, 4, 6].contains group

/-- What the read of a group does to the device: group 1 clears its counters (R58). -/
def State.telemRead (s : State) (group i : Nat) : State :=
  if group = 1 then s.modStage i fun x => { x with shapeDiscards := 0, senderDiscards := 0, checkFailures := 0, busyReplies := 0, undelivered := 0, accepted := 0 }
  else s

/-- TELEM_READ (R495). -/
def execTelemRead (ctx tag : Nat) (hostOk : Bool) (s : State) : Out :=
  done (s.withTaken ctx tag 0x60 fun k s =>
    let g := k.par 16 1
    let i := k.par 18 2
    if telemPrivate g && k.ctx != 0 then s.refuse k stNoRight 16
    else match s.telemValues k.ctx g i with
      | none => s.refuse k stBadParam (if 1 ≤ g ∧ g ≤ 6 then 18 else 16)
      | some l =>
        let need := 16 + 8 * l.length
        if k.par 20 8 % 8 ≠ 0 then s.refuse k stBadParam 20
        else if k.par 28 4 < need then s.refuse k stNoSpace 0xFF (natLE 4 need)
        else
          let head := natLE 1 g ++ zeros 1 ++ natLE 2 i ++ natLE 4 l.length ++ natLE 8 s.clk.nt
          match s.writeOut k (k.par 20 8) (head ++ l.flatMap (natLE 8)) hostOk with
          | (s, some st) => s.refuse k st 20
          | (s, none) => (s.telemRead g i).final k stOk (natLE 4 need))

/-! ## The device log (R496, R497) -/

/-- The context field of an entry (Table 16.15). -/
def LogEnt.ctxField (e : LogEnt) : Nat :=
  match e.ctx with
  | some c => c % 4096 + 16384 * b2n e.conf
  | none => 32768

/-- The 32 bytes of an entry with the address and detail a reader sees. -/
def LogEnt.bytes (e : LogEnt) (addr : Nat) (detail : Bytes) : Bytes :=
  natLE 4 e.seq ++ natLE 8 e.time ++ natLE 2 e.event ++ natLE 2 e.ctxField ++ natLE 8 addr ++ padTo 8 detail

/-- An issuer other than context 0 sees an entry that names it and was logged after its creation (R497). -/
def State.mayRead (s : State) (c : Nat) (e : LogEnt) : Bool :=
  c == 0 || (e.ctx == some c && decide (((s.ctx c).map (·.createdSeq)).getD 0 ≤ e.seq))

/-- The address of an entry in the space of context `c`: a pool address of a region it holds, a context virtual address of its own; otherwise
none (R90, R224). -/
def State.addrFor (s : State) (c : Nat) (e : LogEnt) : Nat :=
  if e.event = 0x0401 then (if e.ctx = some c then e.pool else noAddr)
  else match s.resolve e.pool with
    | some (r, _) => if s.grants.any fun g => g.holder == c && g.region == r && !g.tombstone then e.pool else noAddr
    | none => noAddr

/-- LOG_READ (R497). -/
def execLogRead (ctx tag : Nat) (hostOk : Bool) (s : State) : Out :=
  done (s.withTaken ctx tag 0x61 fun k s =>
    let seen := s.diag.log.filter fun e => decide (k.par 28 4 ≤ e.seq) && s.mayRead k.ctx e
    let l := seen.take (k.par 24 4 / 32)
    let next := match seen[l.length]? with
      | some e => e.seq
      | none => max s.diag.nextSeq (k.par 28 4)
    let oldest := ((s.diag.log.head?).map (·.seq)).getD 0
    match s.writeOut k (k.par 16 8) (l.flatMap fun e => e.bytes (s.addrFor k.ctx e) e.detail) hostOk with
    | (s, some st) => s.refuse k st 16
    | (s, none) => s.final k stOk (natLE 4 l.length ++ natLE 4 next ++ natLE 4 oldest))

end Sys2Proof.Machine
end

