-- ==== Sys2Proof/Machine/Regs.lean ====
section
/-! DEFINITION. BAR0: block map, values, what reads and writes do, alias windows, words of 64-bit values, the log window, injection,
telemetry capture; the registers of BAR4 and of configuration space that the manual names (chapters 13 and 17). -/

set_option Elab.async false

namespace Sys2Proof.Machine

/-- The blocks of Table 17.4. -/
inductive RegBlock where
  | ident | intc | triplex | clkrst | bellows | fabric | gate | mem | dir | xlat | ember | sec | err | telem
  deriving DecidableEq, Repr

/-- Base, end, stride and block (Table 17.4). -/
def regBlocks : List (Nat × Nat × Nat × RegBlock) :=
  [(0x000000, 0x010000, 0x10000, .ident), (0x010000, 0x020000, 0x10000, .intc), (0x020000, 0x040000, 0x20000, .triplex),
   (0x040000, 0x060000, 0x20000, .clkrst), (0x060000, 0x080000, 0x20000, .bellows), (0x080000, 0x090000, 0x800, .fabric),
   (0x100000, 0x180000, 0x4000, .gate), (0x200000, 0x280000, 0x400, .mem), (0x300000, 0x380000, 0x800, .dir),
   (0x380000, 0x400000, 0x20000, .xlat), (0x400000, 0x500000, 0x1000, .ember), (0x500000, 0x580000, 0x80000, .sec),
   (0x580000, 0x600000, 0x80000, .err), (0x600000, 0x610000, 0x10000, .telem)]

/-- Block, unit and offset within the unit's map of an offset in the normal window. -/
def regAt (off : Nat) : Option (RegBlock × Nat × Nat) :=
  (regBlocks.find? fun x => decide (x.1 ≤ off) && decide (off < x.2.1)).map fun x => (x.2.2.2, (off - x.1) / x.2.2.1, (off - x.1) % x.2.2.1)

/-- A block that only the host reaches (Table 17.4). -/
def RegBlock.hostOnly : RegBlock → Bool
  | .triplex | .bellows | .sec => true
  | _ => false

/-- The Hearth of a unit of a block. -/
def RegBlock.hearth (b : RegBlock) (u : Nat) : Option Nat :=
  match b with
  | .fabric | .gate => some (portHearth u)
  | .mem => some (chanHearth u)
  | .dir | .ember => some (tileHearth u)
  | .xlat => some u
  | .bellows => some 2
  | .sec => some 3
  | _ => none

/-- The low word of the 64-bit value whose high word stands at `o` (R503). -/
def lowWord (b : RegBlock) (o : Nat) : Option Nat :=
  let low := some (o - 4)
  match b with
  | .ident => if o = 0x24 then low else none
  | .mem => if o = 0x68 then low else none
  | .ember => if o = 0x18 then low else none
  | .sec => if o = 0x0C then low else none
  | .bellows => if o = 0x104 then low else none
  | .err => if o = 0x10C then low else none
  | .gate => if o = 0x2104 ∨ (o < 0x2000 ∧ o % 8 = 4) then low else none
  | .telem => if o = 0x14 ∨ (0x100 ≤ o ∧ o < 0x1100 ∧ o % 8 = 4) then low else none
  | .xlat => if o < 0x8000 ∧ (o % 32 = 4 ∨ o % 32 = 12 ∨ o % 32 = 28) then low else none
  | _ => none

/-! ## Counters that a read clears (R100, R157, R192, R230, R262, R301, R335, R360, R380, R403, R454, R509, R513) -/

/-- A channel's counter at an offset, and the channel with it cleared. -/
def Chan.counter (c : Chan) (o : Nat) : Option (Nat × Chan) :=
  match o with
  | 0x030 => some (c.ceCount, { c with ceCount := 0 })
  | 0x034 => some (c.ueCount, { c with ueCount := 0 })
  | 0x038 => some (c.cinderReads, { c with cinderReads := 0 })
  | 0x03C => some (c.addrErrors, { c with addrErrors := 0 })
  | 0x040 => some (c.stokeMisses, { c with stokeMisses := 0 })
  | 0x044 => some (c.refEmerg, { c with refEmerg := 0 })
  | 0x048 => some (c.mergeLoss, { c with mergeLoss := 0 })
  | _ => none

/-- A slice's counter. -/
def Slice.counter (c : Slice) (o : Nat) : Option (Nat × Slice) :=
  match o with
  | 0x020 => some (c.recallTimeouts, { c with recallTimeouts := 0 })
  | 0x024 => some (c.invTimeouts, { c with invTimeouts := 0 })
  | 0x028 => some (c.lateResp, { c with lateResp := 0 })
  | 0x02C => some (c.evictions, { c with evictions := 0 })
  | 0x030 => some (c.wayWaits, { c with wayWaits := 0 })
  | 0x034 => some (c.coarse, { c with coarse := 0 })
  | 0x038 => some (c.syncFlags, { c with syncFlags := 0 })
  | 0x03C => some (c.syncTimeouts, { c with syncTimeouts := 0 })
  | _ => none

/-- A Hearth's translation counter. -/
def FaultQueue.counter (c : FaultQueue) (o : Nat) : Option (Nat × FaultQueue) :=
  match o with
  | 0x1000C => some (c.overflow, { c with overflow := 0 })
  | 0x10010 => some (c.tbMisses, { c with tbMisses := 0 })
  | 0x10014 => some (c.walks, { c with walks := 0 })
  | 0x10018 => some (c.pfWalks, { c with pfWalks := 0 })
  | _ => none

/-- An Ember's counter. -/
def Ember.counter (c : Ember) (o : Nat) : Option (Nat × Ember) :=
  match o with
  | 0x020 => some (c.descDone, { c with descDone := 0 })
  | 0x024 => some (c.lines, { c with lines := 0 })
  | 0x028 => some (c.faultCycles, { c with faultCycles := 0 })
  | 0x02C => some (c.switches, { c with switches := 0 })
  | 0x030 => some (c.restarts, { c with restarts := 0 })
  | 0x034 => some (c.trigLate, { c with trigLate := 0 })
  | 0x038 => some (c.lsParity, { c with lsParity := 0 })
  | 0x03C => some (c.overruns, { c with overruns := 0 })
  | 0x040 => some (c.sat, { c with sat := 0 })
  | 0x044 => some (c.nonfinite, { c with nonfinite := 0 })
  | 0x048 => some (c.pbsBlocks, { c with pbsBlocks := 0 })
  | _ => none

/-- A port's counter in its register block. -/
def Port.counter (c : Port) (o : Nat) : Option (Nat × Port) :=
  match o with
  | 0x010 => some (c.txCells, { c with txCells := 0 })
  | 0x014 => some (c.rxCells, { c with rxCells := 0 })
  | 0x018 => some (c.crcErrors, { c with crcErrors := 0 })
  | 0x01C => some (c.replays, { c with replays := 0 })
  | 0x020 => some (c.dupDiscards, { c with dupDiscards := 0 })
  | 0x024 => some (c.linkDowns, { c with linkDowns := 0 })
  | 0x028 => some (c.e2eDiscards, { c with e2eDiscards := 0 })
  | 0x02C => some (c.tagFailures, { c with tagFailures := 0 })
  | 0x030 => some (c.routeDiscards, { c with routeDiscards := 0 })
  | 0x034 => some (c.stallReq, { c with stallReq := 0 })
  | 0x038 => some (c.stallRsp, { c with stallRsp := 0 })
  | 0x03C => some (c.stallByp, { c with stallByp := 0 })
  | 0x044 => some (c.fecCorr, { c with fecCorr := 0 })
  | 0x048 => some (c.fecUncorr, { c with fecUncorr := 0 })
  | _ => none

/-- A port's counter in its gate block. -/
def Port.gateCounter (c : Port) (o : Nat) : Option (Nat × Port) :=
  match o with
  | 0x2010 => some (c.shpWaits, { c with shpWaits := 0 })
  | 0x2014 => some (c.polGreen, { c with polGreen := 0 })
  | 0x2018 => some (c.polYellow, { c with polYellow := 0 })
  | 0x201C => some (c.polRed, { c with polRed := 0 })
  | _ => none

/-- A counter of the control complex. -/
def Triplex.counter (c : Triplex) (o : Nat) : Option (Nat × Triplex) :=
  match o with
  | 0x010 => some (c.takeovers, { c with takeovers := 0 })
  | 0x014 => some (c.voteMismatch, { c with voteMismatch := 0 })
  | 0x018 => some (c.staleClaims, { c with staleClaims := 0 })
  | 0x01C => some (c.dataMismatch, { c with dataMismatch := 0 })
  | 0x020 => some (c.dataNoMaj, { c with dataNoMaj := 0 })
  | _ => none

/-- A counter of the security block. -/
def Security.counter (c : Security) (o : Nat) : Option (Nat × Security) :=
  match o with
  | 0x024 => some (c.reports, { c with reports := 0 })
  | 0x028 => some (c.unwrapFail, { c with unwrapFail := 0 })
  | 0x02C => some (c.tagFail, { c with tagFail := 0 })
  | _ => none

/-- A counter of bellows. -/
def Bellows.counter (c : Bellows) (o : Nat) : Option (Nat × Bellows) :=
  match o with
  | 0x0A0 => some (c.failsafeCount, { c with failsafeCount := 0 })
  | 0x10C => some (c.ckptFails, { c with ckptFails := 0 })
  | _ => none

/-- A counter of the supply monitor; the droop fields are counters too. -/
def Boot.counter (c : Boot) (o : Nat) : Option (Nat × Boot) :=
  if o = 0x034 then some (c.episodes, { c with episodes := 0 })
  else if 0x024 ≤ o ∧ o < 0x034 ∧ o % 4 = 0 then
    let h := (o - 0x024) / 4
    some (c.vcore.getD h 0 + 2 ^ 16 * c.droop.getD h 0, { c with droop := c.droop.set h 0 })
  else none

/-- Target and register of an offset in the target part of INTC (Table 13.13). -/
def targetReg (o : Nat) : Option (Nat × Nat) :=
  if 0x1000 ≤ o ∧ o < 0x1200 then some ((o - 0x1000) / 0x40, (o - 0x1000) % 0x40) else none

/-- A misfire counter. -/
def Intc.counter (c : Intc) (o : Nat) : Option (Nat × Intc) :=
  match targetReg o with
  | some (k, 0xC) => some ((c.targets.getD k {}).misfire, { c with targets := c.targets.modify k fun t => { t with misfire := 0 } })
  | _ => none

/-- Puts a part of the state back beside the value read. -/
def withPart {α : Type} (x : Option (Nat × α)) (put : α → State) : Option (Nat × State) := x.map fun p => (p.1, put p.2)

/-- The counter at an offset of a block's unit: its value, and the state with it cleared. -/
def State.counter (s : State) (b : RegBlock) (u o : Nat) : Option (Nat × State) :=
  match b with
  | .mem => withPart ((s.chan u).counter o) fun c => s.modChan u fun _ => c
  | .dir => withPart ((s.slice u).counter o) fun c => s.modSlice u fun _ => c
  | .xlat => withPart ((s.faultQ u).counter o) fun c => s.modFaultQ u fun _ => c
  | .ember => withPart ((s.ember u).counter o) fun c => s.modEmber u fun _ => c
  | .fabric => withPart (((s.port u).tally s.clk.elapsed).counter o) fun c => s.modPort u fun _ => c
  | .gate => withPart (((s.port u).tally s.clk.elapsed).gateCounter o) fun c => s.modPort u fun _ => c
  | .triplex => withPart (s.triplex.counter o) fun c => { s with triplex := c }
  | .sec => withPart (s.sec.counter o) fun c => { s with sec := c }
  | .bellows => withPart (s.bell.counter o) fun c => { s with bell := c }
  | .clkrst => withPart (s.boot.counter o) fun c => { s with boot := c }
  | .intc => withPart (s.intc.counter o) fun c => { s with intc := c }
  | .err => if o = 0x110 then some (s.diag.injApplied, { s with diag := { s.diag with injApplied := 0 } }) else none
  | _ => none

/-! ## Values (R508-R513, R517, R99, R156, R191, R229, R301, R335, R360, R380, R403, R454) -/

/-- Low or high word of a 64-bit value. -/
def wordOf (v : Nat) (high : Bool) : Nat := if high then v / 2 ^ 32 % 2 ^ 32 else v % 2 ^ 32

/-- IDENT (Table 17.6). -/
def State.identReg (s : State) (o : Nat) : Nat :=
  let up (h : Nat) : Bool := !s.hearthLost h
  let known (v : Nat) : Nat := if s.boot.ready then v else 0
  let hearths := ((List.range 4).filter up).length
  match o with
  | 0x000 => 0x1D9A + 2 ^ 16 * 0x1536
  | 0x004 => 0x0101
  | 0x008 => known (hearths + 2 ^ 3 * (64 * hearths) +
      2 ^ 12 * ((List.range 256).filter fun t => up (tileHearth t) && (s.ember t).inService).length +
      2 ^ 21 * ((List.range 512).filter fun g => up (chanHearth g) && ((s.chan g).state == .inService || (s.chan g).state == .migrating)).length)
  | 0x00C => known (((List.range 32).filter fun p => up (portHearth p) && !(s.port p).retired).length +
      2 ^ 6 * (s.triplex.units.filter fun u => u.state == .serving).length + 2 ^ 8 * (s.freeIn 0 512).length)
  | 0x010 => s.boot.envInForce
  | 0x014 => match s.endpoint with | some e => e + 2 ^ 15 | none => 0
  | 0x018 => known (s.activeCu.svn + 2 ^ 16 * s.activeCu.format)
  | 0x01C => s.diag.scratch
  | 0x020 => wordOf Config.serial.toNat false
  | 0x024 => wordOf Config.serial.toNat true
  | _ => 0

/-- INTC (Tables 13.13-13.16). -/
def State.intcReg (s : State) (o : Nat) : Nat :=
  if o < 0x1000 then
    let x := s.src (o / 4)
    x.priority + 2 ^ 3 * x.target + 2 ^ 6 * b2n x.enable + 2 ^ 7 * b2n (x.state == .pending) + 2 ^ 8 * b2n (x.state == .active) + 2 ^ 16 * x.count
  else match targetReg o with
    | some (k, 8) => (s.intc.targets.getD k {}).threshold
    | some (k, 0x10) =>
      (s.intc.srcs.filter fun (p : Nat × Src) => p.2.state == .pending && p.2.target == k).length +
        2 ^ 11 * (s.intc.srcs.filter fun (p : Nat × Src) => p.2.state == .active && p.2.claimer == k).length + 2 ^ 22 * b2n (s.intc.asserted k)
    | _ => 0

/-- TRIPLEX (Tables 12.6-12.8). -/
def State.triplexReg (s : State) (o : Nat) : Nat :=
  match o with
  | 0x000 => s.triplexStatus
  | 0x004 => s.triplex.rank.getD 0 0 + 4 * s.triplex.rank.getD 1 0 + 16 * s.triplex.rank.getD 2 0
  | _ => 0

/-- Bits of a list of flags, the first lowest. -/
def flagBits (l : List Bool) : Nat := l.foldr (fun b n => b2n b + 2 * n) 0

/-- CLKRST and the supply monitor (Tables 17.7, 17.8). -/
def State.clkrstReg (s : State) (o : Nat) : Nat :=
  let b := s.boot
  match o with
  | 0x004 => b.step + 2 ^ 4 * b2n b.ready + 2 ^ 5 * flagBits (s.triplex.units.map fun u => u.passed) +
      2 ^ 8 * flagBits (s.triplex.units.map fun u => u.backup) + 2 ^ 11 * b2n b.halted + 2 ^ 16 * min 255 b.tilesFenced
  | 0x008 => b.cause
  | 0x00C => b.envInForce + 2 ^ 2 * s.kept.envBurned + 2 ^ 4 * b2n s.kept.envSealed + 2 ^ 5 * b2n s.burning.isSome
  | 0x010 => flagBits ((List.range 4).map fun h => b.hresetPending.contains h || (b.hreset.map fun (r : PartialReset) => r.hearth) == some h)
  | 0x020 => b2n b.episode.isSome + 2 * b2n ((b.episode.map fun (e : Episode) => e.banked).getD false) + 2 ^ 2 * b.lowHearth + 2 ^ 16 * b.lowest
  | 0x038 => b.episodeLastLen + 2 ^ 24 * b2n b.episodeLastBanked
  | 0x040 => flagBits b.pll
  | _ => 0

/-- BELLOWS and the lifetime records (Tables 15.8-15.10). -/
def State.bellReg (s : State) (o : Nat) : Nat :=
  let b := s.bell
  if 0x040 ≤ o ∧ o < 0x090 then
    let i := (o - 0x040) / 4
    toBits 16 (b.die.getD i 0) + 2 ^ 16 * b2n (b.failed.contains i)
  else match o with
  | 0x000 => b2n (b.failsafe || b.starting) + 2 * b2n (s.activeProfile.isSome || s.aheadProfile.isSome) + 4 * b2n s.aheadProfile.isSome +
      2 ^ 3 * b.failedSensor + 2 ^ 8 * b2n (b.dieOver.any id)
  | 0x004 => b2n b.manual + 2 ^ 2 * b.manualValve + 2 ^ 13 * b.manualPump
  | 0x008 => b.setHearth + 2 ^ 8 * b.setStack + 2 ^ 16 * b.pumpMin
  | 0x00C => b.kp + 2 ^ 16 * b.ki
  | 0x010 => b.ffGain + 2 ^ 16 * b.defaultW
  | 0x014 => b.valve + 2 ^ 16 * b.pump
  | 0x018 => s.flow
  | 0x01C => b.flowK
  | 0x020 => toBits 16 b.inlet + 2 ^ 16 * toBits 16 b.outlet
  | 0x0B0 => b2n b.injArm + 2 * b.injSensor + 2 ^ 6 * b.injKind + 2 ^ 8 * b.injDuration
  | 0x100 => wordOf s.kept.lifeSeconds false
  | 0x104 => wordOf s.kept.lifeSeconds true
  | 0x108 => b.ckptSeq % 2 ^ 31 + 2 ^ 31 * b2n b.aonLost
  | _ => 0

/-- Cells queued for sending in a virtual channel (Table 9.17). -/
def Port.depth (q : Port) (vc : Nat) : Nat := min 1023 (q.txQ.filter fun k => codeVc k.opcode == vc).length

/-- A port's register block (Tables 9.14-9.18). -/
def State.fabReg (s : State) (p o : Nat) : Nat :=
  let q := s.port p
  match o with
  | 0x000 => s.fabState p
  | 0x004 => b2n q.resetting + 2 * b2n (q.state == .retrain) + 2 ^ 2 * b2n q.disable + 2 ^ 3 * q.maxWidth + 2 ^ 5 * q.maxSpeed + 2 ^ 7 * b2n q.mgmt + 2 ^ 8 * q.dropLane + 2 ^ 11 * q.retrainThresh
  | 0x040 => q.depth 0 + 2 ^ 10 * q.depth 1 + 2 ^ 20 * q.depth 2
  | 0x060 => b2n q.injArm + 2 * q.injKind + 2 ^ 3 * q.injLane + 2 ^ 6 * q.injSymbols
  | _ => 0

/-- A port's gate block (Tables 10.11-10.14); the network-time registers stand in the first port of each Hearth (R335). -/
def State.gateReg (s : State) (p o : Nat) : Nat :=
  let l := 256 + p
  if o < 0x2000 then
    match (s.gateList l)[o / 8]? with
    | some x => if o % 8 = 0 then x.len + 2 ^ 17 * x.owners.headD 0 else 0
    | none => 0
  else if 0x2100 ≤ o ∧ p % 8 ≠ 0 then 0
  else match o with
  | 0x2000 => (s.listPos l).entry + 2 ^ 10 * s.owner l 0 + 2 ^ 23 * s.sched.active + 2 ^ 24 * b2n (s.sched.pendingT.isSome && s.sched.pendingGates) +
      2 ^ 25 * b2n s.sched.isoClosed
  | 0x2004 => (s.port p).linkGuard
  | 0x2008 => toBits 16 (s.port p).asym
  | 0x2100 => wordOf s.clk.nt false
  | 0x2104 => wordOf s.clk.nt true
  | 0x2108 => s.clk.frac
  | 0x210C => s.net.state + 2 ^ 2 * s.net.parent + 2 ^ 7 * b2n s.net.grandmaster + 2 ^ 8 * s.net.distance
  | 0x2110 => toBits 32 (s.net.theta / 256)
  | 0x2114 => s.throttleLevel + 2 ^ 2 * b2n s.sched.event
  | _ => 0

/-- A channel's register block (Tables 3.11-3.16). -/
def State.memReg (s : State) (g o : Nat) : Nat :=
  let c := s.chan g
  match o with
  | 0x000 => chanCode c.state + 2 ^ 3 * b2n c.banked + 2 ^ 8 * c.poisoned.length + 2 ^ 12 * min 31 (c.merge.length + c.rmw.length)
  | 0x008 => c.activePoint + 4 * c.shadowPoint
  | 0x010 => c.latTgt.getD 0 8
  | 0x014 => c.latTgt.getD 1 8
  | 0x018 => c.latTgt.getD 2 8
  | 0x01C => c.latTgt.getD 3 8
  | 0x020 => toBits 32 c.refDebt
  | 0x050 => Config.rowSpares g
  | 0x060 => b2n c.injArm + 2 * c.injKind + 2 ^ 4 * b2n c.injMatch + 2 ^ 5 * c.injSymA + 2 ^ 12 * c.injSymB + 2 ^ 19 * c.injXor
  | 0x064 => wordOf c.injAddr false
  | 0x068 => wordOf c.injAddr true
  | _ => 0

/-- A slice's register block (Tables 6.9-6.13). -/
def State.dirReg (s : State) (i o : Nat) : Nat :=
  let c := s.slice i
  match o with
  | 0x000 =>
    let l := s.dir.filter fun (p : Nat × Option DirEnt) => homeTile p.1 == i
    l.length + 2 ^ 19 * (4096 - (l.filter fun (p : Nat × Option DirEnt) => (p.2.map fun (e : DirEnt) => e.mode) == some 1).length)
  | 0x004 => c.minHold
  | 0x008 => c.recallTo
  | 0x00C => c.syncWait
  | 0x010 => c.wayShared
  | _ => 0

/-- The 32 bytes of a fault entry (Table 5.5). -/
def FqEnt.bytes (e : FqEnt) : Bytes :=
  let f := e.fault
  let mask := ((List.range 64).map fun n => if e.mask.any (fun t => t % 64 == n) then 2 ^ n else 0).foldl (· + ·) 0
  natLE 8 f.span ++ natLE 8 mask ++ natLE 2 f.ctx ++ natLE 1 f.cause ++
    natLE 1 (f.level + 4 * b2n (!e.writers.isEmpty) + 8 * b2n e.marked + 16 * (if f.cause = causeTableError then f.reason else 0)) ++ natLE 4 e.seq ++
    natLE 8 (if f.cause = causeNoTable then noAddr else f.entryAddr)

/-- A Hearth's translation block (Tables 5.8-5.11). -/
def State.xlatReg (s : State) (h o : Nat) : Nat :=
  let q := s.faultQ h
  if o < 0x8000 then
    match Tab.get none q.slots (o / 32) with
    | some e => fieldAt e.bytes (o % 32) 4
    | none => 0
  else match o with
  | 0x10000 => q.slots.length + 2 ^ 11 * q.unread.length + 2 ^ 22 * b2n q.full + 2 ^ 23 * q.stall.length
  | 0x10004 => match q.unread with | i :: _ => i | [] => 2 ^ 16
  | _ => 0

/-- The code of an Ember's state: one that a supply episode holds at a boundary shows `paused` (R429, Table 7.14). -/
def State.emberCode (s : State) (t : Nat) : Nat :=
  let e := s.ember t
  let still := match e.run with | some r => e.displaceable r | none => true
  match e.state with
  | .fenced => 5
  | .testing => 6
  | .idle => if s.held then 7 else 0
  | .running => if s.held && still then 7 else 1
  | .waiting => if s.held && still then 7 else 4
  | .faultWait => 2
  | .switching => 3

/-- Preloads of plans that are armed (R193). -/
def State.preloaded (s : State) (t : Nat) : Nat :=
  ((s.ember t).preloads.filter fun k => match (s.plan k).map fun (p : Plan) => p.state with
    | some .armed => true
    | some .armedRunning => true
    | _ => false).length

/-- The run that holds an Ember belongs to a confidential context (R229, R231). -/
def State.embConf (s : State) (t : Nat) : Bool := match (s.ember t).run with | some r => s.ctxConf r.ctx | none => false

/-- An Ember's register block (Tables 7.13-7.18); what names a confidential run reads zero (R229). -/
def State.embReg (s : State) (t o : Nat) : Nat :=
  let e := s.ember t
  let seen (v : Nat) : Nat := if s.embConf t then 0 else v
  match o with
  | 0x000 => s.emberCode t + 2 ^ 3 * b2n ((e.run.map fun (r : Run) => r.dirty).getD false) + 2 ^ 4 * b2n (isoOwner (s.owner t resEmber)) +
      2 ^ 5 * min 127 e.queue.length + 2 ^ 12 * s.preloaded t
  | 0x004 => seen (match e.run with | some r => r.ctx + 2 ^ 12 + 2 ^ 13 * r.plan | none => 0)
  | 0x008 => e.quantum
  | 0x010 => seen (e.errClass + 2 ^ 8 * e.errReason + 2 ^ 16 * e.errIndex + 2 ^ 28 * min 15 e.errLost)
  | 0x014 => seen (wordOf e.errCva false)
  | 0x018 => seen (wordOf e.errCva true)
  | 0x060 => b2n e.injArm + 2 * e.injKind + 2 ^ 3 * e.injOffset
  | _ => 0

/-- The security block (Tables 11.11-11.13). -/
def State.secReg (s : State) (o : Nat) : Nat :=
  let c := (s.ctxs.filter fun (p : Nat × Option Ctx) => (p.2.map fun (x : Ctx) => x.conf).getD false).length
  match o with
  | 0x000 => b2n s.sec.attestReady + 2 * b2n s.anyConf + 2 ^ 2 * (s.sec.jtagLevel % 4) + 2 ^ 4 * b2n s.kept.debugDisabled +
      2 ^ 5 * b2n (decide (3 ≤ s.sec.unlockFails)) + 2 ^ 6 * b2n s.imagesDiffer + 2 ^ 7 * b2n s.sec.keystoreFenced
  | 0x008 => wordOf Config.serial.toNat false
  | 0x00C => wordOf Config.serial.toNat true
  | 0x010 => s.kept.bootCount
  | 0x014 => s.activeCu.svn + 2 ^ 16 * s.kept.svnFloor
  | 0x018 => b2n s.kept.debugDisabled
  | 0x020 => c
  | _ => 0

/-- ERRLOG and injection (Tables 17.9, 17.10, R513). -/
def State.errReg (s : State) (o : Nat) : Nat :=
  let d := s.diag
  if 0x020 ≤ o ∧ o < 0x040 then fieldAt d.errEntry (o - 0x020) 4
  else match o with
  | 0x000 => d.log.length + 2 ^ 14 * b2n d.wrapped + 2 ^ 15 * b2n d.selValid
  | 0x004 => (d.log.getLast?.map fun (e : LogEnt) => e.seq).getD 0
  | 0x008 => (d.log.head?.map fun (e : LogEnt) => e.seq).getD 0
  | 0x00C => d.errSel
  | 0x100 => b2n d.injArm + 2 * d.injKind + 2 ^ 5 * d.injUnit
  | 0x104 => d.injParam
  | 0x108 => wordOf d.injAddr false
  | 0x10C => wordOf d.injAddr true
  -- the cinder pattern, at an offset that the manual does not give (R78; log 134)
  | _ => if o = Config.cinderOffset then wordOf Config.cinderPattern false
         else if o = Config.cinderOffset + 4 then wordOf Config.cinderPattern true else 0

/-- TELEM (Table 17.15). -/
def State.telemReg (s : State) (o : Nat) : Nat :=
  let d := s.diag
  if 0x100 ≤ o ∧ o < 0x1100 then wordOf (d.telemValues.getD ((o - 0x100) / 8) 0) (o % 8 == 4)
  else match o with
  | 0x000 => d.telemGroup + 2 ^ 16 * d.telemIndex
  | 0x004 => b2n d.telemGo + 2 * b2n d.telemValid
  | 0x008 => d.telemCount
  | 0x010 => wordOf d.telemTime false
  | 0x014 => wordOf d.telemTime true
  | _ => 0

/-- The value in effect at an offset of a block's unit; 0 where no map names a register (R505). -/
def State.regWord (s : State) (b : RegBlock) (u o : Nat) : Nat :=
  match s.counter b u o with
  | some (v, _) => v
  | none =>
    match b with
    | .ident => s.identReg o
    | .intc => s.intcReg o
    | .triplex => s.triplexReg o
    | .clkrst => s.clkrstReg o
    | .bellows => s.bellReg o
    | .fabric => s.fabReg u o
    | .gate => s.gateReg u o
    | .mem => s.memReg u o
    | .dir => s.dirReg u o
    | .xlat => s.xlatReg u o
    | .ember => s.embReg u o
    | .sec => s.secReg o
    | .err => s.errReg o
    | .telem => s.telemReg o

/-! ## The log window (R510, R511) -/

/-- An entry as BAR0 shows it: one of a confidential context without address and detail (R511). -/
def LogEnt.shown (e : LogEnt) : Bytes := if e.conf then e.bytes noAddr [] else e.bytes e.dpa e.detail

/-- A seq in ERR_SEL captures its entry (R510). -/
def State.capture (s : State) (n : Nat) : State :=
  let e := s.diag.log.find? fun (x : LogEnt) => x.seq == n
  { s with diag := { s.diag with errSel := n, selValid := e.isSome, errEntry := (e.map LogEnt.shown).getD (zeros 32) } }

/-! ## Reads (R12, R499-R503) -/

/-- A reader's number in the keys of the shadows. -/
def readerCode : Reader → Nat
  | .host => 0 | .cuA => 1 | .cuB => 2 | .cuC => 3 | .jtag => 4

/-- The shadow of a reader for the 64-bit value whose low word stands at `off` (R503). -/
def shadowKey (rd : Reader) (off : Nat) : Nat := readerCode rd * 2 ^ 24 + off

/-- The low word of a 64-bit value stands at `o`. -/
def hasHigh (b : RegBlock) (o : Nat) : Bool := lowWord b (o + 4) == some o

/-- A claim register at `o`. -/
def claimReg (b : RegBlock) (o : Nat) : Option Nat :=
  match b, targetReg o with
  | .intc, some (k, 0) => some k
  | _, _ => none

/-- A read of a low word latches the high word for the reader (R503). -/
def State.latchHigh (s : State) (rd : Reader) (b : RegBlock) (u o off : Nat) : State :=
  if hasHigh b o then { s with diag := { s.diag with shadows := Tab.set 0 s.diag.shadows (shadowKey rd off) (s.regWord b u (o + 4)) } } else s

/-- What a read of a register's word does to the device: a low word latches its high word for the reader, a counter is cleared,
ERR_ENTRY7 advances the log window. A control unit that does not hold the token changes nothing but its own shadow (R363). -/
def State.afterRead (s : State) (rd : Reader) (b : RegBlock) (u o off : Nat) : State :=
  let s' := s.latchHigh rd b u o off
  if !s.mayWrite rd b.hostOnly then s'
  else match s'.counter b u o with
    | some (_, t) => t
    | none => if b = .err ∧ o = 0x3C then s'.capture ((s'.diag.errSel + 1) % 2 ^ 32) else s'

/-- One read access in the normal window: the value and the device after it. -/
def State.readReg (s : State) (rd : Reader) (b : RegBlock) (u o off : Nat) : Nat × State :=
  match lowWord b o with
  | some _ => (Tab.get 0 s.diag.shadows (shadowKey rd (off - 4)), s)
  | none =>
    match claimReg b o with
    | some k => if (Reader.isHost rd && unitTarget k) || !s.mayWrite rd false then (0, s) else s.claim k
    | none => (s.regWord b u o, s.afterRead rd b u o off)

/-! ## BAR4 and configuration space (R383, R384, R387, R394; log 62) -/

/-- Where this model shows BAR4 and the configuration space to REGISTER_WRITE. -/
def bar4Base : Nat := 0x4000000
def cfgBase : Nat := 0x5000000

/-- Ways and granularity of a decoder's codes; 0 where the part does not support the code (R387). -/
def waysOf (c : Nat) : Nat := if c ≤ 4 then 2 ^ c else 0
def granOf (c : Nat) : Nat := if c ≤ 6 then 2 ^ (8 + c) else 0

/-- One word of a decoder: base, size, control, skip. -/
def Decoder.word (d : Decoder) (o : Nat) : Nat :=
  match o with
  | 0x00 => wordOf d.base false
  | 0x04 => wordOf d.base true
  | 0x08 => wordOf d.size false
  | 0x0C => wordOf d.size true
  | 0x10 => (Nat.log2 d.granularity - 8) + 2 ^ 4 * Nat.log2 d.ways + 2 ^ 9 * b2n d.committed + 2 ^ 10 * b2n d.committed
  | 0x14 => wordOf d.skip false
  | 0x18 => wordOf d.skip true
  | _ => 0

/-- A 64-bit value with its low or high word replaced; the low 28 bits are zero (256 MiB). -/
def setLow (old v : Nat) : Nat := old / 2 ^ 32 * 2 ^ 32 + v / 2 ^ 28 * 2 ^ 28
def setHigh (old v : Nat) : Nat := old % 2 ^ 32 + 2 ^ 32 * v

/-- A write of one word of a decoder: a committed one takes only the end of its commitment; a code the part does not support is not committed. -/
def Decoder.put (d : Decoder) (o v : Nat) : Decoder :=
  if d.committed then (if o = 0x10 ∧ !bit v 9 then { d with committed := false } else d)
  else match o with
    | 0x00 => { d with base := setLow d.base v }
    | 0x04 => { d with base := setHigh d.base v }
    | 0x08 => { d with size := setLow d.size v }
    | 0x0C => { d with size := setHigh d.size v }
    | 0x10 =>
      let w := waysOf (bits v 4 4)
      let g := granOf (bits v 0 4)
      if w = 0 ∨ g = 0 then d else { d with ways := w, granularity := g, committed := bit v 9 }
    | 0x14 => { d with skip := setLow d.skip v }
    | 0x18 => { d with skip := setHigh d.skip v }
    | _ => d

/-- Decoder and word of an offset in BAR4. -/
def decoderAt (o : Nat) : Option (Nat × Nat) := if 0x1210 ≤ o ∧ o < 0x1310 then some ((o - 0x1210) / 0x20, (o - 0x1210) % 0x20) else none

/-- BAR4 (Table 13.3). -/
def State.bar4Word (s : State) (o : Nat) : Nat :=
  match decoderAt o with
  | some (k, r) => (s.cxl.decoders.getD k {}).word r
  | none =>
    if o = 0x11004 then 2 * b2n s.cxl.mbIrq
    else if o = 0x12000 then 4 * b2n s.cxl.mediaReady + 16
    else if 0x20000 ≤ o ∧ o < 0x20080 then
      let e := (o - 0x20000) / 16
      if o % 16 = 12 then b2n (s.cxl.msixMasked.getD e true) else s.cxl.msixTable.getD (3 * e + o % 16 / 4) 0
    else if o = 0x21000 then flagBits s.cxl.msixPending
    else 0

/-- A vector's mask: an unmasked vector whose pending bit is set sends its message (R394). -/
def State.maskVector (s : State) (v : Nat) (on : Bool) : State :=
  let s := { s with cxl := { s.cxl with msixMasked := s.cxl.msixMasked.set v on } }
  if !on && s.cxl.msixPending.getD v false then ({ s with cxl := { s.cxl with msixPending := s.cxl.msixPending.set v false } }).msix v else s

/-- A write in BAR4. -/
def State.bar4Write (s : State) (o v : Nat) : State :=
  match decoderAt o with
  | some (k, r) => { s with cxl := { s.cxl with decoders := s.cxl.decoders.modify k fun d => d.put r v } }
  | none =>
    if o = 0x11004 then { s with cxl := { s.cxl with mbIrq := bit v 1 } }
    else if 0x20000 ≤ o ∧ o < 0x20080 then
      let e := (o - 0x20000) / 16
      if o % 16 = 12 then s.maskVector e (bit v 0) else { s with cxl := { s.cxl with msixTable := s.cxl.msixTable.set (3 * e + o % 16 / 4) v } }
    else s

/-- The size of the BAR whose low word is word `i`: 64, 16 and 1 MiB (Table 13.2). -/
def barSize (i : Nat) : Nat := match i with | 0 => 2 ^ 26 | 2 => 2 ^ 24 | _ => 2 ^ 20

/-- Configuration space. -/
def State.cfgWord (s : State) (o : Nat) : Nat :=
  if o = 0x00 then s.identReg 0
  else if o = 0x04 then 4 * b2n s.cxl.busMaster
  else if o = 0x08 then 1 + 2 ^ 8 * 0x050210
  else if 0x10 ≤ o ∧ o < 0x28 then
    let i := (o - 0x10) / 4
    s.cxl.bars.getD i 0 + (if i % 2 = 0 then 4 + 8 * b2n (i == 2) else 0)
  else if o = 0xB0 then 7 * 2 ^ 16 + 2 ^ 31 * b2n s.cxl.msixEnabled + 0x11
  else if o = 0x168 then 2 * b2n s.cxl.doeIrq
  else 0

/-- A write in configuration space: bus mastering, the BARs, MSI-X enable, the DOE interrupt. -/
def State.cfgWrite (s : State) (o v : Nat) : State :=
  if o = 0x04 then { s with cxl := { s.cxl with busMaster := bit v 2 } }
  else if 0x10 ≤ o ∧ o < 0x28 then
    let i := (o - 0x10) / 4
    { s with cxl := { s.cxl with bars := s.cxl.bars.set i (if i % 2 = 0 then v / barSize i * barSize i else v) } }
  else if o = 0xB0 then { s with cxl := { s.cxl with msixEnabled := bit v 31 } }
  else if o = 0x168 then { s with cxl := { s.cxl with doeIrq := bit v 1 } }
  else s

/-- The host over its link, outside a reset, reaches the function's own registers. -/
def State.functionReached (s : State) (rd : Reader) : Bool := rd == .host && s.reached rd true

/-! ## One read access -/

/-- A read at any offset: its value leaves the device. Unaligned offsets, alias windows and offsets that no map names read 0 without an effect
(R500, R502, R505). -/
def State.readAccess (s : State) (rd : Reader) (off : Nat) : State :=
  let shown (v : Nat) (t : State) : State := t.emit (.regRead rd off (BitVec.ofNat 32 v))
  if bar4Base ≤ off then
    if !s.functionReached rd then s
    else shown (if off % 4 ≠ 0 then 0 else if off < cfgBase then s.bar4Word (off - bar4Base) else s.cfgWord (off - cfgBase)) s
  else match regAt off with
    | none => if s.reached rd false then shown 0 s else s
    | some (b, u, o) =>
      if !s.reached rd b.hostOnly then s
      else if off % 4 ≠ 0 then shown 0 s
      else
        let (v, t) := s.readReg rd b u o off
        shown v t

/-! ## Writes (R12, R504, R506) -/

/-- A value held within bounds. -/
def heldIn (lo hi v : Nat) : Nat := max lo (min hi v)

/-- The low word of a 64-bit value is held until its high word is written (R504); `off` is the low word's offset. -/
def State.holdLow (s : State) (off v : Nat) : State := { s with diag := { s.diag with heldLow := Tab.set 0 s.diag.heldLow off v } }
def State.lowHeld (s : State) (off : Nat) : Nat := Tab.get 0 s.diag.heldLow off

/-- An arm of MEM_INJ_CTRL describes a fault (R101). -/
def memInjOk (kind a b x : Nat) : Bool :=
  match kind with
  | 0 | 4 | 5 => x != 0 && decide (a ≤ 71)
  | 1 => x != 0 && decide (a ≤ 71) && decide (b ≤ 71) && a != b
  | 2 => x != 0
  | 7 => false
  | _ => true

/-- MEM_INJ_CTRL takes a value (R101): nothing while it is armed (Table 17.16). -/
def State.memInj (s : State) (g v : Nat) : State :=
  if (s.chan g).injArm then s
  else
    let k := bits v 1 3
    let a := bits v 5 7
    let b := bits v 12 7
    let x := bits v 19 8
    s.modChan g fun c => { c with injKind := k, injMatch := bit v 4, injSymA := a, injSymB := b, injXor := x, injArm := bit v 0 && memInjOk k a b x }

/-- A channel's writable registers. -/
def State.memWrite (s : State) (g o off v : Nat) : State :=
  match o with
  | 0x008 => s.modChan g fun c => { c with shadowPoint := bits v 2 2 }
  | 0x010 | 0x014 | 0x018 | 0x01C => s.modChan g fun c => { c with latTgt := c.latTgt.set ((o - 0x010) / 4) (max 8 (v % 2 ^ 16)) }
  | 0x060 => s.memInj g v
  | 0x064 => if (s.chan g).injArm then s else s.holdLow off v
  | 0x068 => if (s.chan g).injArm then s else s.modChan g fun c => { c with injAddr := s.lowHeld (off - 4) + 2 ^ 32 * v }
  | _ => s

/-- A slice's writable registers (Tables 6.11-6.13). -/
def State.dirWrite (s : State) (i o v : Nat) : State :=
  match o with
  | 0x004 => s.modSlice i fun c => { c with minHold := min 250 (v % 2 ^ 8) }
  | 0x008 => s.modSlice i fun c => { c with recallTo := heldIn 1 16000 (v % 2 ^ 14) }
  | 0x00C => s.modSlice i fun c => { c with syncWait := heldIn 1 16000 (v % 2 ^ 14) }
  | 0x010 => s.modSlice i fun c => { c with wayShared := if v % 2 ^ 16 = 0 then c.wayShared else v % 2 ^ 16 }
  | _ => s

/-- EMB_INJ_CTRL takes a value (R231): nothing while it is armed or a confidential context is resident. -/
def State.embInj (s : State) (t v : Nat) : State :=
  if (s.ember t).injArm || s.embConf t then s
  else
    let k := bits v 1 2
    let o := bits v 3 21
    let ok := k != 3 && !(k == 0 && decide (1572863 < o))
    s.modEmber t fun e => { e with injKind := k, injOffset := o, injArm := bit v 0 && ok }

/-- An Ember's writable registers. -/
def State.embWrite (s : State) (t o v : Nat) : State :=
  match o with
  | 0x008 => s.modEmber t fun e => { e with quantum := heldIn 1 10000 (v % 2 ^ 14) }
  | 0x060 => s.embInj t v
  | _ => s

/-- FAB_CTRL takes a value (Table 9.16): the stored fields, then disable, reset and retrain as they are asked for. -/
def State.fabCtrl (s : State) (p v : Nat) : State :=
  let was := (s.port p).disable
  let s := s.modPort p fun q => { q with maxWidth := max 1 (bits v 3 2), maxSpeed := max 1 (bits v 5 2), mgmt := bit v 7, dropLane := bits v 8 3,
                                         retrainThresh := bits v 11 16 }
  let s := if bit v 2 == was then s else s.setDisable p (bit v 2)
  let s := if bit v 0 then s.ctrlReset p else s
  if bit v 1 then s.startRetrain p else s

/-- A port's writable registers. -/
def State.fabWrite (s : State) (p o v : Nat) : State :=
  match o with
  | 0x004 => s.fabCtrl p v
  | 0x060 => s.fabInj p v
  | _ => s

/-- The writable registers of a gate block (Table 10.13). -/
def State.gateWrite (s : State) (p o v : Nat) : State :=
  match o with
  | 0x2004 => s.modPort p fun q => { q with linkGuard := v % 2 ^ 12 }
  | 0x2008 => s.modPort p fun q => { q with asym := signed 16 (v % 2 ^ 16) }
  | _ => s

/-- The writable registers of bellows (Tables 15.9, 15.10). -/
def State.bellWrite (s : State) (o v : Nat) : State :=
  if !s.bellowsOn then s
  else match o with
  | 0x004 =>
    let s := s.modBell fun b => { b with manual := bit v 0, manualValve := bits v 2 11, manualPump := bits v 13 11 }
    if bit v 1 then s.clearFailsafe else s
  | 0x008 => s.modBell fun b => { b with setHearth := heldIn 60 95 (bits v 0 8), setStack := heldIn 55 85 (bits v 8 8), pumpMin := bits v 16 11 }
  | 0x00C => s.modBell fun b => { b with kp := bits v 0 16, ki := bits v 16 16 }
  | 0x010 => s.modBell fun b => { b with ffGain := bits v 0 16, defaultW := bits v 16 16 }
  | 0x01C => s.modBell fun b => { b with flowK := v % 2 ^ 16 }
  | 0x0B0 => s.bellInj v
  | _ => s

/-- INTC's writable registers (Table 13.13). -/
def State.intcWrite (s : State) (host : Bool) (o v : Nat) : State :=
  if o < 0x1000 then s.writeSrc host (o / 4) v
  else if o = 0x1200 then s.rise (0x3F0 + bits v 0 4)
  else match targetReg o with
    | some (k, 4) => if host && unitTarget k then s else s.completeSrc k (bits v 0 10)
    | some (k, 8) => s.withIntc { s.intc with targets := s.intc.targets.modify k fun t => { t with threshold := bits v 0 3 } }
    | _ => s

/-- TRIPLEX_RANK (Table 12.8): a write that does not name each unit once is ignored. -/
def State.writeRank (s : State) (v : Nat) : State :=
  let l := [bits v 0 2, bits v 2 2, bits v 4 2]
  if [0, 1, 2].all fun u => l.contains u then { s with triplex := { s.triplex with rank := l } } else s

/-- CLKRST's writable registers (Table 17.8). -/
def State.clkrstWrite (s : State) (rd : Reader) (o v : Nat) : State :=
  match o with
  | 0x000 => if bit v 0 && bits v 8 8 == 0xD1 then s.toReset 3 else s
  | 0x00C => if rd == .host then s.burnEnvelope v else s
  | 0x010 => ((List.range 4).filter fun h => bit v h).foldl (fun (t : State) h => t.askPartial h) s
  | _ => s

/-- SEC_DEBUG (R358): a write of 0 to disable is ignored. -/
def State.secWrite (s : State) (rd : Reader) (o v : Nat) : State :=
  if o = 0x018 ∧ s.secDebugWrite rd then
    let s := if bit v 1 then s.relock else s
    if bit v 0 then s.debugOff else s
  else s

/-- Some line of a pool address qualifies for an injection of kind 3 or 8: a sync word, a triple-placed line; not of a confidential region
(R514, Table 17.13). -/
def State.injTarget (s : State) (kind : Nat) : Bool :=
  match s.resolve s.diag.injAddr with
  | none => false
  | some (rn, dpa) =>
    match s.region rn with
    | none => false
    | some r => !r.conf && (if kind = 3 then s.syncArea dpa else decide ((s.granuleOf (dpa / 64)).length = 3))

/-- An arm of ERR_INJ_CTRL may stand: its unit is in range, its address qualifies (Table 17.13). -/
def State.errInjOk (s : State) (kind unit : Nat) : Bool :=
  match kind with
  | 1 | 4 => decide (unit < 256)
  | 2 => decide (unit < 4)
  | 3 => s.injTarget 3
  | 5 => true
  | 6 => decide (unit < 3) && s.lockstep
  | 7 => decide (unit < 3)
  | 8 => s.injTarget 8
  | 11 => decide (unit < 32)
  | _ => false

/-- ERR_INJ_CTRL takes a value (R513): nothing while it is armed (Table 17.16). Kinds 9 and 10 act at once. -/
def State.errInj (s : State) (v : Nat) : State :=
  if s.diag.injArm then s
  else
    let k := bits v 1 4
    let u := bits v 5 10
    let s := { s with diag := { s.diag with injKind := k, injUnit := u } }
    if !bit v 0 then s
    else if k = 9 then
      let d := heldIn 1 10000 (bits s.diag.injParam 0 14)
      let s := { s with boot := { s.boot with heldUntil := s.clk.elapsed + 1000 * d } }
      (s.supplyWarning s.boot.lowHearth 690).injected 0x28 u
    else if k = 10 then (s.injected 0x29 u).toReset 2
    else { s with diag := { s.diag with injArm := s.errInjOk k u } }

/-- A write to ERR_SEL (R510). -/
def State.errWrite (s : State) (o off v : Nat) : State :=
  match o with
  | 0x00C => s.capture v
  | 0x100 => s.errInj v
  | 0x104 => if s.diag.injArm then s else { s with diag := { s.diag with injParam := v } }
  | 0x108 => if s.diag.injArm then s else s.holdLow off v
  | 0x10C => if s.diag.injArm then s else { s with diag := { s.diag with injAddr := s.lowHeld (off - 4) + 2 ^ 32 * v } }
  | _ => s

/-- TELEM_CAPTURE.go starts a capture (R517). -/
def State.telemGo (s : State) : State := { s with diag := { s.diag with telemGo := true } }

/-- TELEM's writable registers (Table 17.15). -/
def State.telemWrite (s : State) (o v : Nat) : State :=
  match o with
  | 0x000 => { s with diag := { s.diag with telemGroup := bits v 0 8, telemIndex := bits v 16 10 } }
  | 0x004 => if bit v 0 then s.telemGo else s
  | _ => s

/-- A write of `v` to a register of the normal window (R12, R506); a unit of a lost Hearth takes none (log 63). -/
def State.writeReg (s : State) (rd : Reader) (b : RegBlock) (u o off v : Nat) : State :=
  if (match b.hearth u with | some h => s.hearthLost h | none => false) then s
  else match b with
  | .ident => if o = 0x1C then { s with diag := { s.diag with scratch := v } } else s
  | .intc => s.intcWrite (Reader.isHost rd) o v
  | .triplex => if o = 0x004 then s.writeRank v else s
  | .clkrst => s.clkrstWrite rd o v
  | .bellows => s.bellWrite o v
  | .fabric => s.fabWrite u o v
  | .gate => s.gateWrite u o v
  | .mem => s.memWrite u o off v
  | .dir => s.dirWrite u o v
  | .xlat => if o = 0x10008 then s.markSlot u (bits v 0 10) else s
  | .ember => s.embWrite u o v
  | .sec => s.secWrite rd o v
  | .err => s.errWrite o off v
  | .telem => s.telemWrite o v

/-- The RW fields of a register; none of a register that takes a key (R501). -/
def rwBits (b : RegBlock) (o : Nat) : Nat :=
  match b, o with
  | .ident, 0x1C => 0xFFFFFFFF
  | .triplex, 0x004 => 0x3F
  | .bellows, 0x004 => 0x00FFFFFD
  | .bellows, 0x008 => 0x07FFFFFF
  | .bellows, 0x00C => 0xFFFFFFFF
  | .bellows, 0x010 => 0xFFFFFFFF
  | .bellows, 0x01C => 0xFFFF
  | .bellows, 0x0B0 => 0xFFFE
  | .fabric, 0x004 => 0x07FFFFFC
  | .fabric, 0x060 => 0x3FFE
  | .gate, 0x2004 => 0xFFF
  | .gate, 0x2008 => 0xFFFF
  | .mem, 0x008 => 0xC
  | .mem, 0x010 => 0xFFFF
  | .mem, 0x014 => 0xFFFF
  | .mem, 0x018 => 0xFFFF
  | .mem, 0x01C => 0xFFFF
  | .mem, 0x060 => 0x07FFFFFE
  | .mem, 0x064 => 0xFFFFFFFF
  | .mem, 0x068 => 0xFFFFFFFF
  | .dir, 0x004 => 0xFF
  | .dir, 0x008 => 0x3FFF
  | .dir, 0x00C => 0x3FFF
  | .dir, 0x010 => 0xFFFF
  | .ember, 0x008 => 0x3FFF
  | .ember, 0x060 => 0x00FFFFFE
  | .sec, 0x018 => 1
  | .err, 0x00C => 0xFFFFFFFF
  | .err, 0x100 => 0x7FFE
  | .err, 0x104 => 0xFFFFFFFF
  | .err, 0x108 => 0xFFFFFFFF
  | .err, 0x10C => 0xFFFFFFFF
  | .telem, 0x000 => 0x03FF00FF
  | .intc, o => if o < 0x1000 then 0x7F else match targetReg o with | some (_, 8) => 7 | _ => 0
  | _, _ => 0

/-- The SC fields of a register. -/
def scBits (b : RegBlock) (o : Nat) : Nat :=
  match b, o with
  | .clkrst, 0x010 => 0xF
  | .bellows, 0x004 => 2
  | .bellows, 0x0B0 => 1
  | .fabric, 0x004 => 3
  | .fabric, 0x060 => 1
  | .mem, 0x060 => 1
  | .ember, 0x060 => 1
  | .sec, 0x018 => 2
  | .err, 0x100 => 1
  | .telem, 0x004 => 1
  | _, _ => 0

/-- The new value of RW fields in an alias window (Table 17.1). -/
def AliasWindow.apply (w : AliasWindow) (old v : Nat) : Nat :=
  match w with
  | .set => old ||| v
  | .clear => old - (old &&& v)
  | .toggle => old ^^^ v

/-- The value an alias write stores: RW fields by the window, SC fields in the set window only (R501). -/
def aliasValue (w : AliasWindow) (rw sc old v : Nat) : Nat :=
  AliasWindow.apply w (old &&& rw) (v &&& rw) + (if w = .set then v &&& sc else 0)

/-- A write in an alias window (R501): a register without RW and SC fields ignores it. -/
def State.aliasWrite (s : State) (rd : Reader) (w : AliasWindow) (b : RegBlock) (u o off v : Nat) : State :=
  let rw := rwBits b o
  let sc := scBits b o
  if rw = 0 ∧ sc = 0 then s else s.writeReg rd b u o off (aliasValue w rw sc (s.regWord b u o) v)

/-- A write access in a window of BAR0; `w`: none in the normal one. Unaligned writes are ignored (R500). -/
def State.bar0Write (s : State) (rd : Reader) (w : Option AliasWindow) (off v : Nat) : State :=
  match regAt off with
  | none => s
  | some (b, u, o) =>
    if off % 4 ≠ 0 || !s.mayWrite rd b.hostOnly then s
    else match w with
      | none => s.writeReg rd b u o off v
      | some k => s.aliasWrite rd k b u o off v

/-- The alias window of a BAR0 offset (R499). -/
def windowOf (off : Nat) : Option AliasWindow := match off / 2 ^ 24 with | 0 => none | 1 => some .set | 2 => some .clear | _ => some .toggle

/-- A write at any offset. -/
def State.writeAccess (s : State) (rd : Reader) (off v : Nat) : State :=
  if bar4Base ≤ off then
    if !s.functionReached rd || off % 4 ≠ 0 then s
    else if off < cfgBase then s.bar4Write (off - bar4Base) v else s.cfgWrite (off - cfgBase) v
  else s.bar0Write rd (windowOf off) (off % 2 ^ 24) v

/-! ## The rows -/

/-- MEM_INJ_CTRL (R101). -/
def execMemInjCtrl (rd : Reader) (g : Nat) (v : Reg) (s : State) : Out :=
  done (onUnit g 512 (fun s => if s.mayWrite rd false && !s.hearthLost (chanHearth g) then s.memInj g v.toNat else s) s)

/-- EMB_INJ_CTRL (R231). -/
def execEmbInjCtrl (rd : Reader) (tile : Nat) (v : Reg) (s : State) : Out :=
  done (onUnit tile 256 (fun s => if s.mayWrite rd false && !s.hearthLost (tileHearth tile) then s.embInj tile v.toNat else s) s)

/-- XLAT_FQ_MARK (R157). -/
def execXlatFqMark (rd : Reader) (h : Nat) (v : Reg) (s : State) : Out :=
  done (onUnit h 4 (fun s => if s.mayWrite rd false && !s.hearthLost h then s.markSlot h (bits v.toNat 0 10) else s) s)

/-- ERR_SEL (R510). -/
def execErrSel (rd : Reader) (v : Reg) (s : State) : Out := done (if s.mayWrite rd false then s.capture v.toNat else s)

/-- ERR_ENTRY_ADVANCE (R510): a read of ERR_ENTRY7. -/
def execErrEntryAdvance (rd : Reader) (s : State) : Out := done (s.readAccess rd 0x58003C)

/-- ERR_INJ_CTRL (R513). -/
def execErrInjCtrl (rd : Reader) (v : Reg) (s : State) : Out := done (if s.mayWrite rd false then s.errInj v.toNat else s)

/-- TELEM_CAPTURE (R517): a write of 1 to go; one while it runs is ignored (R12). -/
def execTelemCapture (rd : Reader) (s : State) : Out := done (if s.mayWrite rd false then s.telemGo else s)

/-- TELEM_CAPTURE_DONE (R517): the selected record is captured, as a read by context 0. -/
def execTelemCaptureDone (s : State) : Out :=
  done (
    if !s.diag.telemGo then s
    else
      let g := s.diag.telemGroup
      let i := s.diag.telemIndex
      let s := { s with diag := { s.diag with telemGo := false, telemTime := s.clk.nt } }
      match s.telemValues 0 g i with
      | none => { s with diag := { s.diag with telemValid := false, telemCount := 0, telemValues := [] } }
      | some l => { s with diag := { s.diag with telemValid := true, telemCount := l.length, telemValues := l } }.telemRead g i)

/-- COUNTER_READ_CLEAR (R12, R100): a read access; a counter is cleared by it. -/
def execCounterReadClear (rd : Reader) (off : Nat) (s : State) : Out := done (s.readAccess rd off)

/-- LOW_WORD_LATCH_READ (R503): a read access; a low word latches its high word for the reader. -/
def execLowWordLatchRead (rd : Reader) (off : Nat) (s : State) : Out := done (s.readAccess rd off)

/-- HIGH_WORD_WRITE (R504): the write of the high word of a 64-bit value. -/
def execHighWordWrite (rd : Reader) (off : Nat) (v : Reg) (s : State) : Out :=
  done (match regAt off with
    | some (b, _, o) => if (lowWord b o).isSome then s.writeAccess rd off v.toNat else s
    | none => s)

/-- REGISTER_ALIAS_WRITE (R501). -/
def execRegisterAliasWrite (rd : Reader) (win : AliasWindow) (off : Nat) (v : Reg) (s : State) : Out :=
  done (if off < 2 ^ 24 then s.bar0Write rd (some win) off v.toNat else s)

/-- REGISTER_WRITE (R12, R499). -/
def execRegisterWrite (rd : Reader) (off : Nat) (v : Reg) (s : State) : Out := done (s.writeAccess rd off v.toNat)

end Sys2Proof.Machine
end

