-- ==== Sys2Proof/Machine/Spdm.lean ====
section
/-! DEFINITION. The SPDM 1.2 responder behind the DOE mailbox (chapter 11): R349 fixes the version, the requests, the capabilities, the
algorithms, slot 0 and the measurement blocks; the layouts of the messages and what a signature covers are those of the DMTF's SPDM 1.2
(log 153). -/

set_option Elab.async false

namespace Sys2Proof.Machine

/-- The requests of Table 11.6. -/
def spdmCodes : List Nat := [0x81, 0x82, 0x83, 0x84, 0xE0, 0xE1, 0xE3]

/-- A message answers. -/
def State.spdmSay (s : State) (msg : Bytes) : State := s.doeDone (.spdm msg)

/-- An SPDM error response: code and data. -/
def State.spdmError (s : State) (code info : Nat) : State :=
  s.spdmSay (natLE 1 0x12 ++ natLE 1 0x7F ++ natLE 1 code ++ natLE 1 info)

/-- An SPDM request that a row takes: of its code and version 1.2 (GET_VERSION: 1.0), with at least `step` connection requests answered. A
request that is not supported, of another version or out of its place is answered so. -/
def State.onSpdm (s : State) (code step : Nat) (req : Bytes) (f : State → State) : State :=
  s.onMailbox fun s =>
    let c := fieldAt req 1 1
    if c ≠ code then (if spdmCodes.contains c then s else s.spdmError 0x07 c)
    else if fieldAt req 0 1 ≠ (if code = 0x84 then 0x10 else 0x12) then s.spdmError 0x41 0
    else if s.sec.spdmStep < step then s.spdmError 0x04 0
    else f s

/-- A signed request: the attestation key of this boot must exist. -/
def State.onSigned (s : State) (code : Nat) (req : Bytes) (f : State → State) : State :=
  s.onSpdm code 3 req fun s => if !s.sec.attestReady || s.engineLost then s.spdmError 0x05 0 else f s

/-- The connection stands at step `n`, with its messages so far. -/
def State.spdmAt (s : State) (n : Nat) (vca : Bytes) : State :=
  { s with sec := { s.sec with spdmStep := n, spdmVca := vca, spdmCerts := [], spdmMeas := [] } }

/-- GET_VERSION: 1.2 only; the connection starts again. -/
def execGetVersion (req : Bytes) (s : State) : Out :=
  done (s.onSpdm 0x84 0 req fun s =>
    let rsp := natLE 1 0x10 ++ natLE 1 0x04 ++ zeros 3 ++ natLE 1 1 ++ natLE 2 0x1200
    (s.spdmAt 1 (req ++ rsp)).spdmSay rsp)

/-- GET_CAPABILITIES: CERT_CAP, CHAL_CAP, MEAS_CAP with signature, MEAS_FRESH_CAP; messages of up to 4 KiB (R393). -/
def execGetCapabilities (req : Bytes) (s : State) : Out :=
  done (s.onSpdm 0xE1 1 req fun s =>
    if s.sec.spdmStep ≠ 1 then s.spdmError 0x04 0
    else
      let rsp := natLE 1 0x12 ++ natLE 1 0x61 ++ zeros 3 ++ natLE 1 Config.spdmCtRaw ++ zeros 2 ++ natLE 4 0x36 ++ natLE 4 4096 ++ natLE 4 4096
      (s.spdmAt 2 (s.sec.spdmVca ++ req ++ rsp)).spdmSay rsp)

/-- TPM_ALG_SM2_ECC_SM2_P256 and TPM_ALG_SM3_256 as bits of the algorithm masks of a request. -/
def algSm2 : Nat := 2 ^ 9
def algSm3 : Nat := 2 ^ 6

/-- The bit of a mask where the requester offers it. -/
def offered (mask alg : Nat) : Nat := if mask / alg % 2 = 1 then alg else 0

/-- NEGOTIATE_ALGORITHMS: SM2 with SM3, where the requester offers them. -/
def execNegotiateAlgorithms (req : Bytes) (s : State) : Out :=
  done (s.onSpdm 0xE3 2 req fun s =>
    let asym := offered (fieldAt req 8 4) algSm2
    let hash := offered (fieldAt req 12 4) algSm3
    if s.sec.spdmStep ≠ 2 then s.spdmError 0x04 0
    else if asym = 0 ∨ hash = 0 then s.spdmError 0x01 0
    else
      let rsp := natLE 1 0x12 ++ natLE 1 0x63 ++ zeros 2 ++ natLE 2 36 ++ natLE 1 1 ++ zeros 1 ++ natLE 4 (2 * algSm3) ++ natLE 4 asym ++
        natLE 4 hash ++ zeros 16
      (s.spdmAt 3 (s.sec.spdmVca ++ req ++ rsp)).spdmSay rsp)

/-- The certificate chain of slot 0 (R337) with SPDM's head: its length and the root certificate's digest. -/
def State.spdmChain (s : State) : Bytes := natLE 2 (36 + s.chain.length) ++ zeros 2 ++ padTo 32 (Config.sm3 Config.vendorCert) ++ s.chain

/-- A certificate request and its answer join what the next CHALLENGE signs. -/
def State.spdmCert (s : State) (req rsp : Bytes) : State :=
  { s with sec := { s.sec with spdmCerts := s.sec.spdmCerts ++ req ++ rsp, spdmMeas := [] } }

/-- GET_DIGESTS: slot 0 only. -/
def execGetDigests (req : Bytes) (s : State) : Out :=
  done (s.onSigned 0x81 req fun s =>
    let rsp := natLE 1 0x12 ++ natLE 1 0x01 ++ zeros 1 ++ natLE 1 1 ++ padTo 32 (Config.sm3 s.spdmChain)
    (s.spdmCert req rsp).spdmSay rsp)

/-- GET_CERTIFICATE: slot 0 only; a part of the chain and the length that remains. -/
def execGetCertificate (req : Bytes) (s : State) : Out :=
  done (s.onSigned 0x82 req fun s =>
    let offset := fieldAt req 4 2
    if fieldAt req 2 1 % 16 ≠ 0 ∨ s.spdmChain.length ≤ offset then s.spdmError 0x01 0
    else
      let part := (s.spdmChain.drop offset).take (min (fieldAt req 6 2) 4088)
      let rsp := natLE 1 0x12 ++ natLE 1 0x02 ++ zeros 2 ++ natLE 2 part.length ++ natLE 2 (s.spdmChain.length - offset - part.length) ++ part
      (s.spdmCert req rsp).spdmSay rsp)

/-- A signature of the attestation key over a transcript: SPDM 1.2's prefix names the context (32 characters at most), and the transcript
enters by its digest. -/
def State.spdmSign (s : State) (draw : Nat) (context : String) (transcript : Bytes) : Bytes :=
  let text (t : String) : Bytes := t.toList.map fun c => BitVec.ofNat 8 c.toNat
  let version := text "dmtf-spdm-v1.2.*"
  sm2Sign (.attest s.sec.attestKey) draw
    (version ++ version ++ version ++ version ++ zeros (36 - context.length) ++ text context ++ padTo 32 (Config.sm3 transcript))

/-- The measurements of Table 11.6. -/
def State.measurement (s : State) (i : Nat) : Bytes :=
  match i with
  | 1 => padTo 32 kindlingDigest
  | 2 => padTo 32 s.activeCu.digest
  | 3 => padTo 32 s.activeCu.tables
  | 4 => padTo 32 Config.fuseDigest
  | 5 => if s.sched.defaultLists then zeros 32 else padTo 32 s.gates.digest
  | 6 => if s.routeSwitched then padTo 32 s.routing.digest else zeros 32
  | _ => natLE 8 Config.serial.toNat ++ natLE 1 s.boot.envInForce ++ natLE 2 s.activeCu.svn

/-- The kind of a measurement block: immutable ROM, mutable firmware, hardware configuration, firmware configuration; block 7 is a raw bit
stream of the hardware's. -/
def blockType (i : Nat) : Nat :=
  match i with
  | 1 => 0x00
  | 2 | 3 => 0x01
  | 4 => 0x02
  | 5 | 6 => 0x03
  | _ => 0x82

/-- A measurement block. -/
def State.block (s : State) (i : Nat) : Bytes :=
  let v := s.measurement i
  natLE 1 i ++ natLE 1 1 ++ natLE 2 (3 + v.length) ++ natLE 1 (blockType i) ++ natLE 2 v.length ++ v

/-- The blocks of the device. -/
def blockNumbers : List Nat := [1, 2, 3, 4, 5, 6, 7]

/-- The measurement summary that a CHALLENGE asks for: none, the trusted computing base, or all. -/
def State.summary (s : State) (kind : Nat) : Bytes :=
  if kind = 0 then []
  else padTo 32 (Config.sm3 ((blockNumbers.filter fun i => kind == 0xFF || Config.tcbBlock i).flatMap s.block))

/-- CHALLENGE: signed with the attestation key, over the connection's messages, the certificate messages, the request and the answer. -/
def execChallenge (req : Bytes) (s : State) : Out :=
  done (s.onSigned 0x83 req fun s =>
    if fieldAt req 2 1 % 16 ≠ 0 then s.spdmError 0x01 0
    else
      let (d, s) := s.draw
      let (e, s) := s.draw
      let rsp := natLE 1 0x12 ++ natLE 1 0x03 ++ zeros 1 ++ natLE 1 1 ++ padTo 32 (Config.sm3 s.spdmChain) ++ padTo 32 (Config.random32 d) ++
        s.summary (fieldAt req 3 1) ++ zeros 2
      let sig := s.spdmSign e "responder-challenge_auth signing" (s.sec.spdmVca ++ s.sec.spdmCerts ++ req ++ rsp)
      { s with sec := { s.sec with spdmCerts := [], spdmMeas := [] } }.spdmSay (rsp ++ sig))

/-- GET_MEASUREMENTS: the number of blocks (operation 0), one block, or all (0xFF); signed where the request asks for it, over the
connection's messages and the measurement messages since the last signature. -/
def execGetMeasurements (req : Bytes) (s : State) : Out :=
  done (s.onSigned 0xE0 req fun s =>
    let op := fieldAt req 3 1
    let blocks := if op = 0 then some [] else if op = 0xFF then some blockNumbers else if op ≤ 7 then some [op] else none
    match blocks with
    | none => s.spdmError 0x01 0
    | some l =>
      let (d, s) := s.draw
      let record := l.flatMap s.block
      let rsp := natLE 1 0x12 ++ natLE 1 0x60 ++ natLE 1 (if op = 0 then blockNumbers.length else 0) ++ zeros 1 ++ natLE 1 l.length ++
        natLE 3 record.length ++ record ++ padTo 32 (Config.random32 d) ++ zeros 2
      let log := s.sec.spdmMeas ++ req ++ rsp
      if bit (fieldAt req 2 1) 0 then
        let (e, s) := s.draw
        let sig := s.spdmSign e "responder-measurements signing" (s.sec.spdmVca ++ log)
        { s with sec := { s.sec with spdmMeas := [] } }.spdmSay (rsp ++ sig)
      else { s with sec := { s.sec with spdmMeas := log } }.spdmSay rsp)

end Sys2Proof.Machine
end

