-- ==== Sys2Proof/Machine/Dispatch.lean ====
section
/-! DEFINITION. One arm per command: each a direct call of its meaning. -/

namespace Sys2Proof.Machine

def exec (i : Instr) (s : State) : Host.Outcome State Fault Refusal :=
  match i with
  | .commandWrite via offset bytes => Sys2Proof.Machine.execCommandWrite via offset bytes s
  | .commandDispatch => Sys2Proof.Machine.execCommandDispatch s
  | .cuOutput n => Sys2Proof.Machine.execCuOutput n s
  | .replyWriteError n => Sys2Proof.Machine.execReplyWriteError n s
  | .nop ctx tag => Sys2Proof.Machine.execNop ctx tag s
  | .ctxCreate ctx tag => Sys2Proof.Machine.execCtxCreate ctx tag s
  | .ctxDestroy ctx tag => Sys2Proof.Machine.execCtxDestroy ctx tag s
  | .ctxDestroyComplete c => Sys2Proof.Machine.execCtxDestroyComplete c s
  | .ctxQuery ctx tag => Sys2Proof.Machine.execCtxQuery ctx tag s
  | .ctxSetClass ctx tag => Sys2Proof.Machine.execCtxSetClass ctx tag s
  | .ctxAttest ctx tag => Sys2Proof.Machine.execCtxAttest ctx tag s
  | .ctxBindKey ctx tag => Sys2Proof.Machine.execCtxBindKey ctx tag s
  | .cordAlloc ctx tag hostOk => Sys2Proof.Machine.execCordAlloc ctx tag hostOk s
  | .cordFree ctx tag hostData => Sys2Proof.Machine.execCordFree ctx tag hostData s
  | .regionDefine ctx tag hostData => Sys2Proof.Machine.execRegionDefine ctx tag hostData s
  | .regionShare ctx tag => Sys2Proof.Machine.execRegionShare ctx tag s
  | .regionRevoke ctx tag => Sys2Proof.Machine.execRegionRevoke ctx tag s
  | .leaseRenew ctx tag => Sys2Proof.Machine.execLeaseRenew ctx tag s
  | .regionMigrate ctx tag => Sys2Proof.Machine.execRegionMigrate ctx tag s
  | .scrubRange ctx tag => Sys2Proof.Machine.execScrubRange ctx tag s
  | .zeroRange ctx tag => Sys2Proof.Machine.execZeroRange ctx tag s
  | .regionTriple ctx tag => Sys2Proof.Machine.execRegionTriple ctx tag s
  | .ptBind ctx tag => Sys2Proof.Machine.execPtBind ctx tag s
  | .ptSync ctx tag => Sys2Proof.Machine.execPtSync ctx tag s
  | .faultResume ctx tag => Sys2Proof.Machine.execFaultResume ctx tag s
  | .planLoad ctx tag => Sys2Proof.Machine.execPlanLoad ctx tag s
  | .planRun ctx tag => Sys2Proof.Machine.execPlanRun ctx tag s
  | .planArm ctx tag => Sys2Proof.Machine.execPlanArm ctx tag s
  | .planCancel ctx tag => Sys2Proof.Machine.execPlanCancel ctx tag s
  | .weightIngest ctx tag => Sys2Proof.Machine.execWeightIngest ctx tag s
  | .weightIngestDone ctx tag => Sys2Proof.Machine.execWeightIngestDone ctx tag s
  | .syncInit ctx tag => Sys2Proof.Machine.execSyncInit ctx tag s
  | .gateInstall ctx tag hostData => Sys2Proof.Machine.execGateInstall ctx tag hostData s
  | .routeInstall ctx tag hostImage hostTopology => Sys2Proof.Machine.execRouteInstall ctx tag hostImage hostTopology s
  | .epochSwitch ctx tag => Sys2Proof.Machine.execEpochSwitch ctx tag s
  | .epochSwitchAtT => Sys2Proof.Machine.execEpochSwitchAtT s
  | .shaperSet ctx tag => Sys2Proof.Machine.execShaperSet ctx tag s
  | .policerSet ctx tag => Sys2Proof.Machine.execPolicerSet ctx tag s
  | .selftest ctx tag => Sys2Proof.Machine.execSelftest ctx tag s
  | .selftestComplete ctx tag pass => Sys2Proof.Machine.execSelftestComplete ctx tag pass s
  | .calibrate ctx tag => Sys2Proof.Machine.execCalibrate ctx tag s
  | .retire ctx tag => Sys2Proof.Machine.execRetire ctx tag s
  | .retireComplete ctx tag => Sys2Proof.Machine.execRetireComplete ctx tag s
  | .fwUpdate ctx tag hostData => Sys2Proof.Machine.execFwUpdate ctx tag hostData s
  | .triplexMode ctx tag => Sys2Proof.Machine.execTriplexMode ctx tag s
  | .telemRead ctx tag hostOk => Sys2Proof.Machine.execTelemRead ctx tag hostOk s
  | .logRead ctx tag hostOk => Sys2Proof.Machine.execLogRead ctx tag hostOk s
  | .requestStamp point n => Sys2Proof.Machine.execRequestStamp point n s
  | .grantFill point holder region => Sys2Proof.Machine.execGrantFill point holder region s
  | .completionPassesStamp n => Sys2Proof.Machine.execCompletionPassesStamp n s
  | .epochStep region => Sys2Proof.Machine.execEpochStep region s
  | .revokePhase2End region => Sys2Proof.Machine.execRevokePhase2End region s
  | .leaseExamination => Sys2Proof.Machine.execLeaseExamination s
  | .zeroiseSweep slice => Sys2Proof.Machine.execZeroiseSweep slice s
  | .cordZeroised cord => Sys2Proof.Machine.execCordZeroised cord s
  | .cordCopyBlock cord => Sys2Proof.Machine.execCordCopyBlock cord s
  | .cordCutover cord => Sys2Proof.Machine.execCordCutover cord s
  | .rdShared n => Sys2Proof.Machine.execRdShared n s
  | .rdOwn n => Sys2Proof.Machine.execRdOwn n s
  | .upgrade n => Sys2Proof.Machine.execUpgrade n s
  | .rdCur n => Sys2Proof.Machine.execRdCur n s
  | .wb n => Sys2Proof.Machine.execWb n s
  | .evict n => Sys2Proof.Machine.execEvict n s
  | .wrInv n => Sys2Proof.Machine.execWrInv n s
  | .wrPart n => Sys2Proof.Machine.execWrPart n s
  | .accLine n => Sys2Proof.Machine.execAccLine n s
  | .writeFill n => Sys2Proof.Machine.execWriteFill n s
  | .readDrain n => Sys2Proof.Machine.execReadDrain n s
  | .readFull n => Sys2Proof.Machine.execReadFull n s
  | .addSat n => Sys2Proof.Machine.execAddSat n s
  | .fence n => Sys2Proof.Machine.execFence n s
  | .rspData n => Sys2Proof.Machine.execRspData n s
  | .rspAck n => Sys2Proof.Machine.execRspAck n s
  | .rspNone n => Sys2Proof.Machine.execRspNone n s
  | .hostSnoopResponse line rsp => Sys2Proof.Machine.execHostSnoopResponse line rsp s
  | .answerPoolAdmit slice => Sys2Proof.Machine.execAnswerPoolAdmit slice s
  | .minHoldExpiry line => Sys2Proof.Machine.execMinHoldExpiry line s
  | .recallTimeout line => Sys2Proof.Machine.execRecallTimeout line s
  | .syncWaitTimeout n => Sys2Proof.Machine.execSyncWaitTimeout n s
  | .probeResend line => Sys2Proof.Machine.execProbeResend line s
  | .resendEntryExpiry n => Sys2Proof.Machine.execResendEntryExpiry n s
  | .tripletWriteIssue n => Sys2Proof.Machine.execTripletWriteIssue n s
  | .tripletReadVote n => Sys2Proof.Machine.execTripletReadVote n s
  | .schedulerIssue g => Sys2Proof.Machine.execSchedulerIssue g s
  | .stokeLevelChange g n => Sys2Proof.Machine.execStokeLevelChange g n s
  | .readDecode g noise => Sys2Proof.Machine.execReadDecode g noise s
  | .partialWriteEntry g => Sys2Proof.Machine.execPartialWriteEntry g s
  | .mergeEntryAgeOut g line => Sys2Proof.Machine.execMergeEntryAgeOut g line s
  | .mergeRmwComplete g => Sys2Proof.Machine.execMergeRmwComplete g s
  | .bitmapLineFetch g idx noiseA noiseB => Sys2Proof.Machine.execBitmapLineFetch g idx noiseA noiseB s
  | .blockFillDone g => Sys2Proof.Machine.execBlockFillDone g s
  | .refreshDebtTick g => Sys2Proof.Machine.execRefreshDebtTick g s
  | .calibrationDue g task => Sys2Proof.Machine.execCalibrationDue g task s
  | .frequencyChange stack => Sys2Proof.Machine.execFrequencyChange stack s
  | .channelEdgeGuard g => Sys2Proof.Machine.execChannelEdgeGuard g s
  | .memInjCtrl rd g v => Sys2Proof.Machine.execMemInjCtrl rd g v s
  | .tbMissWalkDone tile => Sys2Proof.Machine.execTbMissWalkDone tile s
  | .faultQueuePost h => Sys2Proof.Machine.execFaultQueuePost h s
  | .stallListRewalk h => Sys2Proof.Machine.execStallListRewalk h s
  | .xlatFqMark rd h v => Sys2Proof.Machine.execXlatFqMark rd h v s
  | .planStart n => Sys2Proof.Machine.execPlanStart n s
  | .gemvStream tile => Sys2Proof.Machine.execGemvStream tile s
  | .attnDecode tile => Sys2Proof.Machine.execAttnDecode tile s
  | .softmaxMerge tile => Sys2Proof.Machine.execSoftmaxMerge tile s
  | .reduceAdd tile => Sys2Proof.Machine.execReduceAdd tile s
  | .gather tile => Sys2Proof.Machine.execGather tile s
  | .scatterAcc tile => Sys2Proof.Machine.execScatterAcc tile s
  | .convert tile => Sys2Proof.Machine.execConvert tile s
  | .topk tile => Sys2Proof.Machine.execTopk tile s
  | .wait tile => Sys2Proof.Machine.execWait tile s
  | .waitLimitExpiry tile => Sys2Proof.Machine.execWaitLimitExpiry tile s
  | .signal tile => Sys2Proof.Machine.execSignal tile s
  | .repeatRange tile => Sys2Proof.Machine.execRepeatRange tile s
  | .endPlan tile => Sys2Proof.Machine.execEndPlan tile s
  | .emberError tile parity => Sys2Proof.Machine.execEmberError tile parity s
  | .endNotice n => Sys2Proof.Machine.execEndNotice n s
  | .emberQuantumExpiry tile => Sys2Proof.Machine.execEmberQuantumExpiry tile s
  | .emberEdgeGuard tile => Sys2Proof.Machine.execEmberEdgeGuard tile s
  | .emberFaultFence tile => Sys2Proof.Machine.execEmberFaultFence tile s
  | .embInjCtrl rd tile v => Sys2Proof.Machine.execEmbInjCtrl rd tile v s
  | .linkSignalDetect p lanes => Sys2Proof.Machine.execLinkSignalDetect p lanes s
  | .detectRetry p => Sys2Proof.Machine.execDetectRetry p s
  | .trainingEnd p received partner => Sys2Proof.Machine.execTrainingEnd p received partner s
  | .train p purpose partner => Sys2Proof.Machine.execTrain p purpose partner s
  | .errorRateTestEnd p lanes => Sys2Proof.Machine.execErrorRateTestEnd p lanes s
  | .retrainThreshold p lane corrected => Sys2Proof.Machine.execRetrainThreshold p lane corrected s
  | .retrainEnd p => Sys2Proof.Machine.execRetrainEnd p s
  | .retrainTimeout p => Sys2Proof.Machine.execRetrainTimeout p s
  | .linkSilenceTimeout p => Sys2Proof.Machine.execLinkSilenceTimeout p s
  | .sequencedCell p cell => Sys2Proof.Machine.execSequencedCell p cell s
  | .cellCrcFail p raw => Sys2Proof.Machine.execCellCrcFail p raw s
  | .ack p cum bitmap => Sys2Proof.Machine.execAck p cum bitmap s
  | .ackSend p => Sys2Proof.Machine.execAckSend p s
  | .replayTimer p seq => Sys2Proof.Machine.execReplayTimer p seq s
  | .credit p vc units => Sys2Proof.Machine.execCredit p vc units s
  | .hold p cause => Sys2Proof.Machine.execHold p cause s
  | .idle p received => Sys2Proof.Machine.execIdle p received s
  | .packetRoute p => Sys2Proof.Machine.execPacketRoute p s
  | .packetDeliver p => Sys2Proof.Machine.execPacketDeliver p s
  | .pending n => Sys2Proof.Machine.execPending n s
  | .pendingTimer n => Sys2Proof.Machine.execPendingTimer n s
  | .requestResendTimer n => Sys2Proof.Machine.execRequestResendTimer n s
  | .requestCompletion n => Sys2Proof.Machine.execRequestCompletion n s
  | .meshFlit tile output ctx parityBad => Sys2Proof.Machine.execMeshFlit tile output ctx parityBad s
  | .fabCtrlReset rd p => Sys2Proof.Machine.execFabCtrlReset rd p s
  | .fabCtrlRetrain rd p => Sys2Proof.Machine.execFabCtrlRetrain rd p s
  | .fabCtrlDisable rd p on => Sys2Proof.Machine.execFabCtrlDisable rd p on s
  | .fabInjCtrl rd p v => Sys2Proof.Machine.execFabInjCtrl rd p v s
  | .time p body => Sys2Proof.Machine.execTime p body s
  | .timeCellSend p => Sys2Proof.Machine.execTimeCellSend p s
  | .parentSilenceTimeout => Sys2Proof.Machine.execParentSilenceTimeout s
  | .holdoverExpiry => Sys2Proof.Machine.execHoldoverExpiry s
  | .gateSlotEdge list => Sys2Proof.Machine.execGateSlotEdge list s
  | .portEdgeGuard p => Sys2Proof.Machine.execPortEdgeGuard p s
  | .usableShareEnd list => Sys2Proof.Machine.execUsableShareEnd list s
  | .shaperRefill => Sys2Proof.Machine.execShaperRefill s
  | .throttleCause power => Sys2Proof.Machine.execThrottleCause power s
  | .throttleLevelTick power => Sys2Proof.Machine.execThrottleLevelTick power s
  | .tokenRenewal => Sys2Proof.Machine.execTokenRenewal s
  | .tokenLeaseExpiry => Sys2Proof.Machine.execTokenLeaseExpiry s
  | .staleClaimNotice unit => Sys2Proof.Machine.execStaleClaimNotice unit s
  | .lockstepVote a b c => Sys2Proof.Machine.execLockstepVote a b c s
  | .hotStandbyDelta => Sys2Proof.Machine.execHotStandbyDelta s
  | .cuParityError unit => Sys2Proof.Machine.execCuParityError unit s
  | .unitRejoin unit => Sys2Proof.Machine.execUnitRejoin unit s
  | .hearthLost h => Sys2Proof.Machine.execHearthLost h s
  | .jtagUnlock level key sig => Sys2Proof.Machine.execJtagUnlock level key sig s
  | .secDebugRelock rd => Sys2Proof.Machine.execSecDebugRelock rd s
  | .secDebugDisable rd => Sys2Proof.Machine.execSecDebugDisable rd s
  | .sessionKeyRetire ctx peer => Sys2Proof.Machine.execSessionKeyRetire ctx peer s
  | .powerOnReset => Sys2Proof.Machine.execPowerOnReset s
  | .externalReset => Sys2Proof.Machine.execExternalReset s
  | .supplyReset => Sys2Proof.Machine.execSupplyReset s
  | .clkrstReset rd v => Sys2Proof.Machine.execClkrstReset rd v s
  | .kindlingVerify unit => Sys2Proof.Machine.execKindlingVerify unit s
  | .tileWave w => Sys2Proof.Machine.execTileWave w s
  | .tilePowerGoodTimeout tile => Sys2Proof.Machine.execTilePowerGoodTimeout tile s
  | .decodeTableBroadcast first second => Sys2Proof.Machine.execDecodeTableBroadcast first second s
  | .stackTrainingDone stack failed => Sys2Proof.Machine.execStackTrainingDone stack failed s
  | .firmwareReady => Sys2Proof.Machine.execFirmwareReady s
  | .clkrstHreset rd v => Sys2Proof.Machine.execClkrstHreset rd v s
  | .partialResetComplete => Sys2Proof.Machine.execPartialResetComplete s
  | .clkrstEnvelope rd v => Sys2Proof.Machine.execClkrstEnvelope rd v s
  | .envelopeBurnDone => Sys2Proof.Machine.execEnvelopeBurnDone s
  | .supplyWarningDetect h mv => Sys2Proof.Machine.execSupplyWarningDetect h mv s
  | .supplyBankTimer => Sys2Proof.Machine.execSupplyBankTimer s
  | .supplyRelease => Sys2Proof.Machine.execSupplyRelease s
  | .supplyEpisodeEnd => Sys2Proof.Machine.execSupplyEpisodeEnd s
  | .perstHotReset => Sys2Proof.Machine.execPerstHotReset s
  | .flr => Sys2Proof.Machine.execFlr s
  | .cxlMemRequest hpa op => Sys2Proof.Machine.execCxlMemRequest hpa op s
  | .getEventRecords log => Sys2Proof.Machine.execGetEventRecords log s
  | .clearEventRecords log handles => Sys2Proof.Machine.execClearEventRecords log handles s
  | .getEventInterruptPolicy => Sys2Proof.Machine.execGetEventInterruptPolicy s
  | .setEventInterruptPolicy policy => Sys2Proof.Machine.execSetEventInterruptPolicy policy s
  | .getFwInfo => Sys2Proof.Machine.execGetFwInfo s
  | .getTimestamp => Sys2Proof.Machine.execGetTimestamp s
  | .setTimestamp stamp => Sys2Proof.Machine.execSetTimestamp stamp s
  | .getSupportedLogs => Sys2Proof.Machine.execGetSupportedLogs s
  | .getLog => Sys2Proof.Machine.execGetLog s
  | .identifyMemoryDevice => Sys2Proof.Machine.execIdentifyMemoryDevice s
  | .getHealthInfo => Sys2Proof.Machine.execGetHealthInfo s
  | .getPoisonList => Sys2Proof.Machine.execGetPoisonList s
  | .getDcConfiguration => Sys2Proof.Machine.execGetDcConfiguration s
  | .getDcExtentList => Sys2Proof.Machine.execGetDcExtentList s
  | .addDcResponse extents => Sys2Proof.Machine.execAddDcResponse extents s
  | .releaseDynamicCapacity extents => Sys2Proof.Machine.execReleaseDynamicCapacity extents s
  | .releaseDcComplete => Sys2Proof.Machine.execReleaseDcComplete s
  | .mailboxUnsupported opcode => Sys2Proof.Machine.execMailboxUnsupported opcode s
  | .dcOfferTimeout => Sys2Proof.Machine.execDcOfferTimeout s
  | .doeDiscovery index => Sys2Proof.Machine.execDoeDiscovery index s
  | .cdatTableAccess entry => Sys2Proof.Machine.execCdatTableAccess entry s
  | .getVersion req => Sys2Proof.Machine.execGetVersion req s
  | .getCapabilities req => Sys2Proof.Machine.execGetCapabilities req s
  | .negotiateAlgorithms req => Sys2Proof.Machine.execNegotiateAlgorithms req s
  | .getDigests req => Sys2Proof.Machine.execGetDigests req s
  | .getCertificate req => Sys2Proof.Machine.execGetCertificate req s
  | .challenge req => Sys2Proof.Machine.execChallenge req s
  | .getMeasurements req => Sys2Proof.Machine.execGetMeasurements req s
  | .intcClaim rd target => Sys2Proof.Machine.execIntcClaim rd target s
  | .intcComplete rd target v => Sys2Proof.Machine.execIntcComplete rd target v s
  | .intcTest rd v => Sys2Proof.Machine.execIntcTest rd v s
  | .intcSrcWrite rd src v => Sys2Proof.Machine.execIntcSrcWrite rd src v s
  | .bellowsControlTick reads => Sys2Proof.Machine.execBellowsControlTick reads s
  | .bellClearFailsafe rd => Sys2Proof.Machine.execBellClearFailsafe rd s
  | .bellInjCtrl rd v => Sys2Proof.Machine.execBellInjCtrl rd v s
  | .bellInjExpiry => Sys2Proof.Machine.execBellInjExpiry s
  | .lifetimeSecondTick => Sys2Proof.Machine.execLifetimeSecondTick s
  | .checkpointWriteDone ok => Sys2Proof.Machine.execCheckpointWriteDone ok s
  | .pmbusPoll regs => Sys2Proof.Machine.execPmbusPoll regs s
  | .pmbAlert statusWord => Sys2Proof.Machine.execPmbAlert statusWord s
  | .errSel rd v => Sys2Proof.Machine.execErrSel rd v s
  | .errEntryAdvance rd => Sys2Proof.Machine.execErrEntryAdvance rd s
  | .errInjCtrl rd v => Sys2Proof.Machine.execErrInjCtrl rd v s
  | .telemCapture rd => Sys2Proof.Machine.execTelemCapture rd s
  | .telemCaptureDone => Sys2Proof.Machine.execTelemCaptureDone s
  | .counterReadClear rd off => Sys2Proof.Machine.execCounterReadClear rd off s
  | .lowWordLatchRead rd off => Sys2Proof.Machine.execLowWordLatchRead rd off s
  | .highWordWrite rd off v => Sys2Proof.Machine.execHighWordWrite rd off v s
  | .registerAliasWrite rd win off v => Sys2Proof.Machine.execRegisterAliasWrite rd win off v s
  | .registerWrite rd off v => Sys2Proof.Machine.execRegisterWrite rd off v s
  | .trstNAssert => Sys2Proof.Machine.execTrstNAssert s
  | .jtagChallengeRead => Sys2Proof.Machine.execJtagChallengeRead s
  | .cxlLinkTrained rate width flit256 => Sys2Proof.Machine.execCxlLinkTrained rate width flit256 s
  | .cxlLinkDown => Sys2Proof.Machine.execCxlLinkDown s
  | .coolantPulse tach => Sys2Proof.Machine.execCoolantPulse tach s
  | .vddAonLoss => Sys2Proof.Machine.execVddAonLoss s
  | .clockPresenceChange domain running => Sys2Proof.Machine.execClockPresenceChange domain running s
  | .controllerFault g => Sys2Proof.Machine.execControllerFault g s
  | .internalResetRelease => Sys2Proof.Machine.execInternalResetRelease s
  | .reportSigningDone ctx tag hostOk => Sys2Proof.Machine.execReportSigningDone ctx tag hostOk s
  | .fwUpdateWriteDone ctx tag => Sys2Proof.Machine.execFwUpdateWriteDone ctx tag s

end Sys2Proof.Machine
end

