-- ==== Sys2Proof/Safety.lean ====
section
/-! DEFINITION. What the statements speak of: commands where a row finds them, runs where a descriptor's row finds them, the invariants of
the fuses and of memory, and the rows that store nothing and burn nothing. -/

set_option Elab.async false

namespace Sys2Proof.Machine

/-! ## Where a row finds its command or its descriptor -/

/-- Command `k` of opcode `op`, numbered `t` of context `c`, has been taken, and a unit holds the token: an opcode row acts. -/
abbrev State.Taken (s : State) (c t op : Nat) (k : Cmd) : Prop :=
  s.cmd c t = some k ∧ k.phase = .taken ∧ pktOpcode k.bytes = op ∧ s.triplex.holder.isSome = true ∧ s.triplex.stopped = false

/-- The command runs on after its first step: the row that ends it acts. -/
abbrev State.Running (s : State) (c t op : Nat) (k : Cmd) : Prop :=
  s.cmd c t = some k ∧ k.phase = .running ∧ pktOpcode k.bytes = op

/-- The stage of context `c` takes writes: it is there, no reset runs, no fault waits to be injected. -/
abbrev State.StageOpen (s : State) (c : Nat) : Prop :=
  (s.stage (s.stageOf c)).alive = true ∧ s.boot.inReset = false ∧ s.diag.injArm = false

/-- The packet `b` at the page of context `c` passes steps 3 to 6 of Table 2.3 on a device that is ready (R34). -/
abbrev State.WellSent (s : State) (c : Nat) (b : Bytes) : Prop :=
  leNat (b.drop 60) = (crc32c (b.take 60)).toNat ∧ pktCtx b = c ∧ s.ctxLive c = true ∧ pktFlags b < 8 ∧ pktCtxField b < 4096 ∧
  replyAddrOk b = true ∧ s.ready = true

/-- It also passes steps 7 to 9: its tag is not in the window, its context has room, its opcode is one of Table 2.6. -/
abbrev State.PassesNine (s : State) (c : Nat) (b : Bytes) : Prop :=
  s.WellSent c b ∧ (s.window c).find? (fun w => w.tag == pktTag b) = none ∧ s.inFlight c < 32 ∧ opcodes.contains (pktOpcode b) = true

/-- The packet `b` written at the page of context `c` through BAR2 passes every check of Table 2.3. -/
abbrev State.Accepts (s : State) (c : Nat) (b : Bytes) : Prop :=
  c < 4096 ∧ s.StageOpen c ∧ s.cxl.linkUp = true ∧ b.length = 64 ∧ s.PassesNine c b ∧ (privileged.contains (pktOpcode b) = true → c = 0)

/-- After the slot work of its Ember, run `r` stands at a descriptor `d` of kind `kind`, and the row of that kind acts. -/
abbrev State.AtDesc (s : State) (t kind : Nat) (r : Run) (d : Bytes) : Prop :=
  let u := s.boundary t
  (u.ember t).run = some r ∧ u.descOf r = d ∧ (u.ember t).state = .running ∧ (u.ember t).guard = false ∧ r.goes = true ∧ r.walking = none ∧
  r.remote = none ∧ u.serves t resEmber r.ctx = true ∧ dKind d = kind ∧ (u.held = false ∨ (u.ember t).displaceable r = false) ∧
  (dRank0 d = false ∨ r.rank = 0) ∧ u.embArmed t 1 r = false ∧ u.embArmed t 0 r = false ∧ (dOrder d = false ∨ u.writesDone t r = true)

/-- Request `m` of kind `op`, the `n`-th of the mesh, stands in its slot at its home, passes the checks there and finds a place in its
line's queue (R115, R168, R315); `u` is the state in which the resend table has taken it (R290). -/
abbrev State.AtHome (s : State) (n : Nat) (op : MsgOp) (m : Req) (u : State) : Prop :=
  s.mesh[n]? = some m ∧ m.op = op ∧ s.cycleTurn m = true ∧ s.serves (homeTile (m.dpa / 64)) resChannel m.holder = true ∧
  (s.cord (lineCord (m.dpa / 64))).cutover = false ∧ s.stillHome m = true ∧ (s.cord (lineCord (m.dpa / 64))).admits m = true ∧
  s.resendCheck m = .taken u ∧ (u.enqueue (m.dpa / 64) m).2 = true

/-- It joins the queue, which is served. -/
abbrev State.joined (u : State) (n : Nat) (m : Req) : State :=
  ((u.enqueue (m.dpa / 64) m).1.takeMesh n).serve (m.dpa / 64)

/-- Answer `m` of kind `op`, the `n`-th of the mesh, is looked up in its slot and answers the open probe `p` of its line, which is
locked by `k` (R169, R172, R317). -/
abbrev State.AnswersProbe (s : State) (n : Nat) (op : MsgOp) (m : Req) (k : Lock) (p : Probe) : Prop :=
  s.mesh[n]? = some m ∧ m.op = op ∧ s.cycleTurn m = true ∧ s.answerTurn m = true ∧
  s.excused.contains (m.dpa / 64, m.src.getD 0, m.txn) = false ∧ s.lock (m.dpa / 64) = some k ∧
  k.probeOf (m.src.getD 0) m.txn = some p ∧ p.discard = false

/-- The probe is answered: the data of an owner is written, the entry keeps or drops the sharer, the line goes on; after the host's dirty
data its BIRspI is to come (R178). -/
abbrev State.probeAnswered (s : State) (n : Nat) (m : Req) (k : Lock) (p : Probe) : State :=
  let l := m.dpa / 64
  let u := if m.op = .rspData && p.kind != .inv then (s.takeMesh n).ownerData l k m.data else s.takeMesh n
  let u := if m.op = .rspData && m.src.getD 0 == 0x7FFF then { u with excused := u.excused ++ [(l, m.src.getD 0, 0)] } else u
  ((u.countSweep l k p false).afterAnswer l p (m.op != .rspNone)).settle l p

/-- The owner of an unlocked line returns it by message `m` of kind `op`, the `n`-th of the mesh, in the line's slot (R166, R172); `u` as above. -/
abbrev State.OwnerGivesUp (s : State) (n : Nat) (op : MsgOp) (m : Req) (e : DirEnt) (u : State) : Prop :=
  s.mesh[n]? = some m ∧ m.op = op ∧ s.cycleTurn m = true ∧ s.answerTurn m = true ∧ s.resendCheck m = .taken u ∧ u.lock (m.dpa / 64) = none ∧
  u.dirEnt (m.dpa / 64) = some e ∧ e.state ≠ .S ∧ e.sharers.head? = some (m.src.getD 0)

/-- The step ended command `k` with this status and these results. -/
def State.Ended (t : State) (k : Cmd) (status : Nat) (results : Bytes) : Prop := ∃ u : State, t = u.final k status results

/-- The step left command `k` running. -/
def State.RunsOn (t : State) (k : Cmd) : Prop := ∃ u : State, t = u.running k

/-! ## Invariants -/

/-- The envelope fuses (R423): a code of two bits; one burn, which ends the burning; a code that burns adds bits to those burned before. -/
abbrev State.FuseOk (s : State) : Prop :=
  s.kept.envBurned < 4 ∧ (s.kept.envSealed = true → s.burning = none) ∧
  ∀ c, s.burning = some c → c ≠ 0 ∧ c < 4 ∧ s.kept.envBurned &&& c = s.kept.envBurned

/-- The envelope is sealed at code `e`. -/
abbrev State.SealedAt (s : State) (e : Nat) : Prop := s.kept.envSealed = true ∧ s.kept.envBurned = e ∧ s.burning = none

/-! ## Rows that store nothing, rows that burn nothing -/

/-- The row reaches no memory: neither a store of its own nor one of the work it lets go on. -/
def storesNothing : Instr → Bool
  | .commandDispatch | .replyWriteError .. | .nop .. | .ctxCreate .. | .ctxDestroy .. | .ctxDestroyComplete .. | .ctxQuery .. | .ctxSetClass ..
  | .ctxAttest .. | .regionShare .. | .regionRevoke .. | .leaseRenew .. | .regionMigrate .. | .regionTriple .. | .ptBind .. | .ptSync ..
  | .faultResume .. | .planRun .. | .planArm .. | .planCancel .. | .epochSwitch .. | .shaperSet .. | .policerSet .. | .selftest ..
  | .calibrate .. | .retire .. | .triplexMode .. | .requestStamp .. | .grantFill .. | .completionPassesStamp .. | .revokePhase2End ..
  | .leaseExamination | .fence .. | .answerPoolAdmit .. | .syncWaitTimeout .. | .resendEntryExpiry .. | .stokeLevelChange ..
  | .bitmapLineFetch .. | .refreshDebtTick .. | .calibrationDue .. | .memInjCtrl .. | .faultQueuePost .. | .stallListRewalk .. | .xlatFqMark ..
  | .planStart .. | .waitLimitExpiry .. | .repeatRange .. | .endNotice .. | .emberQuantumExpiry .. | .emberEdgeGuard .. | .emberFaultFence ..
  | .embInjCtrl .. | .linkSignalDetect .. | .detectRetry .. | .trainingEnd .. | .train .. | .errorRateTestEnd .. | .retrainThreshold ..
  | .retrainEnd .. | .retrainTimeout .. | .linkSilenceTimeout .. | .sequencedCell .. | .cellCrcFail .. | .ack .. | .ackSend .. | .replayTimer ..
  | .credit .. | .hold .. | .idle .. | .packetRoute .. | .pending .. | .pendingTimer .. | .requestResendTimer .. | .requestCompletion ..
  | .meshFlit .. | .fabCtrlReset .. | .fabCtrlRetrain .. | .fabCtrlDisable .. | .fabInjCtrl .. | .time .. | .timeCellSend ..
  | .parentSilenceTimeout | .holdoverExpiry | .portEdgeGuard .. | .usableShareEnd .. | .shaperRefill | .throttleCause .. | .throttleLevelTick ..
  | .tokenRenewal | .tokenLeaseExpiry | .staleClaimNotice .. | .lockstepVote .. | .hotStandbyDelta | .cuParityError .. | .unitRejoin ..
  | .jtagUnlock .. | .secDebugRelock .. | .secDebugDisable .. | .sessionKeyRetire .. | .kindlingVerify .. | .tileWave ..
  | .tilePowerGoodTimeout .. | .decodeTableBroadcast .. | .stackTrainingDone .. | .clkrstEnvelope .. | .envelopeBurnDone
  | .supplyWarningDetect .. | .perstHotReset | .flr | .cxlMemRequest .. | .getEventRecords .. | .clearEventRecords .. | .getEventInterruptPolicy
  | .setEventInterruptPolicy .. | .getFwInfo | .getTimestamp | .setTimestamp .. | .getSupportedLogs | .getLog | .identifyMemoryDevice
  | .getHealthInfo | .getPoisonList | .getDcConfiguration | .getDcExtentList | .addDcResponse .. | .releaseDynamicCapacity ..
  | .releaseDcComplete | .mailboxUnsupported .. | .dcOfferTimeout | .doeDiscovery .. | .cdatTableAccess .. | .getVersion .. | .getCapabilities ..
  | .negotiateAlgorithms .. | .getDigests .. | .getCertificate .. | .challenge .. | .getMeasurements .. | .intcClaim .. | .intcComplete ..
  | .intcTest .. | .intcSrcWrite .. | .bellowsControlTick .. | .bellClearFailsafe .. | .bellInjCtrl .. | .bellInjExpiry | .lifetimeSecondTick
  | .checkpointWriteDone .. | .pmbusPoll .. | .pmbAlert .. | .errSel .. | .errEntryAdvance .. | .telemCapture .. | .telemCaptureDone
  | .counterReadClear .. | .lowWordLatchRead .. | .trstNAssert | .jtagChallengeRead | .cxlLinkTrained .. | .cxlLinkDown | .coolantPulse ..
  | .vddAonLoss | .clockPresenceChange .. | .controllerFault .. | .internalResetRelease | .fwUpdateWriteDone .. => true
  | _ => false

/-- The row neither resets the device nor burns a fuse. -/
def burnsNothing : Instr → Bool
  | .secDebugDisable .. | .powerOnReset | .externalReset | .supplyReset | .clkrstReset .. | .clkrstEnvelope .. | .envelopeBurnDone
  | .errInjCtrl .. | .highWordWrite .. | .registerAliasWrite .. | .registerWrite .. => false
  | _ => true

end Sys2Proof.Machine
end

