-- ==== Sys2Proof/Certificates/Slice0/Obligations.lean ====
section
/-! DEFINITION. The statements for the provers. The first seventeen speak of every command or of a rule of the manual; of the other forty-three,
together, each command of the table has a clause that says in what state, and with what result, it takes its effect. -/

set_option Elab.async false

open Sys2Proof Sys2Proof.Machine

/-- For every command and state: with the command at the front of the queue of waiting commands, a step is exec of it on the state whose queue is the
rest. (spec/00_scope.md) -/
def Obligations.FrontCommandRuns : Prop :=
  ∀ (c : Instr) (rest : List Instr) (s : State), s.pending = c :: rest → step s = exec c { s with pending := rest }

/-- On an empty queue a step lets 2 ns pass, one tick of the network-time units, and nothing else: the choice of the model that log 2 states. (R303) -/
def Obligations.IdleStepPassesATick : Prop :=
  ∀ s : State, s.pending = [] → step s = .next (s.pass 2)

/-- Each command answers a next state in every state, with every operand; whatever it does, full resets among it, the queue of the commands that wait
is the same after it. (spec/00_scope.md) -/
def Obligations.CommandsLeaveTheQueue : Prop :=
  ∀ (c : Instr) (s : State), ∃ t, exec c s = .next t ∧ t.pending = s.pending

/-- From every state whose memory lists rising addresses and no zero byte, a step gives such a state, whatever command is at the front; the canonical
form is the model’s own (log 1). (R13, R14) -/
def Obligations.MemoryStaysCanonical : Prop :=
  ∀ s t : State, Memory.wf s.mem = true → step s = .next t → Memory.wf t.mem = true

/-- The code burned has two bits, a sealed field has no burn running, and a burn that runs adds bits to the ones burned before: every step keeps this,
resets that interrupt a burn among them. (R423, R424) -/
def Obligations.FusesStayConsistent : Prop :=
  ∀ s t : State, s.FuseOk → step s = .next t → t.FuseOk

/-- Once the seal is burned with code e, every step leaves the field sealed at e, and the release of each later reset puts e in force. (R422, R423,
R424) -/
def Obligations.SealedEnvelopeHolds : Prop :=
  (∀ (s t : State) (e : Nat), s.SealedAt e → step s = .next t → t.SealedAt e) ∧
  (∀ (s : State) (e : Nat), s.SealedAt e → s.boot.inReset = true →
    ∃ t, exec .internalResetRelease s = .next t ∧ t.boot.envInForce = e ∧ t.SealedAt e)

/-- Right after power-on reset memory lists nothing and is canonical, the fuses are consistent, no command waits, the part is in reset, no cord is
bound, no region is defined, the CXL link is down. (R404, R405) -/
def Obligations.ResetMeetsTheInvariants : Prop :=
  Memory.wf State.reset.mem = true ∧ State.reset.mem = [] ∧ State.reset.FuseOk ∧ State.reset.pending = [] ∧ State.reset.boot.inReset = true ∧
  (∀ g, (State.reset.cord g).state = .free) ∧ State.reset.regions = [] ∧ State.reset.grants = [] ∧ State.reset.cxl.linkUp = false

/-- The 166 rows of storesNothing, all but those that reach memory or let waiting work reach it: memory after such a command is memory before it, byte
for byte. (spec/03_memory.md, spec/06_coherence.md, spec/09_fabric.md, spec/13_host.md) -/
def Obligations.RowsThatStoreNothing : Prop :=
  ∀ (c : Instr) (s t : State), storesNothing c = true → exec c s = .next t →
    t.mem = s.mem ∧ ∀ a : Nat, Tab.get 0 t.mem a = Tab.get 0 s.mem a

/-- Every command but the eleven that reset the device or write a fuse leaves the envelope code, its seal, a burn that runs and the debug fuse as they
were. (R358, R423) -/
def Obligations.RowsThatBurnNothing : Prop :=
  ∀ (c : Instr) (s t : State), burnsNothing c = true → exec c s = .next t →
    t.kept.envBurned = s.kept.envBurned ∧ t.kept.envSealed = s.kept.envSealed ∧ t.kept.debugDisabled = s.kept.debugDisabled ∧
    t.burning = s.burning

/-- The write of line l puts its data, padded with zeros, or zeros for a cinder codeword, at addresses 64 l to 64 l + 63; every other byte reads as
before. (R73, R78) -/
def Obligations.LineWritesStayInTheirLine : Prop :=
  ∀ (s : State) (l : Nat) (data : Bytes) (cinder : Bool) (a : Nat),
    Tab.get 0 (s.putLine l data cinder).mem a =
      if 64 * l ≤ a ∧ a < 64 * l + 64 then (if cinder = true then 0 else (data.take 64).getD (a - 64 * l) 0) else Tab.get 0 s.mem a

/-- The privileged opcodes are those of Table 2.7. One that passes steps 1 to 9 in a host packet on another context’s page, or in a fabric packet,
gets NO_RIGHT; on page 0 through BAR2 it is accepted; a fabric write to page 0 is discarded at step 2; any other opcode is accepted on its own
page. (R51) -/
def Obligations.PrivilegeIsChecked : Prop :=
  privileged = [0x01, 0x02, 0x04, 0x10, 0x11, 0x16, 0x19, 0x40, 0x41, 0x42, 0x43, 0x44, 0x50, 0x51, 0x52, 0x54, 0x55] ∧
  ∀ (s : State) (c o : Nat) (b : Bytes), c < 4096 → o < 64 → b.length = 64 → s.StageOpen c →
    (s.cxl.linkUp = true → s.PassesNine c b →
      exec (.commandWrite .bar2 (4096 * c + 64 * o) b) s =
        .next (if privileged.contains (pktOpcode b) = true ∧ c ≠ 0 then s.intakeRefuse (s.stageOf c) b stNoRight 0
               else s.acceptCmd (s.stageOf c) c .bar2 b)) ∧
    (∀ (ep txn sent : Nat) (u : State),
      u = (s.source { opcode := msgCode .cmp, dst := ep, ctx := sent, txn := txn, addr := 0xFF0000000000 + (4096 * c + 64 * o) }).1 →
      ((s.ctx c).map fun x => x.hasSender ep) = some true → c ≠ 0 → u.PassesNine c b →
      exec (.commandWrite (.fabric ep txn sent) (4096 * c + 64 * o) b) s =
        .next (if privileged.contains (pktOpcode b) = true then u.intakeRefuse (s.stageOf c) b stNoRight 0
               else u.acceptCmd (s.stageOf c) c (.fabric ep txn sent) b)) ∧
    (∀ ep txn sent : Nat, (c = 0 ∨ ((s.ctx c).map fun x => x.hasSender ep) ≠ some true) →
      exec (.commandWrite (.fabric ep txn sent) (4096 * c + 64 * o) b) s = .next (s.discardWrite (s.stageOf c) false))

/-- Whatever else the repeated packet holds: with the original’s final reply known the answer is DUPLICATE with the original’s status in byte 5 and
its bytes 8 to 31; without it BUSY; the commands in flight and the window stay as they are. (R49) -/
def Obligations.RepeatedPacketsAreNotExecuted : Prop :=
  ∀ (s : State) (c o : Nat) (b : Bytes) (w : WinEntry), c < 4096 → o < 64 → b.length = 64 → s.StageOpen c → s.cxl.linkUp = true → s.WellSent c b →
    (s.window c).find? (fun w => w.tag == pktTag b) = some w →
    ∃ t, exec (.commandWrite .bar2 (4096 * c + 64 * o) b) s = .next t ∧ t.cmds = s.cmds ∧ t.windows = s.windows ∧
      t = (match w.final with
        | some f => s.writeReply (s.stageOf c) b (replyBytes b stDuplicate f.status f.results)
        | none => s.writeReply (s.stageOf c) b (replyBytes b stBusy (pktOpcode b) []))

/-- A request of any of the eleven kinds in its slot at its home is served with epoch E, or with E - 1 mod 256 where its holder was not the removed
one; any other ends with REVOKED. An owner’s WB and EVICT are taken whatever their epoch. (R115) -/
def Obligations.EpochsAreChecked : Prop :=
  (∀ (x : Cord) (m : Req), x.admits m = true ↔
    m.region = x.region ∧ (m.epoch = x.epoch ∨ ((m.epoch + 1) % 256 = x.epoch ∧ x.removed ≠ some m.holder))) ∧
  (∀ (c : Instr) (op : MsgOp) (s : State) (n : Nat) (m : Req),
    (c, op) ∈ [(.rdShared n, .rdShared), (.rdOwn n, .rdOwn), (.upgrade n, .upgrade), (.rdCur n, .rdCur), (.wrInv n, .wrInv), (.wrPart n, .wrPart), (.accLine n, .accLine), (.writeFill n, .writeFill), (.readDrain n, .readDrain), (.readFull n, .readFull), (.addSat n, .addSat)] →
    s.mesh[n]? = some m → m.op = op → s.cycleTurn m = true → s.serves (homeTile (m.dpa / 64)) resChannel m.holder = true →
    (s.cord (lineCord (m.dpa / 64))).cutover = false → s.stillHome m = true →
    ((s.cord (lineCord (m.dpa / 64))).admits m = false → exec c s = .next ((s.takeMesh n).finish m .err 10 0 [])) ∧
    (∀ u : State, (s.cord (lineCord (m.dpa / 64))).admits m = true → s.resendCheck m = .taken u → (u.enqueue (m.dpa / 64) m).2 = true →
      exec c s = .next (u.joined n m))) ∧
  (∀ (s u : State) (n : Nat) (m : Req) (d : DirEnt), (s.OwnerGivesUp n .wb m d u →
      exec (.wb n) s =
        .next (let w := ((((u.takeMesh n).queueLine (m.dpa / 64) m.holder (some m.data)).setDir (m.dpa / 64) none).finish m .cmp 0 0 []).wake (m.dpa / 64)
               w.1.serveWork 256 (m.dpa / 64 :: w.2))) ∧
    (s.OwnerGivesUp n .evict m d u →
      exec (.evict n) s =
        .next (let w := (((u.takeMesh n).setDir (m.dpa / 64) none).finish m .cmp 0 0 []).wake (m.dpa / 64)
               w.1.serveWork 256 (m.dpa / 64 :: w.2))))

/-- Release with an unsealed field puts code 0 in force; a host write with the key starts a burn only of a nonzero code that holds every bit burned
before; a sealed field ignores every write, through either row. (R424) -/
def Obligations.EnvelopeFieldRules : Prop :=
  (∀ s : State, s.boot.inReset = true → s.kept.envSealed = false →
    ∃ t, exec .internalResetRelease s = .next t ∧ t.boot.envInForce = 0) ∧
  (∀ (s : State) (v : Reg), s.kept.envSealed = false → s.burning = none → s.reached .host false = true → bits v.toNat 8 8 = 0xE7 → bits v.toNat 0 2 ≠ 0 →
    exec (.clkrstEnvelope .host v) s =
      .next (if s.kept.envBurned &&& bits v.toNat 0 2 = s.kept.envBurned then { s with burning := some (bits v.toNat 0 2) } else s)) ∧
  (∀ (s : State) (rd : Reader) (v : Reg), s.kept.envSealed = true →
    exec (.clkrstEnvelope rd v) s = .next s ∧ exec (.registerWrite rd 0x4000C v) s = .next s)

/-- A claim with nothing to select reads 0 and changes nothing. A completion of a source that is not active, or is claimed by another target, only
counts a misfire. The host’s accesses to the control units’ targets read 0 and are ignored, and no host write completes what a control unit has
claimed. (R399, R400) -/
def Obligations.ClaimsAndCompletions : Prop :=
  ∀ (s : State) (rd : Reader) (t : Nat), t < 8 → s.mayWrite rd false = true →
    (Reader.isHost rd = true → 4 ≤ t → t ≤ 6 →
      exec (.intcClaim rd t) s = .next (s.emit (.regRead rd (targetOff t 0) 0)) ∧ ∀ v, exec (.intcComplete rd t v) s = .next s) ∧
    (¬ (Reader.isHost rd = true ∧ 4 ≤ t ∧ t ≤ 6) →
      ((∀ p ∈ s.intc.srcs, ¬ (p.2.enable = true ∧ p.2.state = .pending ∧ p.2.target = t ∧ (s.intc.targets.getD t {}).threshold ≤ p.2.priority)) → exec (.intcClaim rd t) s = .next (s.emit (.regRead rd (targetOff t 0) 0))) ∧
      (∀ p ∈ s.intc.srcs, p.2.enable = true ∧ p.2.state = .pending ∧ p.2.target = t ∧ (s.intc.targets.getD t {}).threshold ≤ p.2.priority →
        (∀ q ∈ s.intc.srcs, q.2.enable = true ∧ q.2.state = .pending ∧ q.2.target = t ∧ (s.intc.targets.getD t {}).threshold ≤ q.2.priority →
          q = p ∨ q.2.priority < p.2.priority ∨ (q.2.priority = p.2.priority ∧ p.1 < q.1)) →
        exec (.intcClaim rd t) s =
          .next ((s.withIntc { s.intc with srcs := Tab.modify {} s.intc.srcs p.1 fun y => { y with state := .active, claimer := t, count := 0 } }).emit
            (.regRead rd (targetOff t 0) (BitVec.ofNat 32 (p.1 + 2 ^ 16 * p.2.count + 2 ^ 24 * p.2.priority + 2 ^ 31))))) ∧
      (∀ v : Reg,
        ((s.src (bits v.toNat 0 10)).state = .active ∧ (s.src (bits v.toNat 0 10)).claimer = t →
          ∃ u, exec (.intcComplete rd t v) s = .next u ∧ u.src (bits v.toNat 0 10) = (s.src (bits v.toNat 0 10)).complete) ∧
        (¬ ((s.src (bits v.toNat 0 10)).state = .active ∧ (s.src (bits v.toNat 0 10)).claimer = t) →
          exec (.intcComplete rd t v) s =
            .next { s with intc := { s.intc with targets := s.intc.targets.modify t fun x => { x with misfire := satInc 16 x.misfire } } }))) ∧
    (∀ v : Reg, Reader.isHost rd = true → 4 ≤ (s.src (bits v.toNat 0 10)).claimer → (s.src (bits v.toNat 0 10)).claimer ≤ 6 →
      ∃ u, exec (.intcComplete rd t v) s = .next u ∧ u.src (bits v.toNat 0 10) = s.src (bits v.toNat 0 10))

/-- A read in an alias window returns 0 and changes nothing. A read of a low word latches its high word into the reader’s own shadow and no other; a
read of a high word returns that shadow; after reset every shadow is 0. (R502, R503) -/
def Obligations.AliasReadsAndShadows : Prop :=
  (∀ (s : State) (rd : Reader) (off : Nat), 0x1000000 ≤ off → off < 0x4000000 → s.reached rd false = true →
    exec (.counterReadClear rd off) s = .next (s.emit (.regRead rd off 0)) ∧ exec (.lowWordLatchRead rd off) s = .next (s.emit (.regRead rd off 0))) ∧
  (∀ (s : State) (rd : Reader) (b : RegBlock) (off u o : Nat), off < 0x1000000 → regAt off = some (b, u, o) → off % 4 = 0 →
    s.reached rd b.hostOnly = true →
    (lowWord b (o + 4) = some o → claimReg b o = none → lowWord b o = none →
      ∃ t, exec (.lowWordLatchRead rd off) s = .next t ∧ t.outbox = s.outbox ++ [.regRead rd off (BitVec.ofNat 32 (s.regWord b u o))] ∧
        ∀ (rd' : Reader) (off' : Nat), off' < 0x1000000 →
          Tab.get 0 t.diag.shadows (shadowKey rd' off') =
            if rd' = rd ∧ off' = off then s.regWord b u (o + 4) else Tab.get 0 s.diag.shadows (shadowKey rd' off')) ∧
    (lowWord b o = some (o - 4) →
      exec (.lowWordLatchRead rd off) s = .next (s.emit (.regRead rd off (BitVec.ofNat 32 (Tab.get 0 s.diag.shadows (shadowKey rd (off - 4)))))))) ∧
  (∀ k : Nat, Tab.get 0 State.reset.diag.shadows k = 0)

/-- Every attempt that the port takes uses the challenge up; after 3 failures, or with the fuse burned, no attempt changes the level; a full reset
clears the failures; relock returns to level 0; only a host write reaches SEC_DEBUG. (R358) -/
def Obligations.DebugUnlockRules : Prop :=
  (∀ (s : State) (level : Nat) (key sig : Bytes), s.jtagReached = true → level ≠ 0 →
    ∃ t, exec (.jtagUnlock level key sig) s = .next t ∧ t.sec.challenge = none ∧
      ((3 ≤ s.sec.unlockFails ∨ s.kept.debugDisabled = true) → t.sec.jtagLevel = s.sec.jtagLevel ∧ t.sec.chipUnlocked = s.sec.chipUnlocked)) ∧
  (∀ s : State, bit (s.secReg 0) 5 = decide (3 ≤ s.sec.unlockFails)) ∧
  (∀ (c : Instr) (s : State), c ∈ [.powerOnReset, .externalReset, .supplyReset] → ∃ t, exec c s = .next t ∧ t.sec.unlockFails = 0 ∧
    t.kept.debugDisabled = s.kept.debugDisabled) ∧
  (∀ s : State, s.reached .host true = true →
    exec (.secDebugRelock .host) s = .next { s with sec := { s.sec with jtagLevel := 0 } } ∧
    exec (.secDebugDisable .host) s = .next { s with kept := { s.kept with debugDisabled := true } }) ∧
  (∀ (s : State) (rd : Reader), rd ≠ .host → exec (.secDebugRelock rd) s = .next s ∧ exec (.secDebugDisable rd) s = .next s)

/-- COMMAND_WRITE of a packet that passes Table 2.3 appends the command; COMMAND_DISPATCH takes the next command, gives an always-deferring one its
DEFERRED reply, and refuses it where a common check fails; CU_OUTPUT with the claim last seen passes its output on; REPLY_WRITE_ERROR drops the
error and counts the reply as failed. (R34, R36, R46, R368) -/
def Obligations.TransportRowsTakeEffect : Prop :=
  (∀ (s : State) (c : Nat) (b : Bytes), s.Accepts c b →
      ∃ v, exec (.commandWrite .bar2 (4096 * c) b) s = .next v ∧ v = s.acceptCmd (s.stageOf c) c .bar2 b ∧ v.cmds = s.cmds ++ [({ ctx := c, tag := pktTag b, via := .bar2, bytes := b, acceptedAt := s.clk.nt, order := s.nextOrder } : Cmd)]) ∧
  (∀ (s : State) (k : Cmd), s.complexActs = true →
      let u := (s.untilElapsed s.triplex.gapEnd).deferHeld;
       u.nextCtx = some k →
      let d := alwaysDeferred k.bytes;
      let v := State.modCmd { u with triplex := { u.triplex with lastCtx := k.ctx } } k.ctx k.tag fun x => { x with phase := .taken, deferred := d || x.deferred };
      let w := if d && !k.deferred then v.hand k.ctx k.tag stDeferred [] false else v;
       exec (.commandDispatch) s = .next (match w.commonChecks k with | some (st, i) => w.refuse k st i | none => w)) ∧
  (∀ (s : State) (n : Nat) (o : CuOut), s.cuOut[n]? = some o → o.released = true →
      let u := s.untilElapsed s.triplex.gapEnd;
       o.claim = (u.stage (u.stageOf o.ctx)).claimSeen % 65536 →
      exec (.cuOutput n) s = .next (State.handOver { u with cuOut := u.cuOut.eraseIdx n } (u.stageOf o.ctx) o)) ∧
  (∀ (s : State) (n : Nat) (o : OpenReply) (p : Packet), s.openReplies[n]? = some o →
      s.inbox.find? (fun (p : Packet) => p.opcode == msgCode .err && o.txns.contains p.txn) = some p →
      exec (.replyWriteError n) s = .next (State.replyFailed { s with inbox := s.inbox.erase p } p.txn))

/-- Where their checks pass: NOP replies with the network time; CTX_CREATE makes the context and replies with its number; CTX_QUERY replies with the
context's flags, envelope and counts and clears the undelivered count; CTX_SET_CLASS sets the class or finds it set; CTX_DESTROY leaves its record
and runs on; CTX_DESTROY_COMPLETE removes the context. (R52, R355, R460, R461, R463, R464) -/
def Obligations.ContextRowsTakeEffect : Prop :=
  (∀ (s : State) (c t : Nat) (k : Cmd), s.Taken c t 0x00 k → exec (.nop c t) s = .next (s.final k stOk (natLE 8 s.clk.nt))) ∧
  (∀ (s : State) (c t : Nat) (k : Cmd) (n : Nat), s.Taken c t 0x01 k →
      let conf := bit (k.par 18 1) 0;
      let iso := bit (k.par 18 1) 1;
       (if k.par 16 2 % 4096 ≠ 0 then some (k.par 16 2 % 4096) else ((List.range 4096).drop 1).find? fun n => (s.ctx n).isNone) = some n →
      k.par 19 1 ≤ 8 → k.ranges.findIdx? (fun r => !rangeOk r) = none → k.unusedAt (20 + 4 * k.par 19 1) 52 = none → (iso = true ∨ k.par 52 8 = 0) →
      s.ctx n = none → (conf = true → s.sec.jtagLevel ≠ 2 ∧ s.keysLost = false) →
      let x := ({ conf, isolated := iso, senders := k.ranges, createdSeq := s.diag.nextSeq, measure := zeros 32 } : Ctx).withReserve (k.bytes.drop 52);
       (iso = true → s.reserveMet n x = true) →
      exec (.ctxCreate c t) s = .next (State.final { (if conf then s.draw.2 else s) with ctxs := Tab.set none s.ctxs n (some { x with ephemeral := if conf then s.draws else 0 }), windows := Tab.set [] s.windows n [] } k stOk (natLE 2 n))) ∧
  (∀ (s : State) (c t : Nat) (k : Cmd) (x : Ctx), s.Taken c t 0x03 k → (k.par 16 2 = k.ctx ∨ k.mgmt = true) → s.ctx (k.par 16 2) = some x →
      exec (.ctxQuery c t) s = .next (((s.modCtx (k.par 16 2) fun x => { x with undelivered := 0 }).final k stOk (natLE 1 (b2n x.conf + 2 * b2n x.isolated + 4 * b2n x.attested + 8 * b2n x.destroying) ++ natLE 1 s.boot.envInForce ++ natLE 2 x.undelivered ++ natLE 2 (s.flying (k.par 16 2)) ++ natLE 2 (s.grants.filter fun g => g.holder == k.par 16 2 && !g.tombstone).length ++ natLE 2 (s.plansOf (k.par 16 2)).length ++ natLE 2 (s.cords.filter fun p => p.2.state == CordState.allocated && p.2.ctx == k.par 16 2).length ++ zeros 4 ++ natLE 8 Config.serial.toNat)))) ∧
  (∀ (s : State) (c t : Nat) (k : Cmd) (x : Ctx), s.Taken c t 0x04 k →
      let n := k.par 16 2;
      let iso := bit (k.par 18 1) 0;
       s.ctx n = some x → x.destroying = false → (iso = true → n ≠ 0) → (iso = false → k.unusedAt 20 28 = none) → x.isolated ≠ iso →
      s.grants.any (fun g => g.holder == n && !g.tombstone) = false →
      s.cords.any (fun p => p.2.state == CordState.allocated && p.2.ctx == n) = false → s.plansOf n = [] → s.gatesName n = false →
      let y := if iso then ({ x with isolated := true } : Ctx).withReserve (k.bytes.drop 20) else ({ x with isolated := false } : Ctx).withReserve (zeros 8);
       (iso = true → s.reserveMet n y = true) → exec (.ctxSetClass c t) s = .next ((s.modCtx n fun _ => y).final k stOk)) ∧
  (∀ (s : State) (c t : Nat) (k : Cmd) (x : Ctx), s.Taken c t 0x04 k → s.ctx (k.par 16 2) = some x → x.destroying = false →
      x.isolated = bit (k.par 18 1) 0 → (k.par 16 2 = 0 → x.isolated = false) → (x.isolated = false → k.unusedAt 20 28 = none) →
      exec (.ctxSetClass c t) s = .next (s.final k stOk)) ∧
  (∀ (s : State) (c t : Nat) (k : Cmd) (x : Ctx), s.Taken c t 0x02 k →
      let n := k.par 16 2;
       s.ctx n = some x → n ≠ 0 → x.destroying = false →
      ∃ v, exec (.ctxDestroy c t) s = .next v ∧ v.RunsOn k ∧ (Tab.get none v.destroys n).isSome = true) ∧
  (∀ (s : State) (c : Nat) (d e : Destroy), Tab.get none s.destroys c = some d →
      let u := s.settleCords;
       Tab.get none u.destroys c = some e → e.cords = [] → u.grants.any (fun g => g.holder == c && !g.tombstone) = false →
      u.cmds.any (fun (k : Cmd) => k.ctx == c) = false →
      u.regions.any (fun p => (p.2.map fun r => r.steps.any fun st => st.destroyOf == some c).getD false) = false →
      ∃ v, exec (.ctxDestroyComplete c) s = .next v ∧ v.ctx c = none ∧ Tab.get none v.destroys c = none ∧ v.window c = [] ∧ v.sec.weightKeys = u.sec.weightKeys.filter (fun (w : WeightKey) => w.ctx != c) ∧ ∀ k, u.cmd 0 d.tag = some k → v.Ended k stOk (natLE 4 d.revoked ++ natLE 4 d.cindered))

/-- Where their checks pass: CTX_ATTEST takes the next report number and queues the report for signing; REPORT_SIGNING_DONE signs it with a draw,
counts it and writes report and signature; CTX_BIND_KEY opens the wrapped key and keeps it where there is room; SESSION_KEY_RETIRE drops the key
replaced first 100 us after its replacement; WEIGHT_INGEST zeroises the destination and starts or queues an ingest once no agent holds its lines,
and waits till then; WEIGHT_INGEST_DONE writes the plaintext where the tag matches, and is refused where it does not or a line of the destination
is not written. (R348, R351, R352, R353) -/
def Obligations.KeyRowsTakeEffect : Prop :=
  (∀ (s : State) (c t : Nat) (k : Cmd) (x : Ctx), s.Taken c t 0x05 k → s.ctx k.ctx = some x → s.engineLost = false → s.sec.attestReady = true →
      k.par 16 8 % 8 = 0 →
      let chain := bit (k.par 59 1) 0;
      let need := 704 + 48 * x.log.length + (if chain then s.chain.length else 0);
       need ≤ k.par 56 3 → (bit (k.par 16 8) 63 = true ∨ s.rangeStatus k.ctx (k.par 16 8 % 2 ^ 48) need rightWrite = none) →
      let seq := s.sec.reportSeq + 1;
      exec (.ctxAttest c t) s = .next (State.running { s with sec := { s.sec with reportSeq := seq, signings := s.sec.signings ++ [({ ctx := k.ctx, tag := k.tag, body := s.report k.ctx x ((k.bytes.drop 24).take 32) seq, seq, chain } : Signing)] } } k)) ∧
  (∀ (s : State) (c t : Nat) (k : Cmd) (g : Signing) (h : Bool), s.Running c t 0x05 k →
      s.sec.signings.find? (fun g => g.ctx == k.ctx && g.tag == k.tag) = some g → s.engineLost = false →
      let out := g.body ++ sm2Sign (.attest s.sec.attestKey) s.draws g.body ++ (if g.chain then s.chain else []);
      let w := State.modCtx { s with sec := { s.sec with signings := s.sec.signings.filter (· != g), reports := satInc 32 s.sec.reports }, draws := s.draws + 1 } k.ctx fun x => { x with attested := x.attested || x.conf };
      let r := w.writeOut k (k.par 16 8) out h;
      exec (.reportSigningDone c t h) s = .next (match r.2 with | some st => r.1.refuse k st 16 | none => r.1.final k stOk (natLE 4 out.length ++ natLE 4 g.seq))) ∧
  (∀ (s : State) (c t : Nat) (k : Cmd) (x : Ctx) (blob : Bytes), s.Taken c t 0x06 k → s.ctx k.ctx = some x → x.conf = true → x.attested = true →
      s.keysLost = false →
      let r := s.poolRead k.ctx (k.par 16 8) 128 rightRead;
       r.2 = .ok blob → (blob.drop 121).all (· == 0) = true → x.logFull = false →
      let plain := (Config.sm2Open x.ephemeral (blob.take 121)).filter (keyPlainOk · k.ctx);
      ∃ v, exec (.ctxBindKey c t) s = .next v ∧ (plain = none → v = State.refuse { r.1 with sec := { r.1.sec with unwrapFail := satInc 16 r.1.sec.unwrapFail } } k stBadParam 0xFF [2]) ∧ ∀ p, plain = some p → (fieldAt p 18 1 = 1 → r.1.weightRoom k.ctx = true → v.Ended k stOk (natLE 1 1 ++ natLE 1 (fieldAt p 19 1) ++ natLE 2 (fieldAt p 20 2)) ∧ ({ ctx := k.ctx, slot := fieldAt p 19 1, key := p.take 16 } : WeightKey) ∈ v.sec.weightKeys) ∧ (fieldAt p 18 1 = 2 → r.1.sessionRoom k.ctx 1 = true → v.Ended k stOk (natLE 1 2 ++ natLE 1 (fieldAt p 19 1) ++ natLE 2 (fieldAt p 20 2)) ∧ ∃ w ∈ v.sec.sessionKeys, w.ctx = k.ctx ∧ w.peer = fieldAt p 20 2 ∧ w.key = p.take 16)) ∧
  (∀ (s : State) (c peer : Nat) (k : SessionKey) (o : Bytes × Nat), s.sessionKey c peer = some k → k.olds.getLast? = some o →
      let u := s.untilElapsed (o.2 + 100000);
      exec (.sessionKeyRetire c peer) s = .next ({ u with sec := { u.sec with sessionKeys := u.sec.sessionKeys.map fun (w : SessionKey) => if w = k then { w with olds := w.olds.dropLast } else w } })) ∧
  (∀ (s : State) (c t : Nat) (k : Cmd) (x : Ctx) (w : WeightKey) (rn dpa : Nat) (r : Region), s.Taken c t 0x34 k → s.ctx k.ctx = some x →
      s.keysLost = false → (x.conf = true → x.attested = true) →
      let src := k.par 16 8;
      let dst := k.par 24 8;
      let len := k.par 32 8;
       src % 64 = 0 → dst % 64 = 0 → len % 64 = 0 → 64 ≤ len → len ≤ 2 ^ 40 →
      s.sec.weightKeys.find? (fun w => w.ctx == k.ctx && w.slot == k.par 40 1) = some w → s.rangeStatus k.ctx src (len + 16) rightRead = none →
      s.rangeStatus k.ctx dst len rightWrite = none → s.resolve dst = some (rn, dpa) → s.region rn = some r → r.conf = true →
      let f := s.rangeFree k.ctx dst len;
      let z := f.1.zeroPool dst len;
      exec (.weightIngest c t) s = .next (if f.2 = false then f.1.again k else State.running { z with sec := { z.sec with ingests := z.sec.ingests ++ [({ ctx := k.ctx, tag := k.tag, source := src, dest := dst, len, iv := (k.bytes.drop 44).take 12, key := w.key, running := decide ((z.sec.ingests.filter (·.running)).length < 4) } : Ingest)] } } k)) ∧
  (∀ (s : State) (c t : Nat) (k : Cmd) (x : Ctx) (g : Ingest) (b : Bytes), s.Running c t 0x34 k →
      s.sec.ingests.find? (fun g => g.ctx == k.ctx && g.tag == k.tag) = some g → s.ctx k.ctx = some x → s.engineLost = false → g.running = true →
      let r := s.poolRead k.ctx g.source (g.len + 16) rightRead;
       r.2 = .ok b →
      let f := r.1.rangeFree k.ctx g.dest g.len;
       f.2 = true →
      let w := { f.1 with sec := { f.1.sec with ingests := startIngest (f.1.sec.ingests.filter (· != g)) } };
      let plain := (Config.sm4Gcm g.key g.iv [] (b.take g.len)).1;
       w.rangeStatus k.ctx g.dest g.len rightWrite = none → x.logFull = false →
      exec (.weightIngestDone c t) s = .next (if (Config.sm4Gcm g.key g.iv [] plain).2 ≠ b.drop g.len then State.refuse { w.zeroPool g.dest g.len with sec := { w.sec with tagFail := satInc 16 w.sec.tagFail } } k stBadParam 0xFF [1] else if (w.poolWrite k.ctx (g.len / 64 + 2) g.dest plain).2 = false then (w.poolWrite k.ctx (g.len / 64 + 2) g.dest plain).1.refuse k stBadParam 24 else ((w.poolWrite k.ctx (g.len / 64 + 2) g.dest plain).1.measured k.ctx { kind := 2, object := k.par 40 1, aux := g.dest, digest := Config.sm3 plain }).final k stOk (padTo 16 (Config.sm3 plain))))

/-- Where their checks pass: CORD_ALLOC writes the list of the cords placed and allocates them; CORD_FREE starts zeroising the listed cords and runs
on; REGION_DEFINE makes the region and its definer's grant; REGION_SHARE creates the grant; REGION_REVOKE queues the step and runs on; LEASE_RENEW
sets the expiry to the acceptance plus the lease. (R104, R105, R108, R111, R112, R118) -/
def Obligations.CordAndRegionRowsTakeEffect : Prop :=
  (∀ (s : State) (c t : Nat) (k : Cmd) (l : List Nat), s.Taken c t 0x10 k →
      let h := k.par 22 2 % 4096;
       k.allocFault = none → s.ctxLive h = true → s.place k = some l →
      let r := s.writeOut k (2 ^ 63 + k.par 16 6) (l.flatMap (natLE 2)) true;
       r.2 = none →
      exec (.cordAlloc c t true) s = .next ((l.foldl (fun t n => t.modCord n fun x => { x with state := .allocated, ctx := h }) r.1).final k stOk (natLE 2 l.length))) ∧
  (∀ (s : State) (c t : Nat) (k : Cmd) (hostData : Option Bytes) (b : Bytes), s.Taken c t 0x11 k →
      let h := k.par 22 2 % 4096;
      let count := k.par 24 2;
       k.par 16 6 % 8 = 0 → count ≠ 0 → count ≤ 6144 → s.ctxLive h = true →
      let r := s.readIn k (2 ^ 63 + k.par 16 6) (2 * count) hostData;
       r.2 = .ok b →
      let l := cordNumbers b count;
       l.Nodup → (∀ n ∈ l, r.1.allocatedTo n h = true) →
      exec (.cordFree c t hostData) s = .next (State.running { l.foldl (fun t n => t.startZeroise n) r.1 with frees := (l.foldl (fun t n => t.startZeroise n) r.1).frees ++ [({ ctx := k.ctx, tag := k.tag, cords := l } : Freeing)] } k)) ∧
  (∀ (s : State) (c t : Nat) (k : Cmd) (hostData : Option Bytes) (b : Bytes) (lease n g : Nat), s.Taken c t 0x12 k →
      let count := k.par 24 2;
      let conf := bit (k.par 26 1) 1;
       k.par 26 1 % 2 = 0 → s.ctxIso k.ctx = false → (conf = true → s.ctxConf k.ctx = true) → k.par 26 1 < 4 → count ≠ 0 → count ≤ 6144 →
      k.par 28 2 ≤ 0x3FFF → leasePeriod (k.par 32 4) = some lease →
      let r := s.readIn k (k.par 16 8) (2 * count) hostData;
       r.2 = .ok b →
      let l := cordNumbers b count;
       l.Nodup → (∀ m ∈ l, r.1.allocatedTo m k.ctx = true) → r.1.regionRoom k.ctx = true → r.1.grantRoom k.ctx = true → r.1.freeRegion = some n →
      r.1.chooseBase (k.par 28 2) count = some g →
      ∃ v, exec (.regionDefine c t hostData) s = .next v ∧ v.Ended k stOk (natLE 2 n ++ natLE 2 g ++ natLE 1 0) ∧ v.region n = some { definer := k.ctx, conf := conf, base := g, granules := l.map fun m => [m] } ∧ v.grants = r.1.grants ++ [{ holder := k.ctx, region := n, rights := definerRights (r.1.ctxConf k.ctx) conf false, lease := lease, expiry := k.acceptedAt + lease * 1000000 }]) ∧
  (∀ (s : State) (c t : Nat) (k : Cmd) (lease : Nat) (r : Region), s.Taken c t 0x13 k →
      let n := k.par 16 2;
      let h := k.par 18 2;
       leasePeriod (k.par 24 4) = some lease → s.region n = some r → r.state ≠ RegionState.reclaiming →
      s.shareFault k n h (k.par 20 1) (k.par 21 1) (some r) = none → s.grant h n = none → h ≠ 4096 → s.grantRoom h = true →
      ∃ v, exec (.regionShare c t) s = .next v ∧ v.Ended k stOk (natLE 8 (k.acceptedAt + lease * 1000000) ++ natLE 1 r.epoch) ∧ v.grant h n = some { holder := h, region := n, rights := k.par 20 1, lease := lease, expiry := k.acceptedAt + lease * 1000000, issuers := [k.ctx], offeredAt := s.clk.elapsed }) ∧
  (∀ (s : State) (c t : Nat) (k : Cmd) (r : Region) (g : Grant), s.Taken c t 0x14 k →
      let n := k.par 16 2;
      let h := k.par 18 2;
       s.region n = some r → s.grant h n = some g → g.tombstone = false →
      (k.ctx = h ∨ g.issuers.contains k.ctx = true ∨ s.hasRight k.ctx n rightOwn = true ∨ k.mgmt = true) →
      r.steps.any (fun st => st.holder == h) = false → (k.mgmt = true ∨ ((s.grant k.ctx n).map (·.lapsed)).getD false = false) →
      exec (.regionRevoke c t) s = .next ((s.queueStep n { holder := h, waiters := [(k.ctx, k.tag)] }).running k)) ∧
  (∀ (s : State) (c t : Nat) (k : Cmd) (g : Grant), s.Taken c t 0x15 k → k.par 16 2 = k.ctx → k.par 18 1 = 1 → k.unusedAt 22 52 = none →
      k.par 20 2 ≠ 0 → (s.grants.filter fun g => g.holder == k.ctx).find? (fun g => g.region == k.par 20 2) = some g → g.tombstone = false →
      g.leaving = false → k.acceptedAt < g.expiry →
      ∃ v, exec (.leaseRenew c t) s = .next v ∧ v.Ended k stOk (natLE 2 1 ++ natLE 2 0 ++ zeros 4 ++ natLE 8 k.acceptedAt) ∧ v.grants = s.grants.map fun (x : Grant) => if x.holder = k.ctx ∧ x.region = k.par 20 2 ∧ x.tombstone = false then { x with expiry := k.acceptedAt + x.lease * 1000000 } else x)

/-- Where their checks pass: REGION_MIGRATE reserves the destination it finds or is given and runs on, or finds no space; SCRUB_RANGE takes the first
4 KiB block of its range in its turn, each further row takes the next, and the last reports the counts; ZERO_RANGE zeroes the range, or the whole
cord, once no agent holds a line of it, and reports the blocks; REGION_TRIPLE reserves the missing copies and runs on, ends with none missing, or
finds no space; SYNC_INIT writes every word of the range once its lines have no work waiting. (R92, R189, R374, R473, R475) -/
def Obligations.MemoryCommandRowsTakeEffect : Prop :=
  (∀ (s : State) (c t : Nat) (k : Cmd) (r : Region), s.Taken c t 0x16 k →
      let n := k.par 16 2;
      let m := k.par 20 2;
       s.region n = some r → r.cords.contains m = true → (s.cord m).state ≠ .migrating → (s.cord m).state ≠ .zeroising → r.tripling = none →
      k.par 22 2 = 0xFFFF →
      exec (.regionMigrate c t) s = .next (match s.destFor n m r with | some d => (s.reserve n m r [d]).running k | none => s.refuse k stNoSpace)) ∧
  (∀ (s : State) (c t : Nat) (k : Cmd) (r : Region), s.Taken c t 0x16 k →
      let n := k.par 16 2;
      let m := k.par 20 2;
      let g := k.par 22 2;
       s.region n = some r → r.cords.contains m = true → (s.cord m).state ≠ .migrating → (s.cord m).state ≠ .zeroising → r.tripling = none → g < 512 →
      (s.chan g).state = ChanState.inService → (s.chan g).retiring = none →
      exec (.regionMigrate c t) s = .next (match s.freeIn g (g + 1) with | [] => s.refuse k stNoSpace | d :: _ => if s.destOk n d r (r.others m) (some m) then (s.reserve n m r [d]).running k else s.refuse k stBadParam 22)) ∧
  (∀ (s : State) (c t : Nat) (k : Cmd), s.Taken c t 0x17 k → s.rangeFault k rightRead = none →
      let u := s.scrubOn k { ctx := c, tag := t, next := k.par 16 8 };
       exec (.scrubRange c t) s = .next (if u.scrubs.any (fun x => x.ctx == c && x.tag == t) then u.running k else u)) ∧
  (∀ (s : State) (c t : Nat) (k : Cmd) (rn dpa : Nat), s.Taken c t 0x17 k → s.rangeFault k rightRead = none →
      let a := k.par 16 8;
      let hi := a + k.par 24 8;
       a < hi → s.resolve a = some (rn, dpa) → ((s.copiesOf (dpa / 64)).any fun l => s.banked (lineChan l)) = false →
      let r : Scrub := { ctx := c, tag := t, next := a };
      let q := s.portTurn (s.scrubReq r (dpa / 64));
       q.2 = true →
      let ls := blockLines a hi;
      let p := ls.foldl (fun p x => State.scrubAt p x a k.ctx) (q.1, { r with after := q.1.clk.elapsed + q.1.scrubPause (dpa / 64) ls.length });
      let rest := p.1.scrubs.filter fun x => !(x.ctx == c && x.tag == t);
      exec (.scrubRange c t) s = .next (if hi ≤ p.2.next then State.final { p.1 with scrubs := rest } k stOk (natLE 5 p.2.scanned ++ natLE 4 p.2.corrected ++ natLE 4 p.2.cinder ++ zeros 3 ++ natLE 8 (p.2.first.getD noAddr)) else State.running { p.1 with scrubs := rest ++ [p.2] } k)) ∧
  (∀ (s : State) (c t : Nat) (k : Cmd) (r : Scrub), s.Running c t 0x17 k → s.scrubs.find? (fun x => x.ctx == c && x.tag == t) = some r →
      exec (.scrubRange c t) s = .next (s.scrubOn k r)) ∧
  (∀ (s : State) (c t : Nat) (k : Cmd), s.Taken c t 0x18 k → k.par 32 1 = 0 → s.rangeFault k rightWrite = none →
      let parts := s.rangeParts (k.par 16 8) (k.par 24 8);
      let q := parts.foldl (fun (q : State × Bool) p => ((q.1.recallPart (p.1.headD 0) p.2.1 p.2.2).1, q.2 && (q.1.recallPart (p.1.headD 0) p.2.1 p.2.2).2)) (s, true);
      let z := parts.foldl (fun (z : State × Nat) p => let t := p.1.foldl (fun (u : State × List Nat) c => ((u.1.zeroPart c p.2.1 p.2.2).1, u.2 ++ [(u.1.zeroPart c p.2.1 p.2.2).2])) (z.1, []); (t.1.clearShadow (cordDpa (p.1.headD 0) + p.2.1) (cordDpa (p.1.headD 0) + p.2.1 + p.2.2), z.2 + t.2.headD 0)) (q.1, 0);
       exec (.zeroRange c t) s = .next (if q.2 = false then q.1 else z.1.final k stOk (natLE 4 z.2))) ∧
  (∀ (s : State) (c t : Nat) (k : Cmd), s.Taken c t 0x18 k → k.par 32 1 = 1 → k.mgmt = true → k.unusedAt 18 32 = none →
      let n := k.par 16 2;
       n < 6144 →
      let r := s.recallPart n 0 (2 ^ 28);
      let z := r.1.zeroiseCord n;
      let u := z.1.clearShadow (cordDpa n) (cordDpa n + 2 ^ 28);
      exec (.zeroRange c t) s = .next (if r.2 = false then r.1 else (if z.2.2 && (u.cord n).state == .zeroising && !(u.cord n).zeroPending then (u.modCord n fun c => c.unbound .free).settleCords else u).final k stOk (natLE 4 z.2.1))) ∧
  (∀ (s : State) (c t : Nat) (k : Cmd) (r : Region), s.Taken c t 0x19 k →
      let m := k.par 16 2;
       s.region m = some r → r.sync = false → r.state = RegionState.active → r.tripling = none →
      r.cords.any (fun n => (s.cord n).state == .migrating) = false →
      exec (.regionTriple c t) s = .next (match (s.modRegion m fun x => { x with tripling := some (k.ctx, k.tag), triplesDone := 0 }).reserveCopies m r r.granules with | none => s.refuse k stNoSpace | some p => if p.2 = 0 then (p.1.modRegion m fun x => { x with tripling := none }).final k stOk (natLE 4 0) else (p.1.modRegion m fun x => { x with triplesLeft := p.2 }).running k)) ∧
  (∀ (s : State) (c t : Nat) (k : Cmd) (rn dpa : Nat), s.Taken c t 0x38 k →
      let a := k.par 16 8;
      let n := k.par 24 4;
       s.resolve a = some (rn, dpa) → a % 8 = 0 → s.syncArea dpa = true → s.hasRight k.ctx rn rightSync = true → n ≠ 0 → n ≤ 4194304 →
      dpa % 2 ^ 28 + 8 * n ≤ 2 ^ 25 →
      let last := (dpa + 8 * n - 1) / 64;
      exec (.syncInit c t) s = .next (if (s.locks.any fun p => decide (dpa / 64 ≤ p.1) && decide (p.1 ≤ last)) then s.again k else ((List.range (last - dpa / 64 + 1)).foldl (fun t i => t.initLine k.ctx (max dpa (64 * (dpa / 64 + i))) (min (dpa + 8 * n) (64 * (dpa / 64 + i) + 64)) (bit (k.par 28 1) 0) (natLE 8 (k.par 32 8))) s).final k stOk))

/-- PT_BIND and PT_SYNC drop the translations, PT_BIND takes the new root, and both reply once the accesses under way through what they dropped have
completed; a walk that ends at a leaf fills the buffer and the run goes on, one that faults enters the fault; FAULT_RESUME ends with the entry's
tile mask; FAULT_QUEUE_POST posts every raised fault; STALL_LIST_REWALK walks again for every fault of the list. (R141, R144, R150, R152, R153,
R154) -/
def Obligations.TranslationRowsTakeEffect : Prop :=
  (∀ (s : State) (c t : Nat) (k : Cmd), s.Taken c t 0x20 k →
      let root := k.par 16 8;
      let n := k.par 24 2;
       root % 4096 = 0 → (root ≠ 0 → s.tableRegionOk k.ctx n = true ∧ (s.resolve root).map Prod.fst = some n) → k.awaits = none →
      let l := s.through k.ctx 0 (2 ^ 48);
      let u := ((s.dropXlat k.ctx 0 (2 ^ 48)).reissue k.ctx).modCtx k.ctx fun x => { x with ptRoot := root, ptRegion := if root = 0 then 0 else n };
       exec (.ptBind c t) s = .next (if u.under l then (u.modCmd k.ctx k.tag fun x => { x with awaits := some l }).again k else u.final k stOk)) ∧
  (∀ (s : State) (c t : Nat) (k : Cmd) (l : List Nat × List (Nat × Nat)), s.Taken c t 0x20 k → k.awaits = some l →
      exec (.ptBind c t) s = .next (if s.under l then s.again k else s.final k stOk)) ∧
  (∀ (s : State) (c t : Nat) (k : Cmd), s.Taken c t 0x21 k →
      let a := k.par 16 8;
      let n := k.par 24 4;
       a % 4096 = 0 → a < 2 ^ 48 → k.awaits = none →
      let lo := if n = 0 then 0 else a;
      let hi := if n = 0 then 2 ^ 48 else a + 4096 * n;
      let l := s.through k.ctx lo hi;
      let u := (s.dropXlat k.ctx lo hi).reissue k.ctx;
       exec (.ptSync c t) s = .next (if u.under l then (u.modCmd k.ctx k.tag fun x => { x with awaits := some l }).again k else u.final k stOk)) ∧
  (∀ (s : State) (c t : Nat) (k : Cmd) (l : List Nat × List (Nat × Nat)), s.Taken c t 0x21 k → k.par 16 8 % 4096 = 0 → k.par 16 8 < 2 ^ 48 →
      k.awaits = some l → exec (.ptSync c t) s = .next (if s.under l then s.again k else s.final k stOk)) ∧
  (∀ (s : State) (c t : Nat) (k : Cmd) (e : FqEnt), s.Taken c t 0x22 k → k.par 16 1 < 4 → k.par 17 1 < 2 → k.par 18 2 < 1024 →
      Tab.get none (s.faultQ (k.par 16 1)).slots (k.par 18 2) = some e → e.seq = k.par 20 4 → (k.ctx = e.fault.ctx ∨ k.ctx = 0) →
      ∃ v, exec (.faultResume c t) s = .next v ∧ v.Ended k stOk (natLE 8 ((e.mask.map (2 ^ ·)).sum))) ∧
  (∀ (s : State) (i : Nat) (r : Run) (a : Nat) (w : Bool) (e : TbEnt), (s.ember i).run = some r → r.walking = some (a, w) → r.fault = none →
      r.err = none →
      let q := s.walk i r.ctx a w;
       q.2 = .leaf e →
      let u := q.1.modFaultQ (tileHearth i) fun q => { q with walks := satInc 32 q.walks };
      exec (.tbMissWalkDone i) s = .next ((u.tbAdd i e).modEmber i fun m => { m with state := .running, run := m.run.map fun (r : Run) => { r with walking := none } })) ∧
  (∀ (s : State) (i : Nat) (r : Run) (a : Nat) (w : Bool) (l cause reason p : Nat), (s.ember i).run = some r → r.walking = some (a, w) →
      r.fault = none → r.err = none →
      let q := s.walk i r.ctx a w;
       q.2 = .fault l cause reason p →
      let u := q.1.modFaultQ (tileHearth i) fun q => { q with walks := satInc 32 q.walks };
      exec (.tbMissWalkDone i) s = .next (u.enterFault i { tile := i, ctx := r.ctx, level := l, span := spanBase l a, cause := cause, write := w, reason := reason, entryAddr := p })) ∧
  (∀ (s : State) (h : Nat), h < 4 →
      exec (.faultQueuePost h) s = .next ((byTile (s.faultQ h).raised h).foldl (fun t f => t.postFault h f) (s.modFaultQ h fun q => { q with raised := [] }))) ∧
  (∀ (s : State) (h : Nat), h < 4 → (s.faultQ h).rewalk = true →
      exec (.stallListRewalk h) s = .next (((s.faultQ h).stall.foldl (fun t f => t.walkAgain f.tile) (s.modFaultQ h fun q => { q with stall := [], rewalk := false })).settleFull h))

/-- Where their checks pass: PLAN_LOAD stores the plan under the lowest free number and replies with it and its digest; PLAN_RUN starts a run and runs
on; PLAN_ARM makes the arm entry; PLAN_CANCEL removes the arms and cancels; PLAN_START queues the run on its Ember; the last END_NOTICE ends the
run. (R205, R208, R209, R212, R214, R216) -/
def Obligations.PlanRowsTakeEffect : Prop :=
  (∀ (s : State) (c t : Nat) (k : Cmd) (h b : Bytes) (ts : List Nat) (n : Nat), s.Taken c t 0x30 k →
      let a := k.par 16 8;
       a % 64 = 0 → s.rangeStatus k.ctx a 64 rightRead = none →
      let p := s.poolRead k.ctx a 64 rightRead;
       p.2 = .ok h → headerOk h = true →
      let count := fieldAt h 2 2;
       s.rangeStatus k.ctx a (64 * count) rightRead = none →
      let q := (if 64 < count then p.1.deferOnce k else p.1).poolRead k.ctx a (64 * count) rightRead;
       q.2 = .ok b →
      let l := chunks 64 4096 b;
       q.1.planCheck k.ctx l = .ok ts → ((q.1.ctx k.ctx).map Ctx.logFull).getD false = false → q.1.freePlan = some n →
      let digest := Config.sm3 (l.flatten ++ natLE 2 k.ctx);
      ∃ v, exec (.planLoad c t) s = .next v ∧ v.Ended k stOk (natLE 2 n ++ zeros 2 ++ digest.take 16) ∧ v.plan n = some { ctx := k.ctx, bytes := l, tiles := ts, doneWord := fieldAt (l.headD []) 40 8, errorArea := fieldAt (l.headD []) 48 8, digest := digest }) ∧
  (∀ (s : State) (c t : Nat) (k : Cmd) (p : Plan), s.Taken c t 0x31 k →
      let n := k.par 16 2;
       s.ownPlan k.ctx n = some p → p.state = .loaded → s.planFenced p = false →
      exec (.planRun c t) s = .next ((s.startRun n p false (some (k.ctx, k.tag)) .running (cuRouter (s.triplex.holder.getD 0)) s.clk.nt).running k)) ∧
  (∀ (s : State) (c t : Nat) (k : Cmd) (p : Plan) (rn dpa : Nat), s.Taken c t 0x32 k →
      let n := k.par 16 2;
      let a := k.par 20 8;
       s.ownPlan k.ctx n = some p → k.par 18 1 < 2 → s.resolve a = some (rn, dpa) → a % 8 = 0 → s.syncArea dpa = true →
      s.hasRight k.ctx rn rightSync = true → p.state = .loaded → s.planFenced p = false →
      let i := homeTile (dpa / 64);
      let key := s.poolKey (dpa / 64);
       s.armsUsed i key < s.poolShare i key 32 →
      exec (.planArm c t) s = .next (((State.modPlan { s with arms := s.arms ++ [({ plan := n, ctx := k.ctx, region := rn, word := dpa, rearm := k.par 18 1 == 1 } : Arm)] } n fun p => { p with state := .armed }).preload n p).final k stOk)) ∧
  (∀ (s : State) (c t : Nat) (k : Cmd) (p : Plan), s.Taken c t 0x33 k →
      let n := k.par 16 2;
       s.ownPlan k.ctx n = some p → p.state ≠ .cancelling → s.arms.any (fun a => a.plan == n && (s.lock (a.word / 64)).isSome) = false →
      let u := (State.modPlan { s with arms := s.arms.filter fun (a : Arm) => a.plan != n } n fun p => { p with state := .cancelling, cancelCmd := some (k.ctx, k.tag), unload := bit (k.par 18 1) 0 }).running k;
       exec (.planCancel c t) s = .next (if p.active = none then u.endCancel n else u.cancelRuns n)) ∧
  (∀ (s : State) (n : Nat) (st : Start) (p : Plan), s.starts[n]? = some st → s.plan st.plan = some p →
      p.active.map (fun a => a.number) = some st.number → (s.ember st.tile).inService = true →
      exec (.planStart n) s = .next ((State.modEmber { s with starts := s.starts.eraseIdx n } st.tile fun e => { e with queue := e.queue ++ [startedRun st p] }).boundary st.tile)) ∧
  (∀ (s : State) (n : Nat) (m : EndMsg) (p : Plan) (a : ActiveRun), s.ends[n]? = some m → s.plan m.plan = some p → p.active = some a →
      a.number = m.number →
      let first := m.cls != 0 && a.errors == 0;
      let b : ActiveRun := { a with ended := a.ended + 1, errors := a.errors + b2n (m.cls != 0), firstClass := if first then m.cls else a.firstClass, firstReason := if first then m.reason else a.firstReason, firstIndex := if first then m.index else a.firstIndex };
      let u := State.modPlan { s with ends := s.ends.eraseIdx n } m.plan fun p => { p with active := some b };
       exec (.endNotice n) s = .next (if b.ended < p.tiles.length then u else u.runEnded m.plan p b))

/-- Where their checks pass: GATE_INSTALL and ROUTE_INSTALL fill the inactive version and name it in the reply; EPOCH_SWITCH notes the switch and runs
on; SHAPER_SET and POLICER_SET leave new values pending in a slot; SHAPER_REFILL refills at the next 64 ns of network time. (R295, R313, R314,
R321, R322, R324) -/
def Obligations.ScheduleRowsTakeEffect : Prop :=
  (∀ (s : State) (c t : Nat) (k : Cmd) (hostData : Option Bytes) (b : Bytes), s.Taken c t 0x40 k →
      let n := 1 - s.sched.active;
      let old := s.sched.versions.getD n {};
       s.restedSince old.lastActive = true → s.sched.pendingGates = false →
      let r := s.readIn k (k.par 16 8) (k.par 24 4) hostData;
       r.2 = .ok b → (readGates b).isSome = true →
      let g := (readGates b).getD {};
       r.1.gateChecks g = none →
      let u : State := { r.1 with sched := { r.1.sched with versions := r.1.sched.versions.set n { g with lastActive := old.lastActive } } };
      exec (.gateInstall c t hostData) s = .next ((if fieldAt b 20 4 ≠ 0 ∧ g.profile.isNone then u.log 0x0A02 else u).setParent.final k stOk (padTo 16 g.digest ++ natLE 1 n))) ∧
  (∀ (s : State) (c t : Nat) (k : Cmd) (hostImage hostTopology : Option Bytes) (img topo : Bytes) (r : Routes), s.Taken c t 0x41 k →
      let n := 1 - s.routeActive;
      let old := s.routes.getD n {};
       s.restedSince old.lastActive = true → s.sched.pendingRoutes = false →
      let p := s.readIn k (k.par 16 8) 263168 hostImage;
       p.2 = .ok img →
      let q := p.1.readIn k (k.par 24 8) 128 hostTopology;
       q.2 = .ok topo → readRoutes img topo = some r →
      let u : State := { q.1 with routes := q.1.routes.set n { r with lastActive := old.lastActive } };
      exec (.routeInstall c t hostImage hostTopology) s = .next ((if u.routeSwitched then u else u.setClasses).final k stOk (natLE 2 r.localIdx ++ natLE 1 n))) ∧
  (∀ (s : State) (c t : Nat) (k : Cmd), s.Taken c t 0x42 k →
      let wantR := bit (k.par 16 1) 0;
      let wantG := bit (k.par 16 1) 1;
      let at_ := k.par 24 8;
      let g := s.sched.versions.getD (1 - s.sched.active) {};
       (wantR = true ∨ wantG = true) → s.sched.pendingT = none → k.acceptedAt + 50000 ≤ at_ →
      (wantG = true → g.installed = true ∧ cycleStart (if s.sched.defaultLists then {} else s.gates) at_ = true ∧ cycleStart g at_ = true ∧ (s.net.state = 1 ∨ s.net.grandmaster = true)) →
      (wantR = true → (s.routes.getD (1 - s.routeActive) {}).installed = true ∧ s.topologyFault (1 - s.routeActive) = none) →
      exec (.epochSwitch c t) s = .next (State.running { s with sched := { s.sched with pendingT := some at_, pendingRoutes := wantR, pendingGates := wantG, pendingCmd := some (k.ctx, k.tag) } } k)) ∧
  (∀ (s : State) (c t : Nat) (k : Cmd) (i : Nat), s.Taken c t 0x43 k →
      let h := k.par 16 2;
      let p := k.par 18 1;
      let rate := k.par 20 4;
      let burst := k.par 24 4;
      let l := Tab.get [] s.sched.shapers p;
       h < 4096 → s.ctxLive h = true → p < 32 → rate ≠ 0 → rate ≤ 1600000 → 256 ≤ burst → burst ≤ 1048576 → k.par 28 1 < 64 →
      slotFor l (fun x => x.bound && x.ctx == h) (fun x => !x.bound) = some i →
      let x := l.getD i {};
      exec (.shaperSet c t) s = .next (State.final { s with sched := { s.sched with shapers := Tab.set [] s.sched.shapers p (putAt l i { (if x.bound && x.ctx == h then x else { ctx := h }) with pending := some (rate, burst, k.par 28 1) }) } } k stOk (natLE 1 i))) ∧
  (∀ (s : State) (c t : Nat) (k : Cmd) (i : Nat), s.Taken c t 0x44 k →
      let h := k.par 16 2;
      let p := k.par 18 1;
      let cir := k.par 20 4;
      let pir := k.par 24 4;
      let l := Tab.get [] s.sched.policers p;
       h < 4096 → s.ctxLive h = true → p < 32 → cir ≠ 0 → cir ≤ pir → pir ≤ 1600000 → 256 ≤ k.par 28 4 → k.par 28 4 ≤ 1048576 → 256 ≤ k.par 32 4 →
      k.par 32 4 ≤ 1048576 → k.par 36 1 < 64 →
      let used := fun (x : Policer) => x.cir != 0 || x.pending.isSome;
       slotFor l (fun x => used x && x.ctx == h) (fun x => !used x) = some i →
      let x := l.getD i {};
      exec (.policerSet c t) s = .next (State.final { s with sched := { s.sched with policers := Tab.set [] s.sched.policers p (putAt l i { (if used x && x.ctx == h then x else { ctx := h }) with pending := some [cir, pir, k.par 28 4, k.par 32 4, k.par 36 1, k.par 19 1] }) } } k stOk)) ∧
  (∀ (s : State),
      let u := s.untilNt ((s.clk.nt / 64 + 1) * 64);
      let w : State := { u with sched := { u.sched with shapers := Tab.mapVals [] u.sched.shapers fun l => l.map Shaper.refill, policers := Tab.mapVals [] u.sched.policers fun l => l.map Policer.refill } };
       exec (.shaperRefill) s = .next ((w.sched.shapers.map Prod.fst).foldl (fun t p => t.pump p) w))

/-- Where their checks pass: SELFTEST of an Ember takes it out of service for its test and runs on, and every other unit starts its test or is
refused; SELFTEST_COMPLETE ends with the result, a unit on a lost Hearth never passing; CALIBRATE sets the asked tasks due; RETIRE takes an Ember
or a port out for good; RETIRE_COMPLETE retires the emptied channel; FW_UPDATE starts the write or raises the version floor; FW_UPDATE_WRITE_DONE
keeps the image in the other area and ends with its check. (R71, R97, R341, R490, R492) -/
def Obligations.MaintenanceRowsTakeEffect : Prop :=
  (∀ (s : State) (c t : Nat) (k : Cmd), s.Taken c t 0x50 k → k.par 16 1 = 0 →
      let n := k.par 18 2;
       n < 256 → (s.ember n).inService = true → s.emberNamed n = false →
      exec (.selftest c t) s = .next ((s.modEmber n fun e => { e with state := .fenced, testing := some (k.ctx, k.tag), margin := bit (k.par 20 1) 3 }).running k)) ∧
  (∀ (s : State) (c t : Nat) (k : Cmd), s.Taken c t 0x50 k →
      exec (.selftest c t) s = .next (match s.testStart k with | .only st => s.refuse k st | .later st i => (s.deferOnce k).refuse k st i | .go u => u.running k)) ∧
  (∀ (s : State) (c t : Nat) (k : Cmd) (pass : Bool), s.Running c t 0x50 k →
      let kind := k.par 16 1;
      let n := k.par 18 2;
       s.testRun kind n = true →
      let ok := pass && !s.unitLost kind n;
      ∃ v, exec (.selftestComplete c t pass) s = .next v ∧ (ok = true → v.Ended k stOk (natLE 1 0)) ∧ (ok = false → ∃ code, v.Ended k stOk (natLE 1 1 ++ natLE 4 code)) ∧ (kind = 0 → ((v.ember n).state = if ok then .idle else .fenced))) ∧
  (∀ (s : State) (c t : Nat) (k : Cmd), s.Taken c t 0x51 k →
      let g := k.par 16 2;
      let tasks := k.par 18 1;
       tasks ≠ 0 → g < 512 → ((s.chan g).state = .inService ∨ (s.chan g).state = .migrating) →
      exec (.calibrate c t) s = .next (((s.modChan g fun x => { x with calZq := x.calZq || bit tasks 0, calRt := x.calRt || bit tasks 1, calCmds := x.calCmds ++ [(k.ctx, k.tag)] }).running k).calibrated (k.ctx, k.tag))) ∧
  (∀ (s : State) (c t : Nat) (k : Cmd), s.Taken c t 0x52 k → k.par 16 1 = 0 →
      let n := k.par 18 2;
       n < 256 → s.underTest 0 n = false → (s.ember n).retired = false →
      exec (.retire c t) s = .next (State.final { (s.fenceEmber n).modEmber n fun e => { e with retired := true } with kept := { s.kept with retiredEmbers := s.kept.retiredEmbers ++ [n] } } k stOk (zeros 8))) ∧
  (∀ (s : State) (c t : Nat) (k : Cmd), s.Taken c t 0x52 k → k.par 16 1 = 2 →
      let n := k.par 18 2;
       n < 32 → s.underTest 2 n = false → (s.port n).retired = false →
      exec (.retire c t) s = .next (State.final { (s.fullReset n).modPort n fun q => { q with retired := true } with kept := { s.kept with retiredPorts := s.kept.retiredPorts ++ [n] } } k stOk (zeros 8))) ∧
  (∀ (s : State) (c t : Nat) (k : Cmd), s.Running c t 0x52 k → k.par 16 1 = 1 →
      let g := k.par 18 2;
      let x := s.chan g;
       x.retiring = some (k.ctx, k.tag) → x.retireCords = [] → (List.range 12).any (fun i => (s.cord (12 * g + i)).state == .zeroising) = false →
      ∃ v, exec (.retireComplete c t) s = .next v ∧ v.Ended k stOk (natLE 2 x.retireMoved ++ zeros 2 ++ natLE 4 x.retireCinder) ∧ (v.chan g).state = .retired ∧ g ∈ v.kept.retiredChans) ∧
  (∀ (s : State) (c t : Nat) (k : Cmd) (hostData : Option Bytes) (b : Bytes), s.Taken c t 0x54 k → s.diag.updating = none → s.hearthLost 2 = false →
      k.par 28 1 = 0 → k.par 24 4 ≤ 3670016 →
      let r := s.readIn k (k.par 16 8) (k.par 24 4) hostData;
       r.2 = .ok b →
      exec (.fwUpdate c t hostData) s = .next (State.running { r.1 with diag := { r.1.diag with updating := some (k.ctx, k.tag, b) } } k)) ∧
  (∀ (s : State) (c t : Nat) (k : Cmd) (hostData : Option Bytes), s.Taken c t 0x54 k → s.diag.updating = none → k.par 28 1 = 1 →
      let n := max s.kept.svnFloor s.activeCu.svn;
       n ≤ 64 → exec (.fwUpdate c t hostData) s = .next (State.final { s with kept := { s.kept with svnFloor := n } } k stOk (natLE 2 n))) ∧
  (∀ (s : State) (c t : Nat) (k : Cmd) (b : Bytes), s.Running c t 0x54 k → s.hearthLost 2 = false → s.diag.updating = some (k.ctx, k.tag, b) →
      let check := imageCheck b;
      let u : State := { s with kept := { s.kept with images := s.kept.images.set (1 - s.kept.bootArea) b }, diag := { s.diag with updating := none } };
      exec (.fwUpdateWriteDone c t) s = .next (if imageOk check s.kept.svnFloor then u.final k stOk (natLE 2 check.svn ++ natLE 2 check.stateFormat) else u.refuse k stBadParam))

/-- Where their checks pass: TRIPLEX_MODE sets the mode asked for and replies with the status, takes a unit out, or releases the token to a unit;
UNIT_REJOIN lets a synchronised unit serve after a gap of 120 ns; TELEM_READ and LOG_READ write their records and reply with the sizes;
TELEM_CAPTURE sets go where a write is allowed, and its end fills the window. (R371, R494, R495, R497, R517) -/
def Obligations.StatusRowsTakeEffect : Prop :=
  (∀ (s : State) (c t : Nat) (k : Cmd), s.Taken c t 0x55 k →
      let n := k.par 17 1;
       k.par 16 1 = 0 → n < 2 →
      let u : State := { s with triplex := { s.triplex with hotRequested := n == 1 } };
       exec (.triplexMode c t) s = .next (u.final k stOk (natLE 4 u.triplexStatus))) ∧
  (∀ (s : State) (c t : Nat) (k : Cmd), s.Taken c t 0x55 k →
      let n := k.par 17 1;
       k.par 16 1 = 1 → n < 3 → (s.cu n).state = .serving → s.triplexBusy = false → s.othersServe n = true →
      let u := (s.dropToken n).cuState n .out;
       exec (.triplexMode c t) s = .next (u.final k stOk (natLE 4 u.triplexStatus))) ∧
  (∀ (s : State) (c t : Nat) (k : Cmd), s.Taken c t 0x55 k →
      let n := k.par 17 1;
       k.par 16 1 = 4 → n < 3 → (s.cu n).state = .serving →
      exec (.triplexMode c t) s = .next ((s.releaseTo n).final k stOk (natLE 4 (s.releaseTo n).triplexStatus))) ∧
  (∀ (s : State) (n : Nat), n < 3 → (s.cu n).state = .syncing → (s.cu n).syncCmd = none →
      let u := (s.modCu n fun c => { c with syncCmd := none }).cuState n .serving;
      let all := u.triplex.units.all fun x => x.state == .serving && x.area == 1 - u.kept.bootArea;
      exec (.unitRejoin n) s = .next ({ u with triplex := { u.triplex with gapEnd := u.clk.elapsed + 120 }, kept := if all then { u.kept with bootArea := 1 - u.kept.bootArea } else u.kept })) ∧
  (∀ (s : State) (c t : Nat) (k : Cmd) (l : List Nat), s.Taken c t 0x60 k →
      let g := k.par 16 1;
      let i := k.par 18 2;
       (telemPrivate g = true → k.ctx = 0) → s.telemValues k.ctx g i = some l →
      let need := 16 + 8 * l.length;
       k.par 20 8 % 8 = 0 → need ≤ k.par 28 4 →
      let r := s.writeOut k (k.par 20 8) (natLE 1 g ++ zeros 1 ++ natLE 2 i ++ natLE 4 l.length ++ natLE 8 s.clk.nt ++ l.flatMap (natLE 8)) true;
       r.2 = none → exec (.telemRead c t true) s = .next ((r.1.telemRead g i).final k stOk (natLE 4 need))) ∧
  (∀ (s : State) (c t : Nat) (k : Cmd), s.Taken c t 0x61 k →
      let seen := s.diag.log.filter fun e => decide (k.par 28 4 ≤ e.seq) && s.mayRead k.ctx e;
      let l := seen.take (k.par 24 4 / 32);
      let next := match seen[l.length]? with | some e => e.seq | none => max s.diag.nextSeq (k.par 28 4);
      let r := s.writeOut k (k.par 16 8) (l.flatMap fun e => e.bytes (s.addrFor k.ctx e) e.detail) true;
       r.2 = none →
      exec (.logRead c t true) s = .next (r.1.final k stOk (natLE 4 l.length ++ natLE 4 next ++ natLE 4 (((s.diag.log.head?).map (·.seq)).getD 0)))) ∧
  (∀ (s : State) (rd : Reader), s.mayWrite rd false = true → exec (.telemCapture rd) s = .next s.telemGo) ∧
  (∀ (s : State) (l : List Nat), s.diag.telemGo = true →
      let u : State := { s with diag := { s.diag with telemGo := false, telemTime := s.clk.nt } };
       u.telemValues 0 s.diag.telemGroup s.diag.telemIndex = some l →
      exec (.telemCaptureDone) s = .next (State.telemRead { u with diag := { u.diag with telemValid := true, telemCount := l.length, telemValues := l } } s.diag.telemGroup s.diag.telemIndex))

/-- A waiting request is stamped; a grant fill takes the entry into the cache, where one may give way, and stamps the requests that waited for it, or
ends them DENIED where there is no grant in force; a completion passes its stamping point; the head revocation of a region starts 10 us after the
last step, that of a destroyed context once its replies have left; its end replies to the commands that wait, the first with the counts, and
reclaims the region when no grant is left; the lease examination queues a step for every grant past its expiry. (R113, R114, R119, R120, R121) -/
def Obligations.StampRowsTakeEffect : Prop :=
  (∀ (s : State) (p n : Nat) (m : Req), (Tab.get [] s.stampQ p)[n]? = some m →
      exec (.requestStamp p n) s = .next (State.stamp { s with stampQ := Tab.modify [] s.stampQ p (·.eraseIdx n) } p m)) ∧
  (∀ (s : State) (p h n : Nat) (g : Grant) (r : Region),
      let mine := fun (m : Req) => m.holder == h && ((s.resolve m.pool).map (·.1)).getD 0 == n;
       (Tab.get [] s.fillQ p).filter mine ≠ [] → s.grant h n = some g → s.region n = some r → (g.accepted = true ∨ g.tombstone = true) →
      let u : State := { s with fillQ := Tab.modify [] s.fillQ p (·.filter fun m => !mine m) };
      exec (.grantFill p h n) s = .next (match cacheFill (cacheSize p) (s.cache p) { holder := h, region := n, rights := g.rights, epoch := r.epoch, tombstone := g.tombstone } with | some l => ((Tab.get [] s.fillQ p).filter mine).foldl (fun t m => t.stamp p m) (u.modCache p fun _ => l) | none => s)) ∧
  (∀ (s : State) (p h n : Nat) (g : Grant),
      let mine := fun (m : Req) => m.holder == h && ((s.resolve m.pool).map (·.1)).getD 0 == n;
       (s.grant h n = none ∨ (s.grant h n = some g ∧ g.accepted = false ∧ g.tombstone = false)) → (s.region n).isSome = true →
      let u : State := { s with fillQ := Tab.modify [] s.fillQ p (·.filter fun m => !mine m) };
      exec (.grantFill p h n) s = .next (if (Tab.get [] s.fillQ p).filter mine = [] then s else ((Tab.get [] s.fillQ p).filter mine).foldl (fun t m => t.endAtPoint m 9) u)) ∧
  (∀ (s : State) (n : Nat) (x : Completion), s.completions[n]? = some x →
      exec (.completionPassesStamp n) s = .next ((State.landed { s with completions := s.completions.eraseIdx n } x.req).answer x)) ∧
  (∀ (s : State) (n : Nat) (r : Region) (st : Step) (l : List Step), s.region n = some r → r.steps = st :: l → st.started = false →
      ∀ c, st.destroyOf = some c → s.cmds.any (fun (k : Cmd) => k.ctx == c) = false →
      exec (.epochStep n) s = .next ((match r.lastStep with | some t => s.untilElapsed (t + 10000) | none => s).epochStep n r st)) ∧
  (∀ (s : State) (n : Nat) (r : Region) (st : Step) (l : List Step), s.region n = some r → r.steps = st :: l → st.started = true →
      s.phase2Done n st.holder = true → st.destroyOf = none →
      let us := toMicros (s.clk.elapsed - st.startedAt);
      let reply := fun (t : State) (w : Nat × Nat) (a b d : Nat) => match t.cmd w.1 w.2 with | some k => t.final k stOk (natLE 4 a ++ natLE 4 b ++ natLE 4 d) | none => t;
      let v := s.modRegion n fun r => { r with steps := l, state := .active };
      let u := match st.waiters with | [] => v | w :: ws => ws.foldl (fun t x => reply t x 0 0 0) (reply v w st.recalled st.cindered us);
      exec (.revokePhase2End n) s = .next (if u.grants.any (fun g => g.region == n && !g.tombstone) then u else match u.region n with | some r => u.reclaim n r | none => u)) ∧
  (∀ (s : State), s.complexActs = true → s.held = false →
      let u := (s.untilElapsed ((s.clk.elapsed / 250000 + 1) * 250000)).injectLapse;
      exec (.leaseExamination) s = .next ((u.grants.filter fun g => !g.tombstone && !g.leaving && g.accepted && decide (g.expiry ≤ u.clk.nt) && !u.renewalWaits g).foldl (fun t g => (t.queueStep g.region { holder := g.holder, lapse := true }).log 0x0201 (if g.holder < 4096 then some g.holder else none) none (natLE 2 g.holder ++ natLE 2 g.region)) u))

/-- A sweep marks every pending cord of its slice swept; a swept cord, once quiet and in cord order, is zeroised, freed and logged, or stays zeroising
on a poisoned range; a move copies the next block of 64 lines through the service port and, when all blocks are copied and its lines recalled,
cuts over to its destination, a tripling adding its copies. (R127, R129, R130, R536) -/
def Obligations.CordMaintenanceRowsTakeEffect : Prop :=
  (∀ (s : State) (i : Nat),
      let step := fun (t : State) (n : Nat) => (((t.modChan (cordChan n) fun x => { x with merge := x.merge.filter fun e => lineCord e.line != n, rmw := x.rmw.filter fun e => lineCord e.line != n }).endWaits fun m => lineCord (m.dpa / 64) == n).recallCord n).modCord n fun x => { x with swept := true };
       exec (.zeroiseSweep i) s = .next (((sliceCords i).filter fun n => (s.cord n).zeroPending && !(s.cord n).swept).foldl step s)) ∧
  (∀ (s : State) (n : Nat),
      let x := s.cord n;
       x.state = .zeroising → x.zeroPending = true → x.swept = true →
      let before := (sliceCords (cordSlice n)).any (fun m => decide (m < n) && (s.cord m).swept && (s.cord m).zeroPending);
      let u := (s.zeroiseCord n).1.clearShadow (cordDpa n) (cordDpa n + 2 ^ 28);
      let w := if (u.cord n).state == .retired then u else if u.cordPoisoned n then u.modCord n fun x => { x with zeroPending := false, swept := false, region := 0 } else u.modCord n fun x => x.unbound .free;
      exec (.cordZeroised n) s = .next (if before || !s.cordQuiet n || s.banked (cordChan n) then s else (w.log 0x0202 none (some (cordDpa n)) (natLE 2 n)).settleCords)) ∧
  (∀ (s : State) (n d : Nat),
      let x := s.cord n;
       x.state = .migrating → x.copied < 65536 → x.dest = some d →
      let tripling := fun (n : Nat) => ((s.region (s.cord n).region).bind (·.tripling)).isSome;
      let before := tripling n && (List.range (n % 12)).any fun i => (s.cord (n - n % 12 + i)).state == .migrating && decide ((s.cord (n - n % 12 + i)).copied < 65536) && tripling (n - n % 12 + i);
      let l0 := cordLine n + 64 * x.copied;
      let ds := d :: x.extraDest;
      let w := s.portTurn (s.copyReq n l0);
      exec (.cordCopyBlock n) s = .next (if before || (n :: ds).any (fun m => s.banked (cordChan m)) || s.locks.any (fun p => decide (l0 ≤ p.1) && decide (p.1 < l0 + 64)) then s else if (s.chan (cordChan n)).state == .fenced then s.copyNext n ds else if w.2 then w.1.copyNext n ds else w.1)) ∧
  (∀ (s : State) (n d : Nat) (r : Region),
      let x := s.cord n;
       s.region x.region = some r → x.dest = some d → x.state = .migrating → 65536 ≤ x.copied → r.state = .active →
      let u := (s.modCord n fun y => { y with cutover := true }).recallCord n;
      let w := (d :: x.extraDest).foldl (fun t m => t.modCord m fun y => { y with state := .bound, ctx := x.ctx, region := x.region, epoch := r.epoch, removed := x.removed }) u;
      let new := fun (old : List Nat) => if old.contains n then w.granuleAfter r.tripling.isSome n (d :: x.extraDest) old else old;
      let v : State := { w.modRegion x.region fun r => { r with granules := r.granules.map new } with gmap := Tab.mapVals [] w.gmap new };
      let z := (v.moveSync n d).modChan (cordChan n) fun y => { y with merge := y.merge.filter fun e => lineCord e.line != n, rmw := y.rmw.filter fun e => lineCord e.line != n };
      let q := if r.tripling.isSome then v.modCord n fun y => { y with state := .bound, dest := none, extraDest := [], copied := 0, cutover := false, linesCopied := 0, linesCindered := 0 } else (z.modCord n fun y => y.unbound .free).startZeroise n;
       exec (.cordCutover n) s = .next (if u.cordQuiet n then q.cutoverReplies n x.region x else u))

/-- RD_SHARED, RD_OWN, UPGRADE, RD_CUR, WR_INV, WR_PART and ACC_LINE of this device that stand in their slot at their home, with an epoch the cord
admits and room for a lock, join the queue of their line, which is served. (R166, R177, R256) -/
def Obligations.HomeRequestsTakeEffect : Prop :=
  (∀ (s : State) (n : Nat) (m : Req) (u : State), s.AtHome n .rdShared m u → exec (.rdShared n) s = .next (u.joined n m)) ∧
  (∀ (s : State) (n : Nat) (m : Req) (u : State), s.AtHome n .rdOwn m u → exec (.rdOwn n) s = .next (u.joined n m)) ∧
  (∀ (s : State) (n : Nat) (m : Req) (u : State), s.AtHome n .upgrade m u → exec (.upgrade n) s = .next (u.joined n m)) ∧
  (∀ (s : State) (n : Nat) (m : Req) (u : State), s.AtHome n .rdCur m u → exec (.rdCur n) s = .next (u.joined n m)) ∧
  (∀ (s : State) (n : Nat) (m : Req) (u : State), s.AtHome n .wrInv m u → exec (.wrInv n) s = .next (u.joined n m)) ∧
  (∀ (s : State) (n : Nat) (m : Req) (u : State), s.AtHome n .wrPart m u → exec (.wrPart n) s = .next (u.joined n m)) ∧
  (∀ (s : State) (n : Nat) (m : Req) (u : State), s.AtHome n .accLine m u → exec (.accLine n) s = .next (u.joined n m))

/-- WRITE_FILL, READ_DRAIN, READ_FULL and ADD_SAT that pass the checks at their home join the queue of their line, which is served; a FENCE with no
earlier write of its source on the way completes with CMP. (R183, R187) -/
def Obligations.SyncRequestsTakeEffect : Prop :=
  (∀ (s : State) (n : Nat) (m : Req) (u : State), s.AtHome n .writeFill m u → exec (.writeFill n) s = .next (u.joined n m)) ∧
  (∀ (s : State) (n : Nat) (m : Req) (u : State), s.AtHome n .readDrain m u → exec (.readDrain n) s = .next (u.joined n m)) ∧
  (∀ (s : State) (n : Nat) (m : Req) (u : State), s.AtHome n .readFull m u → exec (.readFull n) s = .next (u.joined n m)) ∧
  (∀ (s : State) (n : Nat) (m : Req) (u : State), s.AtHome n .addSat m u → exec (.addSat n) s = .next (u.joined n m)) ∧
  (∀ (s : State) (n : Nat) (m : Req), s.mesh[n]? = some m → m.op = .fence → s.cycleTurn m = true →
      exec (.fence n) s = .next (if s.earlierWrite m then s else (s.takeMesh n).finish m .cmp 0 0 []))

/-- WB writes the line's data and EVICT none; both drop the directory entry and complete with CMP. RSP_DATA, RSP_ACK and RSP_NONE answer the open
probe of their line. A host snoop response comes as the answer of the host, looked up in its slot, else pooled; a BIConflict is acknowledged. A
waiting answer enters the pool of its slice while its share has room. (R165, R166, R169, R172, R178) -/
def Obligations.HomeAnswersTakeEffect : Prop :=
  (∀ (s : State) (n : Nat) (m : Req) (e : DirEnt) (u : State), s.OwnerGivesUp n .wb m e u →
      let l := m.dpa / 64;
      let w := ((((u.takeMesh n).queueLine l m.holder (some m.data)).setDir l none).finish m .cmp 0 0 []).wake l;
       exec (.wb n) s = .next (w.1.serveWork 256 (l :: w.2))) ∧
  (∀ (s : State) (n : Nat) (m : Req) (e : DirEnt) (u : State), s.OwnerGivesUp n .evict m e u →
      let l := m.dpa / 64;
      let w := (((u.takeMesh n).setDir l none).finish m .cmp 0 0 []).wake l;
       exec (.evict n) s = .next (w.1.serveWork 256 (l :: w.2))) ∧
  (∀ (s : State) (n : Nat) (m : Req) (k : Lock) (p : Probe), s.AnswersProbe n .rspData m k p → exec (.rspData n) s = .next (s.probeAnswered n m k p)) ∧
  (∀ (s : State) (n : Nat) (m : Req) (k : Lock) (p : Probe), s.AnswersProbe n .rspAck m k p → exec (.rspAck n) s = .next (s.probeAnswered n m k p)) ∧
  (∀ (s : State) (n : Nat) (m : Req) (k : Lock) (p : Probe), s.AnswersProbe n .rspNone m k p → exec (.rspNone n) s = .next (s.probeAnswered n m k p)) ∧
  (∀ (s : State) (l : Nat), s.cxl.linkUp = true →
      let m : Req := { op := .rspAck, src := some 0x7FFF, holder := 4096, dpa := 64 * l };
      let u : State := { s with mesh := s.mesh ++ [m] };
       exec (.hostSnoopResponse l .biRspS) s = .next (if u.answerTurn m then u.answered s.mesh.length m else u.poolAdmit s.mesh.length m)) ∧
  (∀ (s : State) (l : Nat), s.cxl.linkUp = true →
      let m : Req := { op := .rspNone, src := some 0x7FFF, holder := 4096, dpa := 64 * l };
      let u : State := { s with mesh := s.mesh ++ [m] };
       exec (.hostSnoopResponse l .biRspI) s = .next (if u.answerTurn m then u.answered s.mesh.length m else u.poolAdmit s.mesh.length m)) ∧
  (∀ (s : State) (l : Nat) (d : Bytes), s.cxl.linkUp = true →
      let m : Req := { op := .rspData, src := some 0x7FFF, holder := 4096, dpa := 64 * l, data := padTo 64 d };
      let u : State := { s with mesh := s.mesh ++ [m] };
       exec (.hostSnoopResponse l (.dirty d)) s = .next (if u.answerTurn m then u.answered s.mesh.length m else u.poolAdmit s.mesh.length m)) ∧
  (∀ (s : State) (l : Nat), s.cxl.linkUp = true → exec (.hostSnoopResponse l .biConflict) s = .next (s.emit (.conflictAck l))) ∧
  (∀ (s : State) (i n : Nat) (m : Req),
      let fits := fun (m : Req) => [MsgOp.rspData, .rspAck, .rspNone, .wb, .evict].contains m.op && homeTile (m.dpa / 64) == i && decide (s.answersHeld i (s.poolKey (m.dpa / 64)) < s.poolShare i (s.poolKey (m.dpa / 64)) 512);
       s.mesh.findIdx? fits = some n → s.mesh[n]? = some m →
      exec (.answerPoolAdmit i) s = .next ({ s.takeMesh n with answerWait := Tab.modify [] s.answerWait i (· ++ [m]) }))

/-- When its time has come: a minimum hold ends and the line is served; an unanswered recall expires; a wait for a sync word ends with the time-out
status; probes to agents open for 20 us are sent again, up to three times; a resend entry leaves 50 us after its answer was stored. (R170, R171,
R185, R287, R290) -/
def Obligations.HomeTimersTakeEffect : Prop :=
  (∀ (s : State) (l : Nat) (e : DirEnt), s.dirEnt l = some e → exec (.minHoldExpiry l) s = .next ((s.untilElapsed e.holdUntil).serve l)) ∧
  (∀ (s : State) (l : Nat) (k : Lock), s.lock l = some k → k.probes.any (fun p => !p.answered) = true →
      (k.deadline ≤ s.clk.timer ∨ s.boot.episode = none) → exec (.recallTimeout l) s = .next ((s.untilTimer k.deadline).recallExpired l)) ∧
  (∀ (s : State) (n : Nat) (w : SyncWait), s.syncWaits[n]? = some w → (w.deadline ≤ s.clk.timer ∨ s.boot.episode = none) →
      let u := s.untilTimer w.deadline;
      let v := State.modSlice { u with syncWaits := u.syncWaits.eraseIdx n } (homeTile (w.req.dpa / 64)) fun x => { x with syncTimeouts := satInc 32 x.syncTimeouts };
       exec (.syncWaitTimeout n) s = .next (v.endWait w (syncStatus false false (v.word w.req.dpa).flag true) (zeros 8))) ∧
  (∀ (s : State) (l : Nat) (k : Lock) (q : Probe) (qs : List Probe), s.lock l = some k →
      let still := k.probes.filter fun p => !p.answered && p.target != 0x7FFF && decide (p.resends < 3);
       still = q :: qs →
      let due := (q :: qs).foldl (fun t p => min t (p.sentAt + 20000)) (q.sentAt + 20000);
       (due ≤ s.clk.timer ∨ s.boot.episode = none) →
      let u := s.untilTimer due;
      exec (.probeResend l) s = .next ((still.filter fun p => decide (p.sentAt + 20000 ≤ u.clk.timer)).foldl (fun t p => (t.resendProbe l p).modLock l fun k => { k with probes := k.probes.map fun x => if x = p then { x with resends := x.resends + 1, sentAt := t.clk.timer } else x }) u)) ∧
  (∀ (s : State) (n : Nat) (e : ResendEnt), s.resends[n]? = some e → e.done.isSome = true →
      let u := s.untilElapsed (e.storedAt + 50000);
       exec (.resendEntryExpiry n) s = .next ({ u with resends := u.resends.eraseIdx n }))

/-- A write to a triple-placed line, a part of one or an accumulated line, is issued to the copies once all of them take it, and answers its request
or gives its reason; a read reads the copies once none of their stacks is banked, and the vote answers the request with the data or gives the
reason. (R376, R377) -/
def Obligations.TripleRowsTakeEffect : Prop :=
  (∀ (s : State) (n : Nat) (m : Req), s.tripWrites[n]? = some m →
      let l := m.dpa / 64;
      let u : State := { s with tripWrites := s.tripWrites.eraseIdx n };
      let acc := match u.readVote l (some m.holder) with | (t, .data d) => t.writeCopies l (accAdd d (padTo 64 m.data)) | (t, .bad r) => (t, some r);
      let r := match m.op with | .wrPart => u.homePartial l m.holder m.data (spanMask (m.dpa % 64) m.aux) | .accLine => acc | _ => u.writeCopies l m.data;
      exec (.tripletWriteIssue n) s = .next (if s.copiesOpen l m.holder then (if r.2 = none then r.1.headDone l (some []) none else r.1.headDone l none r.2) else s)) ∧
  (∀ (s : State) (n : Nat) (m : Req), s.tripReads[n]? = some m →
      let l := m.dpa / 64;
       (s.copies l).any (fun c => (s.chan (lineChan c.2)).banked) = false →
      let r := State.readVote { s with tripReads := s.tripReads.eraseIdx n } l (some m.holder);
       exec (.tripletReadVote n) s = .next (match r.2 with | .data d => r.1.headDone l (some d) none | .bad e => r.1.headDone l none (some e)))

/-- SCHEDULER_ISSUE takes the request that goes before all others, opens its row where its block is valid, and performs a write to a valid block,
begins the fill of a clear one, answers a refused line, or lets a read wait for its data; STOKE_LEVEL_CHANGE raises the levels that are due;
READ_DECODE delivers the line's data or its reason; BLOCK_FILL_DONE and PARTIAL_WRITE_ENTRY write and answer the request. (R65, R77, R79, R83) -/
def Obligations.ChannelSchedulerRowsTakeEffect : Prop :=
  (∀ (s : State) (g : Nat) (q : MemReq),
      let u := s.modChan g fun c => c.restoke s.clk.elapsed;
       u.banked g = false → u.nextIssue g = some q →
      let v := u.modChan g fun c => { c with waiting := c.waiting.erase q };
      let w := if v.blockValid q.line then v.modChan g (fun c => c.openRow q.line) else v;
      let write := fun (d : Bytes) => match w.refusedLine q.line with | some r => w.deliver q none (some r) | none => if w.blockValid q.line then State.written (w.lineWrite q.line d) q else w.modChan g fun c => { c with filling := c.filling ++ [q] };
      exec (.schedulerIssue g) s = .next (match q.dest, q.write with | .ember _, _ | .scrub _ _, _ | .copy _, _ => w.modChan g fun c => { c with granted := c.granted ++ [q] } | _, some d => write d | _, none => w.modChan g fun c => { c with reads := c.reads ++ [q] })) ∧
  (∀ (s : State) (g n : Nat) (q : MemReq), ((s.chan g).waiting ++ (s.chan g).partials)[n]? = some q → q.level < 3 →
      let t := (s.chan g).target q.port;
      let next := if q.level = 0 then (t + 1) / 2 else if q.level = 1 then (3 * t + 3) / 4 else t;
      let u := s.untilElapsed (q.entered + next);
       exec (.stokeLevelChange g n) s = .next (u.modChan g fun c => c.restoke u.clk.elapsed)) ∧
  (∀ (s : State) (g : Nat) (noise : List (Nat × Byte)) (q : MemReq) (l : List MemReq), (s.chan g).reads = q :: l →
      let r := (s.modChan g fun c => { c with reads := l }).readLine q.line (some q.ctx) noise;
       exec (.readDecode g noise) s = .next (match r.2 with | .data d => r.1.deliver q (some d) none | .bad x => r.1.deliver q none (some x))) ∧
  (∀ (s : State) (g : Nat) (q : MemReq) (l : List MemReq), (s.chan g).filling = q :: l →
      let r := (s.modChan g fun c => { c with filling := l }).lineWrite q.line (q.write.getD []);
       exec (.blockFillDone g) s = .next ((if r.2 = none then r.1.deliver q (some []) none else r.1.deliver q none r.2).serveChan g)) ∧
  (∀ (s : State) (g : Nat) (q : MemReq),
      let u := s.modChan g fun c => c.restoke s.clk.elapsed;
       u.banked g = false → (u.chan g).guard = false → u.nextPartial g = some q →
      let r := (u.modChan g fun c => { c with partials := c.partials.erase q }).linePartial q.line q.ctx (q.write.getD []) q.mask;
       exec (.partialWriteEntry g) s = .next (if r.2 = none then r.1.deliver q (some []) none else r.1.deliver q none r.2))

/-- A merge entry 2 us old leaves with its row; a finished read-modify-write flushes its entry; both copies of a bitmap line are read, checked and
cached; the edge guard begins 200 ns before the usable share of the slot ends; a refresh falls due every 3.906 us, and at once in a supply
episode; calibrations fall due by their period, a retraining also by the die's temperature; a stack changes its operating point in 4 us at the
start of a stack maintenance slot; a controller fault fences the channel. (R66, R67, R70, R73, R80, R81, R85, R96) -/
def Obligations.ChannelUpkeepRowsTakeEffect : Prop :=
  (∀ (s : State) (g l : Nat) (e : MergeEnt), (s.chan g).merge.find? (fun x => x.line == l) = some e → s.banked g = false →
      let u := s.untilElapsed (e.entered + 2000);
      let row := (u.chan g).merge.filter fun x => x.line == l || sameRow x.line l;
      exec (.mergeEntryAgeOut g l) s = .next (row.foldl (fun t x => if t.needsRead x then t.modChan g fun c => { c with rmw := c.rmw ++ [x] } else (t.flushEntry x []).1) (u.modChan g fun c => { c with merge := c.merge.filter fun x => !row.contains x }))) ∧
  (∀ (s : State) (g : Nat) (e : MergeEnt) (l : List MergeEnt), (s.chan g).rmw = e :: l →
      exec (.mergeRmwComplete g) s = .next (((s.modChan g fun c => { c with rmw := l }).flushEntry e []).1)) ∧
  (∀ (s : State) (g i : Nat) (a b : List (Nat × Byte)),
      let c := s.chan g;
       c.bmCache.any (fun x => x.idx == i) = false → c.poisoned.contains i = false → c.state ≠ .fenced → c.state ≠ .retired → c.banked = false →
      let r := s.bitmapCheck g i false a b;
       exec (.bitmapLineFetch g i a b) s = .next (if r.2 then r.1.bitmapCache g i false else r.1.settleCords)) ∧
  (∀ (s : State) (g : Nat), s.guardedEdge (chanTile g) resChannel = true →
      exec (.channelEdgeGuard g) s = .next (((s.untilNt (s.shareEnd (chanTile g) - 200)).modChan g fun c => { c with guard := true }).emptyChan g)) ∧
  (∀ (s : State) (g : Nat), (s.chan g).refreshed = true →
      let u := (s.untilElapsed (s.chan g).debtNext).modChan g fun c => { c with refDebt := c.refDebt + 1, debtNext := c.debtNext + 3906 };
      exec (.refreshDebtTick g) s = .next (if u.held then u.modChan g (fun c => { c with refDebt := min c.refDebt 0 }) else if 480 ≤ (u.chan g).refDebt then u.refEmergency g else u)) ∧
  (∀ (s : State) (g : Nat), (s.chan g).trained = true → (s.chan g).zqDue = false →
      exec (.calibrationDue g .zq) s = .next ((s.untilElapsed ((s.chan g).zqLast + 64000000)).modChan g fun c => { c with zqDue := true, zqDueAt := c.zqLast + 64000000 })) ∧
  (∀ (s : State) (g : Nat), (s.chan g).trained = true → (s.chan g).rtDue = false →
      exec (.calibrationDue g .retrain) s = .next (if s.dieMoved g then s.modChan g (fun c => { c with rtDue := true, rtDueAt := s.clk.elapsed }) else (s.untilElapsed ((s.chan g).rtLast + 256000000)).modChan g fun c => { c with rtDue := true, rtDueAt := c.rtLast + 256000000 })) ∧
  (∀ (s : State) (k : Nat), (stackChans k).findSome? (fun g => (s.chan g).changing) = none → s.changeDue k = true → s.changeStarts k = true →
      let want := s.wantPoint k;
      let u := (stackChans k).foldl (fun t g => t.drainChan g) s;
      exec (.frequencyChange k) s = .next ((stackChans k).foldl (fun t g => t.modChan g fun c => { c with banked := true, changing := some (u.clk.elapsed + 4000), shadowPoint := want }) u)) ∧
  (∀ (s : State) (k t0 : Nat), (stackChans k).findSome? (fun g => (s.chan g).changing) = some t0 →
      let u := s.untilElapsed t0;
      let off := (u.boot.episode.map fun (e : Episode) => e.banked).getD false;
      let step := fun (t : State) (g : Nat) => let v := t.modChan g fun c => ({ c with banked := off, changing := none, activePoint := c.shadowPoint, shadowPoint := c.activePoint, debtNext := c.debtNext + 4000 } : Chan).marginPast c.shadowPoint; (v.maintain g (8 * (v.slot (chanTile g)).len - 4000)).serveChan g;
       exec (.frequencyChange k) s = .next ((stackChans k).foldl step u)) ∧
  (∀ (s : State) (k : Nat), (stackChans k).findSome? (fun g => (s.chan g).changing) = none → s.changeDue k = false →
      exec (.frequencyChange k) s = .next ((stackChans k).foldl (fun t g => t.modChan g fun c => c.marginPast c.activePoint) s)) ∧
  (∀ (s : State) (g : Nat), (s.chan g).state ≠ .retired → (s.chan g).state ≠ .fenced →
      exec (.controllerFault g) s = .next ((s.fenceChan g 2).settleCords))

/-- A parity error is an error of the run; a run that has met an error, or is cancelled at a boundary, ends once its requests have completed and its
record can be written; END ends a run whose requests have completed; a quantum that runs out is a boundary; the edge guard begins 2,048 Ember
cycles before the end of the usable share of a guarded slot; a fault fences an Ember in service, and its runs meet the error FENCED. (R214, R217,
R219, R222, R226) -/
def Obligations.EmberEventRowsTakeEffect : Prop :=
  (∀ (s : State) (t : Nat) (parity : Bool) (r : Run), t < 256 →
      let u := if parity && ((s.ember t).run.map Run.live).getD false then s.parityError t else s;
       ((u.ember t).run.toList ++ (u.ember t).queue).find? (fun r => ((u.ember t).ending r).isSome) = some r →
      let w := u.recordReady r;
       exec (.emberError t parity) s = .next (if u.openOf t r ≠ [] then u else if w.2 then w.1.finishRun t r ((w.1.ember t).ending r) else w.1)) ∧
  (∀ (s : State) (t : Nat) (r : Run) (d : Bytes), s.AtDesc t 0x1F r d →
      let u := s.boundary t;
       exec (.endPlan t) s = .next (if u.openOf t r = [] then (u.descDone t r.pc).finishRun t r none else u)) ∧
  (∀ (s : State) (t : Nat), t < 256 → (s.ember t).run.isSome = true → s.waitingRuns t ≠ [] →
      exec (.emberQuantumExpiry t) s = .next ((s.untilElapsed ((s.ember t).since + 1000 * (s.ember t).quantum)).boundary t)) ∧
  (∀ (s : State) (t : Nat), t < 256 → s.guardedEdge t resEmber = true →
      exec (.emberEdgeGuard t) s = .next ((s.untilNt (s.shareEnd t - s.edgeGuardNs)).edgeGuard t)) ∧
  (∀ (s : State) (t : Nat), t < 256 → (s.ember t).inService = true →
      exec (.emberFaultFence t) s = .next (((s.runError t { cls := 0xA }).putBack t true).modEmber t fun m => { m with state := .fenced, queue := m.queue.map fun (r : Run) => if r.err.isSome then r else { r with err := some { cls := 0xA } } }))

/-- WAIT goes on when its read finds the word full, stays where the word is empty, and waits at the home or for another device; its limit ends it with
WAIT_LIMIT; SIGNAL goes on once its sync operation is done or sent; REPEAT goes back while loops are left; a completion closes the request it
answers and goes to its Ember. (R202, R203, R204, R222) -/
def Obligations.EmberSyncRowsTakeEffect : Prop :=
  (∀ (s : State) (t : Nat) (r : Run) (d : Bytes), s.AtDesc t 0x10 r d →
      let u := s.boundary t;
      let w := u.modRun t fun r => { r with waitSince := some (r.waitSince.getD u.clk.timer) };
      let p := w.emberSync t r (dSync d) (if dMode d 0 then .readDrain else .readFull) [] 1;
      exec (.wait t) s = .next (if u.waitOver r d then u.runError t { cls := 7 } else match p.2 with | .err e => p.1.runError t e | .later => p.1 | .ok (.done st) => if bit st 0 then p.1.descDone t (r.pc + 1) else p.1 | .ok .waits => p.1.modEmber t fun e => { e with state := .waiting } | .ok (.sent n) => p.1.modEmber t fun e => { e with state := .waiting, run := e.run.map fun (r : Run) => { r with remote := some (0, n) } })) ∧
  (∀ (s : State) (t : Nat) (r : Run) (n t0 : Nat), (s.ember t).run = some r → dKind (s.descOf r) = 0x10 → waitLimit (s.descOf r) = some n →
      r.waitSince = some t0 → r.live = true → r.fault = none → (t0 + n ≤ s.clk.timer ∨ s.boot.episode = none) →
      let u := s.untilTimer (t0 + n);
      exec (.waitLimitExpiry t) s = .next (((u.dropWait t).modEmber t fun e => { e with state := if e.state == .waiting then .running else e.state }).runError t { cls := 7 })) ∧
  (∀ (s : State) (t : Nat) (r : Run) (d : Bytes), s.AtDesc t 0x11 r d →
      let u := s.boundary t;
      let p := if dMode d 0 then u.emberSync t r (dSync d) .addSat (natLE 4 (dParam d) ++ natLE 4 (dDim2 d)) (b2n (dMode d 1)) else u.emberSync t r (dSync d) .writeFill ((d.drop 48).take 8) 0;
      exec (.signal t) s = .next (if u.writesDone t r then (match p.2 with | .err e => p.1.runError t e | .later => p.1 | .ok _ => p.1.descDone t (r.pc + 1)) else u)) ∧
  (∀ (s : State) (t : Nat) (r : Run) (d : Bytes), s.AtDesc t 0x12 r d →
      let u := s.boundary t;
      exec (.repeatRange t) s = .next (if r.loops < dDim1 d then (u.descDone t (r.pc - dDim0 d)).modRun t fun r => { r with loops := r.loops + 1 } else (u.descDone t (r.pc + 1)).modRun t fun r => { r with loops := 0 })) ∧
  (∀ (s : State) (n : Nat) (p : Packet) (q : OpenReq), s.inbox[n]? = some p →
      s.openReqs.find? (fun q => q.pkt.txn == p.txn && (q.pkt.dst == p.src || p.src == s.routing.localIdx)) = some q →
      (q.tile.isSome = true ∨ p.opcode ≠ msgCode .err) →
      let u : State := { s with inbox := s.inbox.eraseIdx n, openReqs := s.openReqs.erase q };
       exec (.requestCompletion n) s = .next (match q.tile with | some t => u.emberCompletion t q p | none => u.replyEnds p.txn))

/-- GEMV_STREAM, ATTN_DECODE, SOFTMAX_MERGE, REDUCE_ADD, GATHER, SCATTER_ACC, CONVERT and TOPK: where a run stands at a descriptor of the kind, its
operation runs on the Ember: once it has gone through the run stands at the next descriptor; an error becomes that of the run; an access that
cannot be made yet leaves the run there with what it has done. (R250, R253, R255, R256, R257, R258, R259, R260) -/
def Obligations.OperationRowsTakeEffect : Prop :=
  (∀ (s : State) (t : Nat) (r : Run) (d : Bytes), s.AtDesc t 0x01 r d →
      let p := (gemvKernel d r : KM Unit) { s := s.boundary t, tile := t, run := r, desc := d, got := r.got };
      exec (.gemvStream t) s = .next (match p.2 with | .ok _ => p.1.s.descDone t (r.pc + 1) | .error (.err e) => p.1.s.runError t e | .error .later => p.1.s.modRun t fun r => { r with got := p.1.got, progR := max r.progR p.1.i, progW := max r.progW p.1.w, progB := max r.progB p.1.b, progE := max r.progE p.1.e })) ∧
  (∀ (s : State) (t : Nat) (r : Run) (d : Bytes), s.AtDesc t 0x02 r d →
      let p := (attnKernel d r : KM Unit) { s := s.boundary t, tile := t, run := r, desc := d, got := r.got };
      exec (.attnDecode t) s = .next (match p.2 with | .ok _ => p.1.s.descDone t (r.pc + 1) | .error (.err e) => p.1.s.runError t e | .error .later => p.1.s.modRun t fun r => { r with got := p.1.got, progR := max r.progR p.1.i, progW := max r.progW p.1.w, progB := max r.progB p.1.b, progE := max r.progE p.1.e })) ∧
  (∀ (s : State) (t : Nat) (r : Run) (d : Bytes), s.AtDesc t 0x03 r d →
      let p := (mergeKernel d r : KM Unit) { s := s.boundary t, tile := t, run := r, desc := d, got := r.got };
      exec (.softmaxMerge t) s = .next (match p.2 with | .ok _ => p.1.s.descDone t (r.pc + 1) | .error (.err e) => p.1.s.runError t e | .error .later => p.1.s.modRun t fun r => { r with got := p.1.got, progR := max r.progR p.1.i, progW := max r.progW p.1.w, progB := max r.progB p.1.b, progE := max r.progE p.1.e })) ∧
  (∀ (s : State) (t : Nat) (r : Run) (d : Bytes), s.AtDesc t 0x04 r d →
      let p := ((KM.accRow d (KM.plain (dAddrA d r.rank)) 0 (dDim0 d) (dAddrOut d r.rank)).bind fun _ => KM.counter d : KM Unit) { s := s.boundary t, tile := t, run := r, desc := d, got := r.got };
      exec (.reduceAdd t) s = .next (match p.2 with | .ok _ => p.1.s.descDone t (r.pc + 1) | .error (.err e) => p.1.s.runError t e | .error .later => p.1.s.modRun t fun r => { r with got := p.1.got, progR := max r.progR p.1.i, progW := max r.progW p.1.w, progB := max r.progB p.1.b, progE := max r.progE p.1.e })) ∧
  (∀ (s : State) (t : Nat) (r : Run) (d : Bytes), s.AtDesc t 0x05 r d →
      let p := (gatherKernel d r : KM Unit) { s := s.boundary t, tile := t, run := r, desc := d, got := r.got };
      exec (.gather t) s = .next (match p.2 with | .ok _ => p.1.s.descDone t (r.pc + 1) | .error (.err e) => p.1.s.runError t e | .error .later => p.1.s.modRun t fun r => { r with got := p.1.got, progR := max r.progR p.1.i, progW := max r.progW p.1.w, progB := max r.progB p.1.b, progE := max r.progE p.1.e })) ∧
  (∀ (s : State) (t : Nat) (r : Run) (d : Bytes), s.AtDesc t 0x06 r d →
      let p := (scatterKernel d r : KM Unit) { s := s.boundary t, tile := t, run := r, desc := d, got := r.got };
      exec (.scatterAcc t) s = .next (match p.2 with | .ok _ => p.1.s.descDone t (r.pc + 1) | .error (.err e) => p.1.s.runError t e | .error .later => p.1.s.modRun t fun r => { r with got := p.1.got, progR := max r.progR p.1.i, progW := max r.progW p.1.w, progB := max r.progB p.1.b, progE := max r.progE p.1.e })) ∧
  (∀ (s : State) (t : Nat) (r : Run) (d : Bytes), s.AtDesc t 0x07 r d →
      let p := (convertKernel d r : KM Unit) { s := s.boundary t, tile := t, run := r, desc := d, got := r.got };
      exec (.convert t) s = .next (match p.2 with | .ok _ => p.1.s.descDone t (r.pc + 1) | .error (.err e) => p.1.s.runError t e | .error .later => p.1.s.modRun t fun r => { r with got := p.1.got, progR := max r.progR p.1.i, progW := max r.progW p.1.w, progB := max r.progB p.1.b, progE := max r.progE p.1.e })) ∧
  (∀ (s : State) (t : Nat) (r : Run) (d : Bytes), s.AtDesc t 0x08 r d →
      let p := (topKernel d r : KM Unit) { s := s.boundary t, tile := t, run := r, desc := d, got := r.got };
      exec (.topk t) s = .next (match p.2 with | .ok _ => p.1.s.descDone t (r.pc + 1) | .error (.err e) => p.1.s.runError t e | .error .later => p.1.s.modRun t fun r => { r with got := p.1.got, progR := max r.progR p.1.i, progW := max r.progW p.1.w, progB := max r.progB p.1.b, progE := max r.progE p.1.e }))

/-- A usable port in `down` goes to `detect` at its retry time, to `train` on a signal found in time, sending training cells, to `check` with the
speed, width and lanes that both ends allow, and on through the error-rate test to `active`, or else back `down`; a reset or retrain that the
partner announces follows; too many corrected symbols start a retrain; silence and a retrain that lasts too long take the link down. (R267, R268,
R270, R281, R420) -/
def Obligations.LinkStatesTakeEffect : Prop :=
  (∀ (s : State) (p : Nat), p < 32 → (s.port p).state = .down → s.portUsable p = true →
      let u := s.untilElapsed (s.port p).retryAt;
       exec (.detectRetry p) s = .next (u.modPort p fun q => { q with state := .detect, enteredAt := u.clk.elapsed })) ∧
  (∀ (s : State) (p : Nat) (lanes : List Nat), p < 32 → (s.port p).state = .detect → lanes ≠ [] → s.clk.elapsed ≤ (s.port p).enteredAt + 1000000 →
      exec (.linkSignalDetect p lanes) s = .next ((s.modPort p fun q => { q with state := .train, enteredAt := s.clk.elapsed, partnerSeen := false, rxLanes := lanes }).sendTrain p 1)) ∧
  (∀ (s : State) (p : Nat), p < 32 → (s.port p).state = .detect →
      exec (.linkSignalDetect p []) s = .next ((s.untilElapsed ((s.port p).enteredAt + 1000000)).portDown p 10000000)) ∧
  (∀ (s : State) (p : Nat) (purpose : Nat) (partner : TrainInfo), p < 32 → (s.port p).state = .train →
      exec (.train p purpose partner) s = .next (s.modPort p fun q => { q with partner := partner, partnerSeen := true })) ∧
  (∀ (s : State) (p : Nat) (partner : TrainInfo), p < 32 → (s.port p).state.takes = true →
      exec (.train p 1 partner) s = .next ((s.heard p).fullReset p)) ∧
  (∀ (s : State) (p : Nat) (partner : TrainInfo), p < 32 → (s.port p).state = .active →
      exec (.train p 2 partner) s = .next ((s.heard p).startRetrain p)) ∧
  (∀ (s : State) (p : Nat) (received : List Nat) (x : TrainInfo), p < 32 → (s.port p).state = .train →
      let u := s.modPort p fun q => { q with rxLanes := received };
      let q := u.port p;
      let lanes := lanesInOrder ((u.goodLanes p).filter x.lanes.contains);
      let w := min (min (min q.maxWidth q.narrow) x.width) (widthOf lanes.length);
      let speed := max q.maxSpeed (max 1 x.speed);
      exec (.trainingEnd p received (some x)) s = .next (if (s.port p).enteredAt + 25000000 < s.clk.elapsed then s.portDown p 0 else if w = 0 ∨ 3 < speed then u.portDown p 0 else ((u.modPort p fun q => { q with state := .check, enteredAt := u.clk.elapsed, speed := speed, width := w, laneMap := lanes.take (widthLanes w), partner := x, partnerSeen := true, txSeq := 0, rxNext := 0, credits := [0, 0, 0] }).advertise p).topologyCheck p)) ∧
  (∀ (s : State) (p : Nat) (received : List Nat), p < 32 → (s.port p).state = .train →
      exec (.trainingEnd p received none) s = .next ((s.untilElapsed ((s.port p).enteredAt + 25000000)).portDown p 0)) ∧
  (∀ (s : State) (p : Nat) (lanes : List LaneResult), p < 32 → (s.port p).state = .check → (s.port p).mgmt = false →
      let u := s.untilElapsed ((s.port p).enteredAt + 10000000);
      let l := lanes.filter fun x => (s.port p).laneMap.contains x.lane;
      let w := u.countFec p (l.map fun x => x.corrected).sum (l.map fun x => x.uncorrectable).sum;
      let f := w.modPort p fun q => { q with ertFails := q.ertFails + 1 };
      exec (.errorRateTestEnd p lanes) s = .next (if l.all lanePasses then (w.modPort p fun q => { q with ertFails := 0 }).portUp p else (if 3 ≤ (f.port p).ertFails then f.dropWorst p l else f).portDown p 0)) ∧
  (∀ (s : State) (p : Nat) (lane corrected : Nat), p < 32 → (s.port p).state = .active → (s.port p).laneMap.contains lane = true →
      (s.port p).retrainThresh ≠ 0 → (s.port p).retrainThresh < corrected →
      exec (.retrainThreshold p lane corrected) s = .next ((s.countFec p corrected 0).startRetrain p)) ∧
  (∀ (s : State) (p : Nat), p < 32 → (s.port p).state = .retrain → s.clk.elapsed ≤ (s.port p).enteredAt + 1000000 →
      exec (.retrainEnd p) s = .next (s.portUp p)) ∧
  (∀ (s : State) (p : Nat), p < 32 → (s.port p).state = .retrain →
      exec (.retrainTimeout p) s = .next ((s.untilElapsed ((s.port p).enteredAt + 1000000)).linkDown p)) ∧
  (∀ (s : State) (p : Nat), p < 32 → (s.port p).state.takes = true →
      exec (.linkSilenceTimeout p) s = .next ((s.untilElapsed ((s.port p).lastCellAt + 10000)).linkDown p))

/-- A sequenced cell is taken by the link, unless an armed fault meets it; a cell whose CRC fails is counted and left; an ack acts on the replay
buffer; a due ack is sent; an unacknowledged cell is sent again after 2 us, in `hold` a PENDING only; credit moves waiting packets; received hold
and idle cells keep the link alive, and a quiet port sends one after 1 us. (R271, R273, R274, R275, R278, R279, R280) -/
def Obligations.CellRowsTakeEffect : Prop :=
  (∀ (s : State) (p : Nat) (cell : Cell), p < 32 → ((s.port p).state = .active ∨ (s.port p).state = .hold) →
      let q := s.port p;
      let u := (s.modPort p fun q => { q with injArm := false }).injected 0x0C p;
      exec (.sequencedCell p cell) s = .next (if q.injArm && q.injKind == 1 && q.usesLane q.injLane && !s.ctxConf cell.pkt.ctx then (if 16 ≤ q.injSymbols then (u.countFec p 0 1).crcFail p else (u.countFec p q.injSymbols 0).cellIn p cell) else if s.diag.injArm && s.diag.injKind == 11 && s.diag.injUnit == p && !s.ctxConf cell.pkt.ctx then State.injected { s with diag := { s.diag with injArm := false } } 0x2A p else s.cellIn p cell)) ∧
  (∀ (s : State) (p : Nat) (raw : Bytes), p < 32 → ((s.port p).state.takes = true ∨ (s.port p).state = .check) → linkCrcHolds raw = false →
      exec (.cellCrcFail p raw) s = .next (s.modPort p fun q => { q with crcErrors := satInc 32 q.crcErrors, crcSinceReset := q.crcSinceReset + 1 })) ∧
  (∀ (s : State) (p : Nat) (cum bitmap : Nat), p < 32 → ((s.port p).state = .active ∨ (s.port p).state = .hold) →
      exec (.ack p cum bitmap) s = .next ((s.heard p).acked p (cum % 4096) bitmap)) ∧
  (∀ (s : State) (p : Nat), p < 32 → (s.port p).ackDue = true → ((s.port p).state = .active ∨ (s.port p).state = .hold) →
      let a := (s.port p).ackOf;
      exec (.ackSend p) s = .next ((s.modPort p fun q => { q with ackDue := false }).sendControl p 1 (zeros 1 ++ natLE 2 (a.1 + 4096) ++ natLE 8 a.2))) ∧
  (∀ (s : State) (p : Nat) (seq : Nat) (x : SentCell), p < 32 →
      ((s.port p).state = .active ∨ ((s.port p).state = .hold ∧ x.cell.pkt.opcode = msgCode .pending)) →
      (s.port p).replay.find? (fun y => y.cell.seq == seq) = some x → (x.sentAt + 2000 ≤ s.clk.timer ∨ s.boot.episode = none) →
      exec (.replayTimer p seq) s = .next ((s.untilTimer (x.sentAt + 2000)).resendCell p seq false)) ∧
  (∀ (s : State) (p : Nat) (vc units : Nat), p < 32 → ((s.port p).state = .active ∨ (s.port p).state = .hold ∨ (s.port p).state = .check) →
      exec (.credit p vc units) s = .next (((s.heard p).credit p vc units).pump p)) ∧
  (∀ (s : State) (p : Nat) (cause : Nat), p < 32 → (s.port p).state.takes = true → (cause = 1 ∨ cause = 2) →
      exec (.hold p cause) s = .next (s.heard p)) ∧
  (∀ (s : State) (p : Nat), p < 32 → (s.port p).state = .active →
      exec (.idle p false) s = .next ((s.untilElapsed ((s.port p).lastSentAt + 1000)).sendControl p 6 [])) ∧
  (∀ (s : State) (p : Nat), p < 32 → (s.port p).state = .hold →
      let u := s.untilElapsed ((s.port p).lastSentAt + 1000);
       exec (.idle p false) s = .next (u.sendControl p 3 (natLE 1 (s.port p).holdCause))) ∧
  (∀ (s : State) (p : Nat), p < 32 → (s.port p).state.takes = true → exec (.idle p true) s = .next (s.heard p))

/-- The oldest received packet goes to this device, out by the way its route epoch gives, or is discarded and counted; a delivered packet whose check
and kind are right is unsealed and passed on, any other discarded; PENDING restarts a request’s timer, a waiting message sends it, an unanswered
request is sent again after 20 us, three times, and then lost; a flit leaves an output that its router has in a slot of its owner, or fails its
parity and is logged once a millisecond. (R285, R287, R288, R291, R515) -/
def Obligations.PacketRowsTakeEffect : Prop :=
  (∀ (s : State) (p : Nat) (k : Packet) (rest : List Packet), p < 32 → (s.port p).rxQ = k :: rest →
      let u := s.modPort p fun q => { q with rxQ := rest };
       u.way (b2n k.routeEpoch) k.dst k.ctx = .here → exec (.packetRoute p) s = .next (u.modPort p fun q => { q with deliverQ := q.deliverQ ++ [k] })) ∧
  (∀ (s : State) (p : Nat) (k : Packet) (rest : List Packet) (q : Nat), p < 32 → (s.port p).rxQ = k :: rest →
      let u := s.modPort p fun q => { q with rxQ := rest };
       u.way (b2n k.routeEpoch) k.dst k.ctx = .out q →
      exec (.packetRoute p) s = .next (if k.hops < 15 then (u.freed p k).transit p q { k with hops := k.hops + 1 } else (u.routeDiscard p).freed p k)) ∧
  (∀ (s : State) (p : Nat) (k : Packet) (rest : List Packet), p < 32 → (s.port p).rxQ = k :: rest →
      let u := s.modPort p fun q => { q with rxQ := rest };
       (u.way (b2n k.routeEpoch) k.dst k.ctx = .noRoute ∨ ∃ q, u.way (b2n k.routeEpoch) k.dst k.ctx = .down q) →
      exec (.packetRoute p) s = .next ((u.routeDiscard p).freed p k)) ∧
  (∀ (s : State) (p : Nat) (k : Packet) (rest : List Packet), p < 32 → (s.port p).deliverQ = k :: rest →
      let u := (s.modPort p fun q => { q with deliverQ := rest }).freed p k;
      let w := u.unsealed p k;
      exec (.packetDeliver p) s = .next (if packetCheck k ≠ k.check then u.e2eDiscard p else match msgOf k.opcode with | none => u.e2eDiscard p | some op => match w.2 with | some k2 => w.1.passOn p op k2 | none => w.1)) ∧
  (∀ (s : State) (n : Nat) (k : Packet), s.inbox[n]? = some k → k.opcode = msgCode .pending →
      exec (.pending n) s = .next ({ s with inbox := s.inbox.eraseIdx n, openReqs := s.openReqs.map fun (q : OpenReq) => if q.pkt.txn = k.txn ∧ q.pkt.dst = k.src then { q with lastHeard := s.clk.timer, resends := 0 } else q })) ∧
  (∀ (s : State) (n : Nat) (m : Req), s.openStamps[n]? = some m → m.fromFabric = true →
      let u := s.untilElapsed (m.lastPending + 15000);
      let w : State := { u with openStamps := u.openStamps.set n { m with lastPending := u.clk.elapsed } };
      exec (.pendingTimer n) s = .next ((w.source { opcode := msgCode .pending, dst := m.src.getD 0, ctx := m.holder, txn := m.txn, addr := m.addr }).1)) ∧
  (∀ (s : State) (n : Nat) (q : OpenReq), s.openReqs[n]? = some q → s.answeredReq q = false →
      (q.lastHeard + 20000 ≤ s.clk.timer ∨ s.boot.episode = none) →
      let u := s.untilTimer (q.lastHeard + 20000);
      let w : State := { u with openReqs := u.openReqs.set n { q with lastHeard := u.clk.timer, resends := q.resends + 1 } };
      exec (.requestResendTimer n) s = .next (let x := w.source { q.pkt with resend := true }; if 3 ≤ q.resends then u.requestLost q 0xC else match x.2 with | none => x.1 | some r => x.1.requestLost q r)) ∧
  (∀ (s : State) (tile output ctx : Nat) (bad : Bool), tile < 256 → hasOutput tile output = true → s.serves tile (2 + output) ctx = true →
      let inj := s.diag.injArm && s.diag.injKind == 1 && s.diag.injUnit == tile && bits s.diag.injParam 0 3 == output && !s.ctxConf ctx;
      let u := if inj then State.injected { s with diag := { s.diag with injArm := false } } 0x20 tile else s;
      exec (.meshFlit tile output ctx bad) s = .next (if bad || inj then (if firstInMs u.clk.nt u.diag.meshLogged then State.log { u with diag := { u.diag with meshLogged := some (u.clk.nt / 1000000) } } 0x0505 none none (natLE 1 tile ++ natLE 1 output) else u) else match u.flitFor tile output ctx with | some i => u.hop i output | none => u))

/-- A reader that may write: FAB_CTRL resets, retrains or disables the port; the injection registers of a port, a channel and an Ember take the value;
XLAT_FQ_MARK moves the fault queue’s mark. (R101, R157, R231, R267, R269, R270, R302) -/
def Obligations.PortRegisterRowsTakeEffect : Prop :=
  (∀ (s : State) (rd : Reader) (p : Nat), p < 32 → s.mayWrite rd false = true →
      exec (.fabCtrlReset rd p) s = .next (if (s.port p).resetting then s else s.fullReset p)) ∧
  (∀ (s : State) (rd : Reader) (p : Nat), p < 32 → s.mayWrite rd false = true → exec (.fabCtrlRetrain rd p) s = .next (s.startRetrain p)) ∧
  (∀ (s : State) (rd : Reader) (p : Nat) (on : Bool), p < 32 → s.mayWrite rd false = true →
      exec (.fabCtrlDisable rd p on) s = .next (s.setDisable p on)) ∧
  (∀ (s : State) (rd : Reader) (p : Nat) (v : Reg), p < 32 → s.mayWrite rd false = true → exec (.fabInjCtrl rd p v) s = .next (s.fabInj p v.toNat)) ∧
  (∀ (s : State) (rd : Reader) (g : Nat) (v : Reg), g < 512 → s.mayWrite rd false = true → s.hearthLost (chanHearth g) = false →
      exec (.memInjCtrl rd g v) s = .next (s.memInj g v.toNat)) ∧
  (∀ (s : State) (rd : Reader) (tile : Nat) (v : Reg), tile < 256 → s.mayWrite rd false = true → s.hearthLost (tileHearth tile) = false →
      exec (.embInjCtrl rd tile v) s = .next (s.embInj tile v.toNat)) ∧
  (∀ (s : State) (rd : Reader) (h : Nat) (v : Reg), h < 4 → s.mayWrite rd false = true → s.hearthLost h = false →
      exec (.xlatFqMark rd h v) s = .next (s.markSlot h (bits v.toNat 0 10)))

/-- A time cell is sent at most every 8 us with this device’s times and kept for the answer; a received one is kept, and one of the parent, which ends
an exchange when it echoes this device’s last, is acted on; a silent parent is replaced by a backup that is locked and heard, or time goes to
holdover; holdover ends after 8 ms. (R305, R307) -/
def Obligations.TimeRowsTakeEffect : Prop :=
  (∀ (s : State) (p : Nat), p < 32 → (s.port p).state = .active →
      let u := match (s.port p).timeSentAt with | some t => s.untilElapsed (t + 8000) | none => s;
      let q := u.port p;
      let w := u.modPort p fun q => { q with timeT1 := q.timeTx, timeT1Frac := q.timeTxFrac, timeT2 := q.timeRx, timeT2Frac := q.timeRxFrac, timeT3 := u.clk.nt, timeT3Frac := u.clk.frac, timeSentSeq := q.timeSeq, timeSeq := (q.timeSeq + 1) % 16, timeSentAt := some u.clk.elapsed };
      exec (.timeCellSend p) s = .next (w.sendControl p 4 (natLE 1 (q.timeSeq + 16 * q.timeEcho) ++ natLE 8 u.clk.nt ++ natLE 2 u.clk.frac ++ natLE 8 q.timeRx ++ natLE 2 q.timeRxFrac ++ natLE 1 (b2n (u.net.state == 1 || u.net.grandmaster)) ++ natLE 1 u.net.distance))) ∧
  (∀ (s : State) (p : Nat) (body : TimeBody), p < 32 → (s.port p).state = .active →
      let u := (s.untilNt body.arrival).heard p;
      let e := (u.port p).timeSentAt.isSome && body.echo == (u.port p).timeSentSeq;
      let w := if u.timeImage.installed && !u.net.grandmaster && u.net.parent == p then u.parentCell p e body else if u.timeImage.installed && u.timeImage.backup == p then { u with net := { u.net with backupLocked := body.locked, lastBackupCell := u.clk.elapsed } } else u;
      exec (.time p body) s = .next (w.modPort p fun q => { q with timeEcho := body.seq % 16, timeTx := body.tTx, timeTxFrac := body.tTxFrac, timeRx := body.arrival, timeRxFrac := body.arrivalFrac })) ∧
  (∀ (s : State), s.timeImage.installed = true → s.net.grandmaster = false → s.net.state = 1 →
      let u := s.untilElapsed (s.net.lastParentCell + 64000);
      let b := s.timeImage.backup;
      exec (.parentSilenceTimeout) s = .next (if b < 32 ∧ b ≠ u.net.parent ∧ u.net.backupLocked = true ∧ u.clk.elapsed ≤ u.net.lastBackupCell + 64000 then { u with net := { u.net with parent := b, lastParentCell := u.net.lastBackupCell } } else State.timeState { u with net := { u.net with goodExchanges := 0 } } 2 15)) ∧
  (∀ (s : State), s.net.state = 2 → exec (.holdoverExpiry) s = .next ((s.untilElapsed (s.net.holdoverSince + 8000000)).timeState 0 15))

/-- A list goes to its next slot at its edge, and the cycle begins with the first; the guard of a port begins before a guarded edge; the usable share
ends in a throttled slot; a pending switch of routes or gates takes effect at its time and its command ends; a cause of throttling begins an
event; at each 10 ms of network time a cause present all that time deepens the level and one absent all that time ends the event. (R295, R309,
R319, R326, R327) -/
def Obligations.GateRowsTakeEffect : Prop :=
  (∀ (s : State) (list : Nat), list < 289 → s.held = false → s.switchesAtEdge list = false →
      let u := s.untilNt (s.nextEdge list);
      let l := u.gateList list;
      let e := (u.listPos list).entry;
      let n := if e + 1 < l.length then e + 1 else 0;
      let v := if list < 256 then u.leaveSlot list (u.nextSlot list) else u;
      let w : State := { v with sched := { v.sched with pos := Tab.set {} v.sched.pos list { entry := n } } };
       exec (.gateSlotEdge list) s = .next ((if n = 0 then w.cycleBegins else w).enterSlot list)) ∧
  (∀ (s : State) (p : Nat), p < 32 → s.guardedEdge (256 + p) 0 = true → s.held = false →
      exec (.portEdgeGuard p) s = .next (((s.untilNt (s.shareEnd (256 + p) - (s.port p).linkGuard)).modPort p fun q => { q with guard := true }).pump p)) ∧
  (∀ (s : State) (list : Nat), list < 289 → s.throttleLevel ≠ 0 → s.held = false →
      let u := s.untilNt (s.shareEnd list);
      let v : State := { u with sched := { u.sched with pos := Tab.modify {} u.sched.pos list fun x => { x with shareEnded := true } } };
       exec (.usableShareEnd list) s = .next (if 256 ≤ list ∧ list < 288 then v.pump (list - 256) else v)) ∧
  (∀ (s : State) (t : Nat), s.sched.pendingT = some t → s.held = false →
      let u := s.untilNt t;
      let v := if u.sched.pendingRoutes then u.switchRoutes else u;
      let next := v.sched.versions.getD (1 - v.sched.active) {};
      let w := if v.sched.pendingGates then v.restartLists (fun k => (next.list k).headD {}) State.switchGates else v;
      let x : State := { w with sched := { w.sched with pendingT := none, pendingRoutes := false, pendingGates := false, pendingCmd := none } };
      exec (.epochSwitchAtT) s = .next (match w.sched.pendingCmd.bind fun y => x.cmd y.1 y.2 with | some k => x.final k stOk (natLE 8 t ++ natLE 1 x.routeActive ++ natLE 1 x.sched.active) | none => x)) ∧
  (∀ (s : State) (power : Nat),
      let u := State.markCause { s with sched := { s.sched with powerOver := decide (s.powerLimit < power) } };
      let w : State := { u with sched := { u.sched with event := true, eventPending := true, events := u.sched.events + 1, records := u.sched.records ++ [({ start := u.clk.nt } : ThrottleRec)] } };
       exec (.throttleCause power) s = .next (if u.causeNow && !u.sched.event then (w.throttleEvent 1).cxlEvent 1 1 noAddr 0 else u)) ∧
  (∀ (s : State) (power : Nat),
      let a := s.untilNt ((s.clk.nt / 10000000 + 1) * 10000000);
      let u := State.throttleCause { a with sched := { a.sched with powerOver := decide (a.powerLimit < power) } };
      let ten := fun (t : Nat) => decide (t + 10000000 ≤ u.clk.nt);
      let ends : State := { u with sched := { u.sched with event := false, level := 0, records := u.sched.records.modify (u.sched.records.length - 1) fun r => { r with ended := some u.clk.nt } } };
      exec (.throttleLevelTick power) s = .next (if !u.sched.event || u.sched.eventPending then u else match u.sched.causeSince with | some t => if ten t then u.setLevel (min 3 (u.sched.level + 1)) else u | none => if (u.sched.lastCause.map ten).getD true then ends.throttleEvent 3 else u))

/-- The holder renews its lease; an expired lease gives the token to the next serving unit in rank, 2 us later for each place; a stale claim is
counted and fails its unit; the voters release what the copies agree on, fail a minority unit, or stop; a hot standby releases; a parity error
fails the unit. (R365, R366, R367, R368) -/
def Obligations.ControlUnitRowsTakeEffect : Prop :=
  (∀ (s : State) (u : Nat), s.triplex.holder = some u → (s.cu u).state = .serving → s.triplex.stopped = false → s.boot.inReset = false →
      let w := s.untilElapsed s.triplex.renewAt;
       exec (.tokenRenewal) s = .next ({ w with triplex := { w.triplex with leaseEnd := w.clk.elapsed + 4000, renewAt := w.clk.elapsed + 1000 } })) ∧
  (∀ (s : State) (i : Nat), s.triplex.holder.isSome = true → s.triplex.stopped = false → s.boot.inReset = false →
      s.rankAfter.findIdx? (fun u => (s.cu u).state == .serving) = some i →
      exec (.tokenLeaseExpiry) s = .next (((s.untilElapsed (s.triplex.leaseEnd + 2000 * i)).takeToken (s.rankAfter.getD i 0) (i + 1) true).rise 0x257)) ∧
  (∀ (s : State) (unit : Nat) (n : Nat × Nat), s.triplex.notices.find? (fun x => x.1 == unit) = some n →
      let u : State := { s with triplex := { s.triplex with notices := s.triplex.notices.erase n, staleClaims := satInc 16 s.triplex.staleClaims }, cuOut := s.cuOut.filter fun o => o.unit != unit };
       exec (.staleClaimNotice unit) s = .next ((u.log 0x0802 none none (natLE 1 n.1 ++ natLE 2 n.2)).cuState unit .failed)) ∧
  (∀ (s : State) (a b d : Nat), s.lockstep = true → s.triplex.stopped = false → s.boot.inReset = false →
      let v := s.voterFault [a, b, d];
      let x := v.2.getD 0 0;
      let y := v.2.getD 1 0;
      let z := v.2.getD 2 0;
      exec (.lockstepVote a b d) s = .next (if x = y ∧ y = z then v.1.releaseOne else match minority x y z with | some u => (State.log { v.1.releaseOne with triplex := { v.1.triplex with voteMismatch := satInc 16 v.1.triplex.voteMismatch } } 0x0801 none none (natLE 1 u)).failUnit u | none => ((State.rise { v.1 with triplex := { v.1.triplex with stopped := true } } 0x256).cxlEvent 3 1 noAddr 0))) ∧
  (∀ (s : State), s.lockstep = false → s.triplex.stopped = false → s.boot.inReset = false → exec (.hotStandbyDelta) s = .next s.releaseOne) ∧
  (∀ (s : State) (unit : Nat), unit < 3 → ((s.cu unit).state = .serving ∨ (s.cu unit).state = .syncing) → s.boot.inReset = false →
      exec (.cuParityError unit) s = .next ((if s.diag.injArm && s.diag.injKind == 7 && s.diag.injUnit == unit then State.injected { s with diag := { s.diag with injArm := false } } 0x26 unit else s).failUnit unit))

/-- A challenge leaves the device and is kept for one attempt; an attempt uses it up and, on a valid signature, sets the level, else it is counted,
and after three failures nothing more comes of it; TRST_N locks JTAG again, which fails an attempt under way; SEC_DEBUG relocks, and disables for
good. (R357, R358, R533) -/
def Obligations.DebugRowsTakeEffect : Prop :=
  (∀ (s : State), s.jtagReached = true → s.engineLost = false →
      let x := padTo 24 (Config.random32 s.draws) ++ natLE 8 Config.serial.toNat;
       exec (.jtagChallengeRead) s = .next (State.emit { s with draws := s.draws + 1, sec := { s.sec with challenge := some x } } (.challenge x))) ∧
  (∀ (s : State) (level : Nat) (key sig : Bytes), s.jtagReached = true → level ≠ 0 →
      let u : State := { s with sec := { s.sec with challenge := none } };
      exec (.jtagUnlock level key sig) s = .next (if 3 ≤ s.sec.unlockFails then u else if s.unlockOk level key sig then State.log { u with sec := { u.sec with jtagLevel := level, chipUnlocked := true, engineOpened := u.sec.engineOpened || level == 2 } } 0x0702 none none (natLE 1 level ++ natLE 1 1) else u.unlockFailed level)) ∧
  (∀ (s : State),
      let u : State := { s with sec := { s.sec with jtagLevel := 0, challenge := none } };
       exec (.trstNAssert) s = .next (if s.sec.challenge.isSome ∧ s.sec.unlockFails < 3 then u.unlockFailed 0 else u)) ∧
  (∀ (s : State), s.boot.inReset = false → s.cxl.linkUp = true → s.hearthLost 0 = false →
      exec (.secDebugRelock .host) s = .next ({ s with sec := { s.sec with jtagLevel := 0 } })) ∧
  (∀ (s : State), s.boot.inReset = false → s.cxl.linkUp = true → s.hearthLost 0 = false →
      exec (.secDebugDisable .host) s = .next ({ s with kept := { s.kept with debugDisabled := true } }))

/-- Power-on, external, supply and CLKRST reset put every field at its reset value but what the always-on domain and the fuses keep, with the cause;
the release starts step 1 of start-up with the envelope in force and network time 0. (R404, R406, R428) -/
def Obligations.ResetRowsTakeEffect : Prop :=
  (∀ (s : State),
      exec (.powerOnReset) s = .next ({ State.reset with kept := s.keptAfter s.draws, draws := s.draws + 1, outbox := s.outbox, pending := s.pending, boot := { cause := 0, inReset := true, powerCycle := true } })) ∧
  (∀ (s : State),
      exec (.externalReset) s = .next ({ State.reset with kept := s.keptAfter s.draws, draws := s.draws + 1, outbox := s.outbox, pending := s.pending, boot := { cause := 1, inReset := true, powerCycle := false } })) ∧
  (∀ (s : State),
      exec (.supplyReset) s = .next ({ State.reset with kept := s.keptAfter s.draws, draws := s.draws + 1, outbox := s.outbox, pending := s.pending, boot := { cause := 2, inReset := true, powerCycle := false } })) ∧
  (∀ (s : State) (rd : Reader) (v : Reg), s.mayWrite rd false = true → bit v.toNat 0 = true → bits v.toNat 8 8 = 0xD1 →
      exec (.clkrstReset rd v) s = .next ({ State.reset with kept := s.keptAfter s.draws, draws := s.draws + 1, outbox := s.outbox, pending := s.pending, boot := { cause := 3, inReset := true, powerCycle := false } })) ∧
  (∀ (s : State), s.boot.inReset = true →
      let u := s.untilElapsed (match s.boot.cause with | 0 => 0 | 2 => 1000000 | _ => 10000);
      exec (.internalResetRelease) s = .next ({ u with clk := { u.clk with nt := 0, frac := 0, steer := 0 }, boot := { u.boot with inReset := false, step := 1, envInForce := if u.kept.envSealed then u.kept.envBurned else 0, vcore := [750, 750, 750, 750], lowest := 750 } }))

/-- KINDLING checks a control unit’s boot image and, where it fails, the backup image, and ends step 2 with the last unit; the eight waves power
tiles; a tile that does not come up is fenced whole and counted; the decode tables are broadcast to every tile, one that fails it twice is fenced,
and step 6 begins; stacks are trained in order; firmware ready ends start-up and a waiting partial reset begins. (R339, R409, R413, R414, R415) -/
def Obligations.StartUpRowsTakeEffect : Prop :=
  (∀ (s : State) (unit : Nat), unit < 3 → s.boot.inReset = false → (s.boot.step = 1 ∨ s.boot.step = 2) → (s.cu unit).verified = false →
      s.held = false → s.boot.halted = false →
      let u : State := if s.boot.step = 1 then { s with boot := { s.boot with step := 2 }, kept := { s.kept with bootCount := (s.kept.bootCount + 1) % 2 ^ 32 } } else s;
      let a := u.kept.bootArea;
      let x := imageCheck (u.kept.images.getD a []);
      let y := imageCheck (u.kept.images.getD (1 - a) []);
      let w := if imageOk x u.kept.svnFloor then u.unitLoads unit a x false else if imageOk y u.kept.svnFloor then (u.kindlingFail unit 0).unitLoads unit (1 - a) y true else ((((u.kindlingFail unit 0).kindlingFail unit 1).modCu unit fun c => { c with verified := true }).cuState unit .failed);
      exec (.kindlingVerify unit) s = .next (if (w.triplex.units.all fun (x : Cu) => x.verified || x.state == CuState.lost) = true then w.kindlingEnds else w)) ∧
  (∀ (s : State) (w : Nat), s.boot.inReset = false → s.boot.step = 4 → s.boot.waves = w → w < 8 → s.held = false →
      let u := if w = 0 then s else s.untilElapsed (s.boot.waveAt + 50000);
      let v := ((List.range 256).filter fun t => t % 64 / 8 == w && !u.hearthLost (tileHearth t)).foldl (fun (t : State) i => t.modEmber i fun e => { e with poweredOff := false }) u;
       exec (.tileWave w) s = .next ({ v with boot := { v.boot with waves := w + 1, waveAt := v.clk.elapsed } })) ∧
  (∀ (s : State) (tile : Nat), tile < 256 → s.boot.inReset = false → s.boot.step = 4 → s.boot.waves = tile % 64 / 8 + 1 →
      s.hearthLost (tileHearth tile) = false → s.held = false → ((s.chan (2 * tile)).state ≠ .fenced ∨ (s.ember tile).state ≠ .fenced) →
      let u := (s.untilElapsed (s.boot.waveAt + 40000)).fenceTile tile;
      exec (.tilePowerGoodTimeout tile) s = .next (State.log { u with boot := { u.boot with tilesFenced := min 255 (u.boot.tilesFenced + 1) } } 0x0403 none none (natLE 1 tile))) ∧
  (∀ (s : State) (first second : List Nat), s.boot.inReset = false → s.boot.step = 4 → s.boot.waves = 8 → s.held = false →
      let u := s.untilElapsed (s.boot.waveAt + 40000);
      let v := (((multicast (cuRouter (u.triplex.holder.getD 0)) (List.range 256)).map (·.1)).filter fun t => first.contains t && second.contains t && !u.hearthLost (tileHearth t)).foldl (fun (t : State) i => (t.modEmber i fun e => { e with state := .fenced }).log 0x0404 none none (natLE 1 i)) u;
       exec (.decodeTableBroadcast first second) s = .next ({ v with boot := { v.boot with step := 6 } })) ∧
  (∀ (s : State) (stack : Nat) (failed : List Nat), s.boot.inReset = false → s.boot.step = 6 → s.nextStack = some stack → s.held = false →
      let u := (List.range 32).foldl (fun (t : State) i => t.trainChan (32 * stack + i) (failed.contains i)) s;
      exec (.stackTrainingDone stack failed) s = .next (State.trainingEnds { u with boot := { u.boot with stacksDone := (trainOrder.findIdx? (· == stack)).getD 0 + 1 } })) ∧
  (∀ (s : State), s.boot.inReset = false → s.boot.step = 7 → s.held = false →
      let w := s.bell.wear;
      exec (.firmwareReady) s = .next (State.nextHreset { s with boot := { s.boot with step := 8, ready := true, powerCycle := false }, cxl := { s.cxl with mediaReady := true }, bell := { s.bell with wear := { w with powerCycles := if s.boot.powerCycle then satInc 32 w.powerCycles else w.powerCycles }, ckptDue := true, ckptDueAt := s.clk.elapsed, ckptTries := 0 } }))

/-- CLKRST_HRESET asks for a partial reset of each Hearth named; it completes once the Hearth is quiet; CLKRST_ENVELOPE starts a burn that agrees with
the bits burned before, and its end burns code and seal; a lost Hearth is out of service until the next reset; a clock’s presence is shown. (R23,
R423, R425, R426, R535) -/
def Obligations.HearthRowsTakeEffect : Prop :=
  (∀ (s : State) (rd : Reader) (v : Reg), s.mayWrite rd false = true →
      exec (.clkrstHreset rd v) s = .next (((List.range 4).filter fun h => bit v.toNat h).foldl (fun (t : State) h => t.askPartial h) s)) ∧
  (∀ (s : State) (r : PartialReset), s.boot.hreset = some r → s.held = false → s.hearthQuiet r.hearth = true →
      exec (.partialResetComplete) s = .next (s.endPartial r)) ∧
  (∀ (s : State) (v : Reg), s.boot.inReset = false → s.cxl.linkUp = true → s.hearthLost 0 = false → bits v.toNat 8 8 = 0xE7 → bits v.toNat 0 2 ≠ 0 →
      s.kept.envSealed = false → s.burning = none → s.kept.envBurned &&& bits v.toNat 0 2 = s.kept.envBurned →
      exec (.clkrstEnvelope .host v) s = .next ({ s with burning := some (bits v.toNat 0 2) })) ∧
  (∀ (s : State) (e : Nat), s.burning = some e → s.held = false →
      exec (.envelopeBurnDone) s = .next ({ s with burning := none, kept := { s.kept with envBurned := e, envSealed := true } })) ∧
  (∀ (s : State) (h : Nat), s.boot.inReset = false → s.hearthLost h = false → h < 4 →
      let a : State := { s.loseStage h with boot := { s.boot with lostHearths := s.boot.lostHearths ++ [h], hresetPending := s.boot.hresetPending.filter (· != h), hreset := if (s.boot.hreset.map fun (r : PartialReset) => r.hearth) == some h then none else s.boot.hreset } };
      let b := (((a.log 0x0902 none none (natLE 1 h)).rise 0x259).cxlEvent 2 1 noAddr 0).loseHomes h;
      let d := (hearthTiles h).foldl (fun (t : State) i => t.fenceEmber i) b;
      let e := (hearthChans h).foldl (fun (t : State) g => (if (t.chan g).state == .retired then t else (t.stopChan g).flushAll g).modChan g fun x => { x with waiting := [], reads := [], granted := [], partials := [], filling := [], bmCache := [] }) d;
      let f := (hearthPorts h).foldl (fun (t : State) p => t.linkDown p) e;
      let g := (((f.modFaultQ h fun _ => {}).passHomes.loseBlocks h).settleCords);
       exec (.hearthLost h) s = .next g.settleCalibrations.trainingEnds.nextHreset) ∧
  (∀ (s : State) (domain : Nat) (on : Bool), 1 ≤ domain → domain ≤ 18 →
      exec (.clockPresenceChange domain on) s = .next ({ s with boot := { s.boot with pll := s.boot.pll.set (domain - 1) on } }))

/-- A warning below 700 mV starts an episode, counted and raised, or undoes the release of the one that runs; 2 ms later the stacks are banked, their
work complete; the release wakes and calibrates them; the episode ends at the first cycle start at least 10 us later, with grants extended by its
length. (R428, R430, R431, R432) -/
def Obligations.SupplyRowsTakeEffect : Prop :=
  (∀ (s : State) (h mv : Nat), s.boot.inReset = false → mv < 700 → h < 4 →
      let u := s.reading h mv;
      let v : State := { u with boot := { u.boot with episode := some { startedAt := u.clk.elapsed }, episodes := satInc 16 u.boot.episodes } };
      exec (.supplyWarningDetect h mv) s = .next (match u.boot.episode with | some e => { u with boot := { u.boot with episode := some { e with released := none } } } | none => State.throttleCause ((List.range 32).foldl (fun (t : State) p => t.holdPort p 2) ((v.rise 0x25A).cxlEvent 1 1 noAddr 0)))) ∧
  (∀ (s : State) (e : Episode), s.boot.episode = some e → e.banked = false → e.released = none →
      let u := s.untilElapsed (e.startedAt + 2000000);
      let w := (u.chans.map Prod.fst).foldl (fun t g => t.drainChan g) u;
      let v := (List.range 512).foldl (fun (t : State) g => t.modChan g fun x => { x with banked := true, openRows := [] }) w;
      exec (.supplyBankTimer) s = .next ((State.rise { v with boot := { v.boot with episode := some { e with banked := true } } } 0x25B).cxlEvent 1 1 noAddr 0)) ∧
  (∀ (s : State) (e : Episode), s.boot.episode = some e → e.banked = false → e.released = none →
      let u := s.untilElapsed s.boot.heldUntil;
      let v := State.pass { u with boot := { u.boot with vcore := [750, 750, 750, 750], lowest := 750, lowHearth := 0 } } 100;
       exec (.supplyRelease) s = .next ({ v with boot := { v.boot with episode := some { e with released := some v.clk.elapsed } } })) ∧
  (∀ (s : State) (e : Episode), s.boot.episode = some e → e.banked = true → e.released = none →
      let u := s.untilElapsed s.boot.heldUntil;
      let v := State.pass { u with boot := { u.boot with vcore := [750, 750, 750, 750], lowest := 750, lowHearth := 0 } } (100000 + 2900);
      let w := (List.range 512).foldl (fun (t : State) g => t.modChan g fun c => if c.changing.isSome then c else { c with banked := false, zqLast := v.clk.elapsed, rtLast := v.clk.elapsed, rtTemp := v.dieTemp (chanStack g), zqDue := false, rtDue := false }) v;
      let x := (w.chans.map Prod.fst).foldl (fun t g => t.serveChan g) w;
       exec (.supplyRelease) s = .next ({ x with boot := { x.boot with episode := some { e with released := some x.clk.elapsed } } })) ∧
  (∀ (s : State) (e : Episode) (r : Nat), s.boot.episode = some e → e.released = some r →
      let a := s.untilElapsed (r + 10000);
      let b := a.untilNt (a.cycleAt a.clk.nt);
      let len := b.clk.elapsed - e.startedAt;
      let d : State := { b with grants := b.grants.map fun (g : Grant) => { g with expiry := g.expiry + len }, boot := { b.boot with episode := none, episodeLastLen := min (2 ^ 24 - 1) (toMicros len), episodeLastBanked := e.banked } };
      let f := d.restartLists (fun k => (d.gateList k).headD {}) fun (t : State) => t;
      let g := (List.range 32).foldl (fun (t : State) p => if (t.port p).state == .hold then t.portUp p else t) f;
      exec (.supplyEpisodeEnd) s = .next (((g.log 0x0904 none none (natLE 4 (toMicros len) ++ natLE 1 (b2n e.banked))).cxlEvent 1 1 noAddr 0).throttleCause))

/-- The link trains at the highest common rate and width; it goes down; PERST# or a hot reset clears what the function holds; a function-level reset
clears the registers and completes the host’s claims; a CXL.mem write-back goes to its home, a request inside an accepted extent queues at the CXL
point, any other is refused. (R382, R388, R389, R395) -/
def Obligations.CxlLinkRowsTakeEffect : Prop :=
  (∀ (s : State) (rate width r w : Nat), s.boot.inReset = false → s.hearthLost 0 = false → gradeOf rate 64 32 16 = some r →
      gradeOf width 16 8 4 = some w →
      exec (.cxlLinkTrained rate width true) s = .next ({ s with cxl := { s.cxl with linkUp := true, rate := r, width := w } })) ∧
  (∀ (s : State), exec (.cxlLinkDown) s = .next ({ s with cxl := { s.cxl with linkUp := false, rate := 0, width := 0 } })) ∧
  (∀ (s : State), s.boot.inReset = false →
      let u : State := { s with cxl := { s.cxl with linkUp := false, rate := 0, width := 0 } };
      exec (.perstHotReset) s = .next ({ u with cxl := { u.cxl.cleared with busMaster := false, bars := List.replicate 6 0, decoders := List.replicate 8 {}, msixEnabled := false } })) ∧
  (∀ (s : State), s.boot.inReset = false → s.cxl.linkUp = true →
      let u : State := { s with cxl := s.cxl.cleared };
      exec (.flr) s = .next (u.withIntc { u.intc with srcs := Tab.mapVals {} u.intc.srcs fun (x : Src) => if x.state = .active ∧ x.claimer < 4 then x.complete else x })) ∧
  (∀ (s : State) (hpa : Nat) (op : HostMemOp) (a : Nat), s.boot.inReset = false → s.cxl.linkUp = true → decodeHpa hpa s.cxl.decoders 0 = some a →
      let m := s.hostReq a op;
      let u : State := { s with nextOrder := s.nextOrder + 1 };
      let other := if s.accepted a then { u with stampQ := Tab.modify [] u.stampQ 288 (· ++ [m]) } else s.endAtPoint m 9;
      exec (.cxlMemRequest hpa op) s = .next (match m.op, s.resolve m.pool with | .wb, some (r, d) => u.toHome { m with region := r, dpa := d } | _, _ => other)) ∧
  (∀ (s : State) (hpa : Nat) (op : HostMemOp), s.boot.inReset = false → s.cxl.linkUp = true → decodeHpa hpa s.cxl.decoders 0 = none →
      exec (.cxlMemRequest hpa op) s = .next (s.endAtPoint (s.hostReq hpa op) 9))

/-- Get Event Records gives the oldest records of a log; Clear removes the ones named, all where none is named; the interrupt policy is read and set;
a log, a handle or a setting that is not there is answered so. (R390, R392) -/
def Obligations.MailboxEventRowsTakeEffect : Prop :=
  (∀ (s : State) (log : Nat), s.mailboxOn = true →
      exec (.getEventRecords log) s = .next (match s.cxl.logs[log]? with | some l => s.mbDone mbOk (.events log (l.records.take 15) l.overflow l.dropped) | none => s.mbDone mbInvalid .nothing)) ∧
  (∀ (s : State) (log : Nat) (handles : List Nat) (l : EventLog), s.mailboxOn = true → s.cxl.logs[log]? = some l →
      let unknown := handles.any fun h => !(l.records.any fun r => r.handle == h);
      let left := if handles = [] then [] else l.records.filter fun r => !handles.contains r.handle;
      let m : EventLog := { l with records := left, overflow := l.overflow && decide (64 ≤ left.length), dropped := if left.length < 64 then 0 else l.dropped };
      exec (.clearEventRecords log handles) s = .next (if unknown then s.mbDone mbBadHandle .nothing else State.mbDone { s with cxl := { s.cxl with logs := s.cxl.logs.set log m } } mbOk .nothing)) ∧
  (∀ (s : State) (log : Nat) (handles : List Nat), s.mailboxOn = true → s.cxl.logs[log]? = none →
      exec (.clearEventRecords log handles) s = .next (s.mbDone mbInvalid .nothing)) ∧
  (∀ (s : State), s.mailboxOn = true → exec (.getEventInterruptPolicy) s = .next (s.mbDone mbOk (.policy s.cxl.eventPolicy))) ∧
  (∀ (s : State) (l : List Nat), s.mailboxOn = true →
      exec (.setEventInterruptPolicy l) s = .next (if l.length ≠ 5 || l.any (fun p => decide (1 < p % 4)) then s.mbDone mbInvalid .nothing else State.mbDone { s with cxl := { s.cxl with eventPolicy := l.map fun p => if p % 4 = 1 then 0x51 else 0 } } mbOk .nothing))

/-- Each command completes with its reply: the active image, the calendar time or 0, the command effects log, the identity of the device, its health
with the wear record, the poison list; a command that is not there is answered Unsupported. (R390, R449) -/
def Obligations.MailboxInfoRowsTakeEffect : Prop :=
  (∀ (s : State), s.mailboxOn = true → exec (.getFwInfo) s = .next (s.mbDone mbOk (.firmware s.activeCu.svn s.activeCu.area))) ∧
  (∀ (s : State), s.mailboxOn = true →
      exec (.getTimestamp) s = .next (s.mbDone mbOk (.timestamp (match s.cxl.calendar with | some x => toBits 64 (s.clk.nt + x) | none => 0)))) ∧
  (∀ (s : State) (n : Nat), s.mailboxOn = true →
      exec (.setTimestamp n) s = .next (State.mbDone { s with cxl := { s.cxl with calendar := some ((n : Int) - s.clk.nt) } } mbOk .nothing)) ∧
  (∀ (s : State), s.mailboxOn = true → exec (.getSupportedLogs) s = .next (s.mbDone mbOk (.commandEffects (Config.cxlPayload 0x0400 0)))) ∧
  (∀ (s : State), s.mailboxOn = true → exec (.getLog) s = .next (s.mbDone mbOk (.commandEffects (Config.cxlPayload 0x0401 0)))) ∧
  (∀ (s : State), s.mailboxOn = true → exec (.identifyMemoryDevice) s = .next (s.mbDone mbOk (.identify 6144 0 256))) ∧
  (∀ (s : State), s.mailboxOn = true →
      exec (.getHealthInfo) s = .next (s.mbDone mbOk (.health (s.bell.failsafe || s.bell.starting) s.boot.episodes s.cxl.statusWords s.cxl.regulators s.bell.wear))) ∧
  (∀ (s : State), s.mailboxOn = true → exec (.getPoisonList) s = .next (s.mbDone mbOk (.poison s.cxl.poison s.cxl.poisonOverflow))) ∧
  (∀ (s : State) (n : Nat), s.mailboxOn = true →
      [0x0100, 0x0101, 0x0102, 0x0103, 0x0200, 0x0300, 0x0301, 0x0400, 0x0401, 0x4000, 0x4200, 0x4300, 0x4800, 0x4801, 0x4802, 0x4803].contains n = false →
      exec (.mailboxUnsupported n) s = .next (s.mbDone mbUnsupported .nothing))

/-- The configuration and the extents held are told; a response accepts the extents it names, each of which must be on offer; the oldest offer left
open for 10 s is withdrawn; a release names extents held, one release at a time, and ends once the host’s grants are gone. (R133, R386, R390,
R391) -/
def Obligations.DynamicCapacityRowsTakeEffect : Prop :=
  (∀ (s : State), s.mailboxOn = true →
      exec (.getDcConfiguration) s = .next (s.mbDone mbOk (.dcConfig ((List.range 8).map fun r => ({ base := r * 2 ^ 42, len := 2 ^ 42 } : Extent)) (2 ^ 28)))) ∧
  (∀ (s : State), s.mailboxOn = true → exec (.getDcExtentList) s = .next (s.mbDone mbOk (.extents (s.heldGrants.flatMap s.extents)))) ∧
  (∀ (s : State) (l : List Extent), s.mailboxOn = true →
      exec (.addDcResponse l) s = .next (if l.any fun e => (s.offerOf e).isNone then s.mbDone mbInvalid .nothing else (l.foldl (fun (t : State) e => match t.offerOf e with | some g => t.modGrant 4096 g.region fun g => { g with accepted := true, offered := false } | none => t) s).mbDone mbOk .nothing)) ∧
  (∀ (s : State) (g : Grant),
      (s.grants.filter fun g => g.holder == 4096 && g.offered && !g.accepted && !g.tombstone && !g.leaving).foldl (fun (b : Option Grant) g => match b with | some x => if g.offeredAt < x.offeredAt then some g else b | none => some g) none = some g →
      let u := s.untilElapsed (g.offeredAt + 10000000000);
      let v := (u.extents g).foldl (fun t e => t.dcEvent dcRelease e) u;
       exec (.dcOfferTimeout) s = .next ((v.modGrant 4096 g.region fun g => { g with offered := false }).queueStep g.region { holder := 4096 })) ∧
  (∀ (s : State) (l : List Extent), s.mailboxOn = true →
      let u := l.foldl (fun t e => t.releaseExtent e) s;
      exec (.releaseDynamicCapacity l) s = .next (if s.cxl.release.isSome then s.mbDone mbBusy .nothing else if l.any fun e => (s.heldOf e).isNone then s.mbDone mbInvalid .nothing else State.mbDone { u with cxl := { u.cxl with release := some { regions := (l.filterMap s.heldOf).map fun (g : Grant) => g.region } } } mbBackground .nothing)) ∧
  (∀ (s : State) (r : Release), s.cxl.release = some r →
      let u := r.regions.foldl (fun (t : State) n => t.modGrant 4096 n fun g => { g with forced := false }) s;
      exec (.releaseDcComplete) s = .next (if r.regions.any fun n => !s.hostGone n then s else State.mbDone { u with cxl := { u.cxl with release := none } } mbOk .nothing))

/-- Discovery names the three protocols; CDAT entries 1 to 9 are those of the spec; SPDM requests of version 1.2 in their order advance the
connection; digests and certificates of slot 0, challenges and measurements are answered, signed by the key of this boot; a request that Table
11.6 does not name is answered as not supported. (R349, R393) -/
def Obligations.DoeRowsTakeEffect : Prop :=
  (∀ (s : State) (n : Nat), s.mailboxOn = true →
      exec (.doeDiscovery n) s = .next (s.doeDone (match n with | 0 => .discovery 1 0 1 | 1 => .discovery 1 1 2 | 2 => .discovery 0x1E98 2 0 | _ => .discovery 0xFFFF 0 0))) ∧
  (∀ (s : State) (n : Nat), s.mailboxOn = true →
      exec (.cdatTableAccess n) s = .next (s.doeDone (.cdat n (if 1 ≤ n ∧ n ≤ 8 then natLE 8 ((n - 1) * 2 ^ 42) ++ natLE 8 (2 ^ 42) else if n = 9 then natLE 4 400 ++ natLE 4 400 ++ natLE 4 118 ++ natLE 4 118 else Config.cxlPayload 0xCDA7 n)))) ∧
  (∀ (s : State) (req : Bytes), s.mailboxOn = true → fieldAt req 1 1 = 0x84 → fieldAt req 0 1 = 0x10 →
      let rsp := natLE 1 0x10 ++ natLE 1 0x04 ++ zeros 3 ++ natLE 1 1 ++ natLE 2 0x1200;
       exec (.getVersion req) s = .next ((s.spdmAt 1 (req ++ rsp)).spdmSay rsp)) ∧
  (∀ (s : State) (req : Bytes), s.mailboxOn = true → spdmCodes.contains (fieldAt req 1 1) = false →
      exec (.getVersion req) s = .next (s.spdmSay (natLE 1 0x12 ++ natLE 1 0x7F ++ natLE 1 0x07 ++ natLE 1 (fieldAt req 1 1)))) ∧
  (∀ (s : State) (req : Bytes), s.mailboxOn = true → fieldAt req 1 1 = 0xe1 → fieldAt req 0 1 = 0x12 → s.sec.spdmStep = 1 →
      let rsp := natLE 1 0x12 ++ natLE 1 0x61 ++ zeros 3 ++ natLE 1 Config.spdmCtRaw ++ zeros 2 ++ natLE 4 0x36 ++ natLE 4 4096 ++ natLE 4 4096;
       exec (.getCapabilities req) s = .next ((s.spdmAt 2 (s.sec.spdmVca ++ req ++ rsp)).spdmSay rsp)) ∧
  (∀ (s : State) (req : Bytes), s.mailboxOn = true → fieldAt req 1 1 = 0xe3 → fieldAt req 0 1 = 0x12 → s.sec.spdmStep = 2 →
      let asym := offered (fieldAt req 8 4) algSm2;
      let hash := offered (fieldAt req 12 4) algSm3;
      let rsp := natLE 1 0x12 ++ natLE 1 0x63 ++ zeros 2 ++ natLE 2 36 ++ natLE 1 1 ++ zeros 1 ++ natLE 4 (2 * algSm3) ++ natLE 4 asym ++ natLE 4 hash ++ zeros 16;
      exec (.negotiateAlgorithms req) s = .next (if asym = 0 ∨ hash = 0 then s.spdmError 0x01 0 else (s.spdmAt 3 (s.sec.spdmVca ++ req ++ rsp)).spdmSay rsp)) ∧
  (∀ (s : State) (req : Bytes), s.mailboxOn = true → fieldAt req 1 1 = 0x81 → fieldAt req 0 1 = 0x12 → 3 ≤ s.sec.spdmStep → s.sec.attestReady = true →
      s.engineLost = false →
      let rsp := natLE 1 0x12 ++ natLE 1 0x01 ++ zeros 1 ++ natLE 1 1 ++ padTo 32 (Config.sm3 s.spdmChain);
       exec (.getDigests req) s = .next ((s.spdmCert req rsp).spdmSay rsp)) ∧
  (∀ (s : State) (req : Bytes), s.mailboxOn = true → fieldAt req 1 1 = 0x82 → fieldAt req 0 1 = 0x12 → 3 ≤ s.sec.spdmStep → s.sec.attestReady = true →
      s.engineLost = false →
      let o := fieldAt req 4 2;
      let part := (s.spdmChain.drop o).take (min (fieldAt req 6 2) 4088);
      let rsp := natLE 1 0x12 ++ natLE 1 0x02 ++ zeros 2 ++ natLE 2 part.length ++ natLE 2 (s.spdmChain.length - o - part.length) ++ part;
      exec (.getCertificate req) s = .next (if fieldAt req 2 1 % 16 ≠ 0 ∨ s.spdmChain.length ≤ o then s.spdmError 0x01 0 else (s.spdmCert req rsp).spdmSay rsp)) ∧
  (∀ (s : State) (req : Bytes), s.mailboxOn = true → fieldAt req 1 1 = 0x83 → fieldAt req 0 1 = 0x12 → 3 ≤ s.sec.spdmStep → s.sec.attestReady = true →
      s.engineLost = false →
      let rsp := natLE 1 0x12 ++ natLE 1 0x03 ++ zeros 1 ++ natLE 1 1 ++ padTo 32 (Config.sm3 s.spdmChain) ++ padTo 32 (Config.random32 s.draws) ++ s.summary (fieldAt req 3 1) ++ zeros 2;
      let sig := s.spdmSign (s.draws + 1) "responder-challenge_auth signing" (s.sec.spdmVca ++ s.sec.spdmCerts ++ req ++ rsp);
      exec (.challenge req) s = .next (if fieldAt req 2 1 % 16 ≠ 0 then s.spdmError 0x01 0 else State.spdmSay { s with draws := s.draws + 1 + 1, sec := { s.sec with spdmCerts := [], spdmMeas := [] } } (rsp ++ sig))) ∧
  (∀ (s : State) (req : Bytes) (l : List Nat), s.mailboxOn = true → fieldAt req 1 1 = 0xe0 → fieldAt req 0 1 = 0x12 → 3 ≤ s.sec.spdmStep →
      s.sec.attestReady = true → s.engineLost = false →
      let op := fieldAt req 3 1;
       (if op = 0 then some [] else if op = 0xFF then some blockNumbers else if op ≤ 7 then some [op] else none) = some l →
      let record := l.flatMap s.block;
      let rsp := natLE 1 0x12 ++ natLE 1 0x60 ++ natLE 1 (if op = 0 then blockNumbers.length else 0) ++ zeros 1 ++ natLE 1 l.length ++ natLE 3 record.length ++ record ++ padTo 32 (Config.random32 s.draws) ++ zeros 2;
      let log := s.sec.spdmMeas ++ req ++ rsp;
      let sig := s.spdmSign (s.draws + 1) "responder-measurements signing" (s.sec.spdmVca ++ log);
      exec (.getMeasurements req) s = .next (if bit (fieldAt req 2 1) 0 then State.spdmSay { s with draws := s.draws + 1 + 1, sec := { s.sec with spdmMeas := [] } } (rsp ++ sig) else State.spdmSay { s with draws := s.draws + 1, sec := { s.sec with spdmMeas := log } } rsp))

/-- A claim gives the source of the target’s highest priority, or 0; a completion ends it; INTC_TEST raises a test source; a source’s word is written.
(R397, R399, R400) -/
def Obligations.InterruptRowsTakeEffect : Prop :=
  (∀ (s : State) (rd : Reader) (t : Nat), t < 8 → s.mayWrite rd false = true → (Reader.isHost rd && unitTarget t) = false →
      let p := s.claim t;
       exec (.intcClaim rd t) s = .next (p.2.emit (.regRead rd (targetOff t 0) (BitVec.ofNat 32 p.1)))) ∧
  (∀ (s : State) (rd : Reader) (t : Nat) (v : Reg), t < 8 → s.mayWrite rd false = true → (Reader.isHost rd && unitTarget t) = false →
      exec (.intcComplete rd t v) s = .next (s.completeSrc t (bits v.toNat 0 10))) ∧
  (∀ (s : State) (rd : Reader) (v : Reg), s.mayWrite rd false = true → exec (.intcTest rd v) s = .next (s.rise (0x3F0 + bits v.toNat 0 4))) ∧
  (∀ (s : State) (rd : Reader) (i : Nat) (v : Reg), i < 1024 → s.mayWrite rd false = true →
      exec (.intcSrcWrite rd i v) s = .next (s.writeSrc (Reader.isHost rd) i v.toNat))

/-- Every millisecond the sensors are read and the valves driven; fail-safe is cleared; a tach pulse ends its silence, a flow pulse is kept for a
minute; an injection is taken and ends at its time. (R437, R439, R443, R516) -/
def Obligations.BellowsRowsTakeEffect : Prop :=
  (∀ (s : State) (reads : SensorReads), s.bellowsOn = true →
      let u := s.untilElapsed ((s.clk.elapsed / 1000000 + 1) * 1000000);
      let v := if u.bell.injArm && !u.bell.injUsed then u.injected 0x19 u.bell.injSensor else u;
      let w := (v.modBell fun b => b.sense reads).enterFailsafe;
      let x := w.modBell fun b => (b.drive w.feedPower).valveMoved u.bell.valve;
      let l := (List.range 20).filter fun i => x.bell.dieOver.getD i false && !u.bell.dieOver.getD i false;
       exec (.bellowsControlTick reads) s = .next ((l.foldl (fun (t : State) _ => t.rise 0x25D) x).throttleCause)) ∧
  (∀ (s : State) (rd : Reader), s.mayWrite rd true = true → s.bellowsOn = true → exec (.bellClearFailsafe rd) s = .next s.clearFailsafe) ∧
  (∀ (s : State), s.bellowsOn = true → s.bell.injOn 23 2 = false → exec (.coolantPulse true) s = .next (s.modBell fun b => { b with tachSilent := 0 })) ∧
  (∀ (s : State), s.bellowsOn = true → s.bell.injOn 22 2 = false →
      exec (.coolantPulse false) s = .next (s.modBell fun b => { b with flowSilent := 0, flowPulses := (b.flowPulses.filter fun t => decide (s.clk.elapsed < t + 60000000000)) ++ [s.clk.elapsed] })) ∧
  (∀ (s : State) (rd : Reader) (v : Reg), s.mayWrite rd true = true → s.bellowsOn = true → exec (.bellInjCtrl rd v) s = .next (s.bellInj v.toNat)) ∧
  (∀ (s : State), s.bell.injArm = true →
      exec (.bellInjExpiry) s = .next ((s.untilElapsed s.bell.injEnd).modBell fun b => { b with injArm := false, injUsed := false }))

/-- Each second counts; every 600 the wear record falls due; a write that is due goes to its slot and gives up after the third failure, or waits for a
firmware write for 60 s; the loss of VDD_AON leaves the lifetime a free value; regulators are polled, alerts kept. (R448, R452, R527, R533) -/
def Obligations.RecordRowsTakeEffect : Prop :=
  (∀ (s : State), s.bell.undriven = false →
      let u := s.untilElapsed ((s.clk.elapsed / 1000000000 + 1) * 1000000000);
      let n := (u.kept.lifeSeconds + 1) % 2 ^ 64;
      let x : State := { u with kept := { u.kept with lifeSeconds := n } };
      let v := if x.boot.inReset then x else x.wearSecond;
      let w := if n % 3600 = 0 then v.hourPassed else v;
      exec (.lifetimeSecondTick) s = .next (if w.ready && n % 600 == 0 then w.modBell fun b => { b with ckptDue := true, ckptDueAt := w.clk.elapsed, ckptTries := 0 } else w)) ∧
  (∀ (s : State) (ok : Bool), s.bellowsOn = true → s.bell.ckptDue = true → s.held = false →
      let u := s.putRecord ok;
      exec (.checkpointWriteDone ok) s = .next (if s.diag.updating.isSome then (if s.bell.ckptDueAt + 60000000000 ≤ s.clk.elapsed then s.modBell fun b => { b with ckptDue := false } else s) else if 3 ≤ u.bell.ckptTries then ((u.modBell fun b => { b with ckptDue := false, ckptTries := 0, ckptFails := satInc 16 b.ckptFails }).rise 0x25F).log 0x0A03 none none (natLE 1 s.bell.ckptSlot) else u)) ∧
  (∀ (s : State),
      let p := s.freeBytes 8;
       exec (.vddAonLoss) s = .next ({ p.2 with kept := { p.2.kept with lifeSeconds := leNat p.1, aonLost := true } })) ∧
  (∀ (s : State) (regs : List Regulator), s.managed = true →
      let u := s.untilElapsed ((s.clk.elapsed / 10000000 + 1) * 10000000);
       exec (.pmbusPoll regs) s = .next ({ u with cxl := { u.cxl with regulators := regs.take 16 } })) ∧
  (∀ (s : State) (w : Nat), s.managed = true →
      let l := s.cxl.statusWords ++ [w % 65536];
       exec (.pmbAlert w) s = .next ({ s with cxl := { s.cxl with statusWords := l.drop (l.length - 16) } }))

/-- A seq in ERR_SEL captures its entry; a read of ERR_ENTRY7 and of any register leaves the device with the register’s value after the effects of the
read; a counter read clears it; a high word, an alias and a plain register are written. (R12, R501, R503, R504, R510, R513) -/
def Obligations.RegisterRowsTakeEffect : Prop :=
  (∀ (s : State) (rd : Reader) (v : Reg), s.mayWrite rd false = true →
      let e := s.diag.log.find? fun (x : LogEnt) => x.seq == v.toNat;
      exec (.errSel rd v) s = .next ({ s with diag := { s.diag with errSel := v.toNat, selValid := e.isSome, errEntry := (e.map LogEnt.shown).getD (zeros 32) } })) ∧
  (∀ (s : State) (rd : Reader), s.reached rd false = true →
      let p := s.readReg rd .err 0 0x3C 0x58003C;
       exec (.errEntryAdvance rd) s = .next (p.2.emit (.regRead rd 0x58003C (BitVec.ofNat 32 p.1)))) ∧
  (∀ (s : State) (rd : Reader) (v : Reg), s.mayWrite rd false = true → exec (.errInjCtrl rd v) s = .next (s.errInj v.toNat)) ∧
  (∀ (s : State) (rd : Reader) (off u o : Nat) (b : RegBlock), off < 0x1000000 → regAt off = some (b, u, o) → off % 4 = 0 →
      s.reached rd b.hostOnly = true →
      let p := s.readReg rd b u o off;
       exec (.counterReadClear rd off) s = .next (p.2.emit (.regRead rd off (BitVec.ofNat 32 p.1)))) ∧
  (∀ (s : State) (rd : Reader) (off u o : Nat) (b : RegBlock), off < 0x1000000 → regAt off = some (b, u, o) → off % 4 = 0 →
      s.reached rd b.hostOnly = true →
      let p := s.readReg rd b u o off;
       exec (.lowWordLatchRead rd off) s = .next (p.2.emit (.regRead rd off (BitVec.ofNat 32 p.1)))) ∧
  (∀ (s : State) (rd : Reader) (off u o : Nat) (b : RegBlock) (v : Reg), off < 0x1000000 → regAt off = some (b, u, o) → off % 4 = 0 →
      s.mayWrite rd b.hostOnly = true → (lowWord b o).isSome = true → exec (.highWordWrite rd off v) s = .next (s.writeReg rd b u o off v.toNat)) ∧
  (∀ (s : State) (rd : Reader) (win : AliasWindow) (off u o : Nat) (b : RegBlock) (v : Reg), off < 2 ^ 24 → regAt off = some (b, u, o) → off % 4 = 0 →
      s.mayWrite rd b.hostOnly = true → (rwBits b o ≠ 0 ∨ scBits b o ≠ 0) →
      exec (.registerAliasWrite rd win off v) s = .next (s.writeReg rd b u o off (aliasValue win (rwBits b o) (scBits b o) (s.regWord b u o) v.toNat))) ∧
  (∀ (s : State) (rd : Reader) (off u o : Nat) (b : RegBlock) (v : Reg), off < 0x1000000 → regAt off = some (b, u, o) → off % 4 = 0 →
      s.mayWrite rd b.hostOnly = true → exec (.registerWrite rd off v) s = .next (s.writeReg rd b u o off v.toNat))
end

