-- ==== Sys2Proof/Laws/Tab.lean ====
section
/-! SUPPORT. Laws of the sparse tables and of memory, the table of bytes: reads after writes, and the canonical form, which every operation
keeps. -/

set_option Elab.async false

namespace Sys2Proof.Machine

section
variable {α : Type}

theorem Tab.wf_iff [DecidableEq α] (d : α) (t : Tab α) :
    Tab.wf d t = true ↔ t.Pairwise (fun a b => a.1 < b.1) ∧ ∀ p ∈ t, p.2 ≠ d := by
  induction t with
  | nil => simp [Tab.wf]
  | cons a l ih =>
    cases l with
    | nil => simp [Tab.wf]
    | cons b l =>
      simp only [Tab.wf, Bool.and_eq_true, decide_eq_true_eq, ih, List.pairwise_cons, List.forall_mem_cons]
      constructor
      · rintro ⟨⟨h1, h2⟩, ⟨h3, h4⟩, h5, h6⟩
        exact ⟨⟨⟨h2, fun x hx => h2.trans (h3 x hx)⟩, h3, h4⟩, h1, h5, h6⟩
      · rintro ⟨⟨⟨h2, -⟩, h3, h4⟩, h1, h5, h6⟩
        exact ⟨⟨h1, h2⟩, ⟨h3, h4⟩, h5, h6⟩

theorem Tab.wf_filter [DecidableEq α] {d : α} {t : Tab α} (h : Tab.wf d t = true) (f : Nat × α → Bool) : Tab.wf d (t.filter f) = true := by
  rw [Tab.wf_iff] at *
  exact ⟨h.1.sublist List.filter_sublist, fun p hp => h.2 p (List.mem_of_mem_filter hp)⟩

theorem Tab.wf_clearRange [DecidableEq α] {d : α} {t : Tab α} (h : Tab.wf d t = true) (lo hi : Nat) :
    Tab.wf d (Tab.clearRange t lo hi) = true := Tab.wf_filter h _

theorem Tab.erase_sublist (t : Tab α) (k : Nat) : (Tab.erase t k).Sublist t := by
  induction t with
  | nil => exact List.Sublist.refl _
  | cons a l ih => grind [Tab.erase]

theorem Tab.wf_erase [DecidableEq α] {d : α} {t : Tab α} (h : Tab.wf d t = true) (k : Nat) : Tab.wf d (Tab.erase t k) = true := by
  rw [Tab.wf_iff] at *
  exact ⟨h.1.sublist (Tab.erase_sublist t k), fun p hp => h.2 p ((Tab.erase_sublist t k).subset hp)⟩

theorem Tab.mem_insert {t : Tab α} {k : Nat} {v : α} {p : Nat × α} (h : p ∈ Tab.insert t k v) : p = (k, v) ∨ p ∈ t := by
  induction t with
  | nil => grind [Tab.insert]
  | cons a l ih => grind [Tab.insert]

theorem Tab.wf_insert [DecidableEq α] {d : α} {t : Tab α} (h : Tab.wf d t = true) (k : Nat) {v : α} (hv : v ≠ d) :
    Tab.wf d (Tab.insert t k v) = true := by
  rw [Tab.wf_iff] at *
  induction t with
  | nil => simp [Tab.insert, hv]
  | cons a l ih =>
    obtain ⟨h1, h2⟩ := h
    rw [List.pairwise_cons] at h1
    rw [List.forall_mem_cons] at h2
    unfold Tab.insert
    have hi := ih ⟨h1.2, h2.2⟩
    split
    · rename_i hk
      simp only [List.pairwise_cons, List.forall_mem_cons]
      exact ⟨⟨⟨hk, fun x hx => hk.trans (h1.1 x hx)⟩, h1⟩, hv, h2⟩
    · split
      · rename_i hk
        simp only [List.pairwise_cons, List.forall_mem_cons]
        exact ⟨⟨fun x hx => hk ▸ h1.1 x hx, h1.2⟩, hv, h2.2⟩
      · simp only [List.pairwise_cons, List.forall_mem_cons]
        refine ⟨⟨fun x hx => ?_, hi.1⟩, h2.1, hi.2⟩
        rcases Tab.mem_insert hx with rfl | hx
        · show a.1 < k
          omega
        · exact h1.1 x hx

theorem Tab.wf_set [DecidableEq α] {d : α} {t : Tab α} (h : Tab.wf d t = true) (k : Nat) (v : α) : Tab.wf d (Tab.set d t k v) = true := by
  unfold Tab.set
  split
  · exact Tab.wf_erase h k
  · exact Tab.wf_insert h k ‹_›

theorem Tab.get_erase (d : α) (t : Tab α) (k j : Nat) : Tab.get d (Tab.erase t k) j = if j = k then d else Tab.get d t j := by
  induction t with
  | nil => simp [Tab.erase, Tab.get]
  | cons a l ih => grind [Tab.erase, Tab.get]

theorem Tab.get_insert (d : α) (t : Tab α) (k : Nat) (v : α) (j : Nat) :
    Tab.get d (Tab.insert t k v) j = if j = k then v else Tab.get d t j := by
  induction t with
  | nil => grind [Tab.insert, Tab.get]
  | cons a l ih => grind [Tab.insert, Tab.get]

/-- A read after a write: the value written at the key, what was there before elsewhere. -/
theorem Tab.get_set [DecidableEq α] (d : α) (t : Tab α) (k : Nat) (v : α) (j : Nat) :
    Tab.get d (Tab.set d t k v) j = if j = k then v else Tab.get d t j := by
  unfold Tab.set
  split
  · rw [Tab.get_erase]; simp_all
  · exact Tab.get_insert d t k v j

theorem Tab.get_modify [DecidableEq α] (d : α) (t : Tab α) (k : Nat) (f : α → α) (j : Nat) :
    Tab.get d (Tab.modify d t k f) j = if j = k then f (Tab.get d t k) else Tab.get d t j := Tab.get_set d t k _ j
end

/-! ## Memory -/

theorem Memory.wf_store {m : List Host.Cell} (h : Memory.wf m = true) (a : Nat) (b : Bytes) : Memory.wf (storeBytes m a b) = true := by
  induction b generalizing m a with
  | nil => exact h
  | cons x t ih => exact ih (Tab.wf_set h a x) _

theorem Memory.wf_filter {m : List Host.Cell} (h : Memory.wf m = true) (f : Host.Cell → Bool) : Memory.wf (m.filter f) = true := Tab.wf_filter h f

theorem Memory.wf_clear {m : List Host.Cell} (h : Memory.wf m = true) (lo hi : Nat) : Memory.wf (Tab.clearRange m lo hi) = true :=
  Tab.wf_clearRange h lo hi

/-- A store changes the bytes it stores and no other. -/
theorem Memory.get_store (m : List Host.Cell) (a : Nat) (b : Bytes) (j : Nat) :
    Tab.get 0 (storeBytes m a b) j = if a ≤ j ∧ j < a + b.length then b.getD (j - a) 0 else Tab.get 0 m j := by
  induction b generalizing m a with
  | nil => simp [storeBytes]
  | cons x t ih =>
    rw [storeBytes, ih, Tab.get_set]
    simp only [List.length_cons, List.getD_eq_getElem?_getD, List.getElem?_cons]
    grind

theorem Memory.wf_reset : Memory.wf State.reset.mem = true := rfl

end Sys2Proof.Machine
end

