-- ==== Sys2Proof/Laws/FrameBase.lean ====
section
/-! SUPPORT. What the operations on the units of State, the memory channels and the links leave unchanged (`still`: the queue, the fuses and the memory; `fixed`: the queue and the fuses), and that
they keep memory in its canonical form (`memOk`). One lemma an operation; the rows cite these and unfold nothing. -/

set_option Elab.async false

namespace Sys2Proof.Machine

/-- What no command but the resets, the burns and the locks of chapters 11 and 14 touches, the memory apart: the queue and the fuses. -/
def State.fixed (s : State) : List Instr × Nat × Bool × Bool × Option Nat :=
  (s.pending, s.kept.envBurned, s.kept.envSealed, s.kept.debugDisabled, s.burning)

/-- The same and the memory. -/
def State.still (s : State) : List Instr × Nat × Bool × Bool × Option Nat × List Host.Cell :=
  (s.pending, s.kept.envBurned, s.kept.envSealed, s.kept.debugDisabled, s.burning, s.mem)

/-- Memory is in its canonical form. -/
def State.memOk (s : State) : Prop := Memory.wf s.mem = true

theorem fixed_of_still {s t : State} (h : t.still = s.still) : t.fixed = s.fixed := by
  simp only [State.still, Prod.mk.injEq] at h
  simp only [State.fixed, h]
theorem memOk_of_still {s t : State} (h : t.still = s.still) (hs : s.memOk) : t.memOk := by
  simp only [State.still, Prod.mk.injEq] at h
  simpa only [State.memOk, h] using hs

theorem foldl_still {α : Type} (f : State → α → State) (h : ∀ t x, (f t x).still = t.still) (l : List α) (s : State) :
    (l.foldl f s).still = s.still := by
  induction l generalizing s with
  | nil => rfl
  | cons a t ih => rw [List.foldl_cons, ih, h]
theorem foldl_pair_still {α β : Type} (f : State × β → α → State × β) (h : ∀ p x, (f p x).1.still = p.1.still) (l : List α)
    (p : State × β) : (l.foldl f p).1.still = p.1.still := by
  induction l generalizing p with
  | nil => rfl
  | cons a t ih => rw [List.foldl_cons, ih, h]
theorem foldl_fixed {α : Type} (f : State → α → State) (h : ∀ t x, (f t x).fixed = t.fixed) (l : List α) (s : State) :
    (l.foldl f s).fixed = s.fixed := by
  induction l generalizing s with
  | nil => rfl
  | cons a t ih => rw [List.foldl_cons, ih, h]
theorem foldl_pair_fixed {α β : Type} (f : State × β → α → State × β) (h : ∀ p x, (f p x).1.fixed = p.1.fixed) (l : List α)
    (p : State × β) : (l.foldl f p).1.fixed = p.1.fixed := by
  induction l generalizing p with
  | nil => rfl
  | cons a t ih => rw [List.foldl_cons, ih, h]
theorem foldl_memOk {α : Type} (f : State → α → State) (h : ∀ t x, t.memOk → (f t x).memOk) (l : List α) (s : State) :
    s.memOk → (l.foldl f s).memOk := by
  induction l generalizing s with
  | nil => exact id
  | cons a t ih => exact fun hs => ih _ (h _ _ hs)
theorem foldl_pair_memOk {α β : Type} (f : State × β → α → State × β) (h : ∀ p x, p.1.memOk → (f p x).1.memOk) (l : List α)
    (p : State × β) : p.1.memOk → (l.foldl f p).1.memOk := by
  induction l generalizing p with
  | nil => exact id
  | cons a t ih => exact fun hs => ih _ (h _ _ hs)
theorem foldl_opt_still {α : Type} (f : Option State → α → Option State) (s : State)
    (h : ∀ o x t, (∀ u, o = some u → u.still = s.still) → f o x = some t → t.still = s.still) (l : List α) (o : Option State)
    (ho : ∀ u, o = some u → u.still = s.still) : ∀ t, l.foldl f o = some t → t.still = s.still := by
  induction l generalizing o with
  | nil => exact ho
  | cons a l ih => exact ih _ fun u hu => h o a u ho hu
theorem onUnit_still (n k : Nat) (f : State → State) (s : State) (h_f : ∀ (x0 : State), (f x0).still = x0.still) :
    (onUnit n k f s).still = s.still := by
  grind [onUnit, State.still]
theorem State.modChan_still (s : State) (g : Nat) (f : Chan → Chan) :
    (State.modChan s g f).still = s.still := by
  grind [State.modChan, State.still]
theorem State.modEmber_still (s : State) (t : Nat) (f : Ember → Ember) :
    (State.modEmber s t f).still = s.still := by
  grind [State.modEmber, State.still]
theorem State.modSlice_still (s : State) (i : Nat) (f : Slice → Slice) :
    (State.modSlice s i f).still = s.still := by
  grind [State.modSlice, State.still]
theorem State.modPort_still (s : State) (p : Nat) (f : Port → Port) :
    (State.modPort s p f).still = s.still := by
  grind [State.modPort, State.still]
theorem State.modFaultQ_still (s : State) (h : Nat) (f : FaultQueue → FaultQueue) :
    (State.modFaultQ s h f).still = s.still := by
  grind [State.modFaultQ, State.still]
theorem State.modCord_still (s : State) (n : Nat) (f : Cord → Cord) :
    (State.modCord s n f).still = s.still := by
  grind [State.modCord, State.still]
theorem State.modRegion_still (s : State) (r : Nat) (f : Region → Region) :
    (State.modRegion s r f).still = s.still := by
  grind [State.modRegion, State.still]
theorem State.modCtx_still (s : State) (c : Nat) (f : Ctx → Ctx) :
    (State.modCtx s c f).still = s.still := by
  grind [State.modCtx, State.still]
theorem State.modPlan_still (s : State) (k : Nat) (f : Plan → Plan) :
    (State.modPlan s k f).still = s.still := by
  grind [State.modPlan, State.still]
theorem State.modStage_still (s : State) (h : Nat) (f : Stage → Stage) :
    (State.modStage s h f).still = s.still := by
  grind [State.modStage, State.still]
theorem State.modCu_still (s : State) (u : Nat) (f : Cu → Cu) :
    (State.modCu s u f).still = s.still := by
  grind [State.modCu, State.still]
theorem State.draw_still (s : State) :
    (State.draw s).2.still = s.still := by
  grind [State.draw, State.still]
theorem State.emit_still (s : State) (e : OutEvent) :
    (State.emit s e).still = s.still := by
  grind [State.emit, State.still]
theorem State.msix_still (s : State) (v : Nat) :
    (State.msix s v).still = s.still := by
  grind [State.msix, State.still, State.emit_still]
theorem State.withIntc_still (s : State) (c : Intc) :
    (State.withIntc s c).still = s.still := by
  grind [State.withIntc, State.still, State.msix_still, foldl_still, foldl_pair_still]
theorem State.modSrc_still (s : State) (n : Nat) (f : Src → Src) :
    (State.modSrc s n f).still = s.still := by
  grind [State.modSrc, State.still, State.withIntc_still]
theorem State.rise_still (s : State) (n : Nat) :
    (State.rise s n).still = s.still := by
  grind [State.rise, State.still, State.modSrc_still]
theorem State.log_still (s : State) (event : Nat) (ctx : Option Nat) (dpa : Option Nat) (detail : Bytes) :
    (State.log s event ctx dpa detail).still = s.still := by
  grind [State.log, State.still]
theorem State.injected_still (s : State) (code unit : Nat) :
    (State.injected s code unit).still = s.still := by
  grind [State.injected, State.still, State.log_still]
theorem State.cxlEvent_still (s : State) (n kind addr reason : Nat) :
    (State.cxlEvent s n kind addr reason).still = s.still := by
  grind [State.cxlEvent, State.still, State.msix_still]
theorem State.pass_still (s : State) (d : Nat) :
    (State.pass s d).still = s.still := by
  grind [State.pass, State.still]
theorem State.untilNt_still (s : State) (t : Nat) :
    (State.untilNt s t).still = s.still := by
  grind [State.untilNt, State.still, State.pass_still]
theorem State.untilElapsed_still (s : State) (t : Nat) :
    (State.untilElapsed s t).still = s.still := by
  grind [State.untilElapsed, State.still, State.pass_still]
theorem State.untilTimer_still (s : State) (t : Nat) :
    (State.untilTimer s t).still = s.still := by
  grind [State.untilTimer, State.still, State.pass_still]
theorem State.atTimer_still (s : State) (t : Nat) (f : State → State) (h_f : ∀ (x0 : State), (f x0).still = x0.still) :
    (State.atTimer s t f).still = s.still := by
  grind [State.atTimer, State.still, State.untilTimer_still]
theorem State.atElapsed_still (s : State) (t : Nat) (f : State → State) (h_f : ∀ (x0 : State), (f x0).still = x0.still) :
    (State.atElapsed s t f).still = s.still := by
  grind [State.atElapsed, State.still, State.untilElapsed_still]
theorem State.dropReply_still (s : State) (h : Nat) :
    (State.dropReply s h).still = s.still := by
  grind [State.dropReply, State.still, State.modStage_still, State.rise_still]
theorem State.undeliver_still (s : State) (h c : Nat) :
    (State.undeliver s h c).still = s.still := by
  unfold State.undeliver
  rw [State.dropReply_still, State.modCtx_still]
theorem State.modGrant_still (s : State) (h r : Nat) (f : Grant → Grant) :
    (State.modGrant s h r f).still = s.still := by
  grind [State.modGrant, State.still]

/-! ## Channel -/

theorem State.hostPoison_still (s : State) (l : Nat) :
    (State.hostPoison s l).still = s.still := by
  grind [State.hostPoison, State.still]
theorem State.hostFailure_still (s : State) (l reason : Nat) :
    (State.hostFailure s l reason).still = s.still := by
  grind [State.hostFailure, State.still, State.cxlEvent_still]
theorem State.putLine_fixed (s : State) (l : Nat) (data : Bytes) (cinder : Bool) :
    (State.putLine s l data cinder).fixed = s.fixed := by
  grind [State.putLine, State.fixed, State.still, State.modChan_still, State.injected_still]
theorem State.putLine_memOk (s : State) (l : Nat) (data : Bytes) (cinder : Bool) : s.memOk → (State.putLine s l data cinder).memOk := by
  intro h
  have := Memory.wf_store (m := s.mem) h (64 * l) (if cinder then zeros 64 else padTo 64 data)
  unfold State.putLine
  repeat' split
  all_goals grind [State.memOk, State.still, State.modChan_still, State.injected_still]
theorem State.putCinder_fixed (s : State) (l : Nat) :
    (State.putCinder s l).fixed = s.fixed := by
  grind [State.putCinder, State.fixed, State.still, State.hostPoison_still, State.putLine_fixed]
theorem State.putCinder_memOk (s : State) (l : Nat) :
    s.memOk → (State.putCinder s l).memOk := by
  grind [State.putCinder, State.memOk, State.still, State.hostPoison_still, State.putLine_memOk]
theorem State.lineError_still (s : State) (l event reason : Nat) (ctx : Option Nat) :
    (State.lineError s l event reason ctx).still = s.still := by
  grind [State.lineError, State.still, State.modChan_still, State.rise_still, State.log_still, State.hostFailure_still]
theorem State.countCorrected_still (s : State) (g : Nat) :
    (State.countCorrected s g).still = s.still := by
  grind [State.still, State.countCorrected, State.modChan_still]
theorem State.corrected_still (s : State) (l : Nat) :
    (State.corrected s l).still = s.still := by
  grind [State.still, State.corrected, State.countCorrected_still, State.cxlEvent_still]
theorem State.readDram_fixed (s : State) (l : Nat) (ctx : Option Nat) (noise : List (Nat × Byte)) (later : Bool) :
    (State.readDram s l ctx noise later).1.fixed = s.fixed := by
  grind [State.readDram, State.fixed, State.still, State.modChan_still, State.putLine_fixed, State.putCinder_fixed, State.lineError_still, State.corrected_still]
theorem State.readDram_memOk (s : State) (l : Nat) (ctx : Option Nat) (noise : List (Nat × Byte)) (later : Bool) :
    s.memOk → (State.readDram s l ctx noise later).1.memOk := by
  grind [State.readDram, State.memOk, State.still, State.modChan_still, State.putLine_memOk, State.putCinder_memOk, State.lineError_still, State.corrected_still]
theorem State.stopChan_still (s : State) (g : Nat) :
    (State.stopChan s g).still = s.still := by
  grind [State.stopChan, State.still, State.modChan_still, State.modCord_still, foldl_still, foldl_pair_still]
theorem State.fenceChan_still (s : State) (g cause : Nat) :
    (State.fenceChan s g cause).still = s.still := by
  grind [State.fenceChan, State.still, State.rise_still, State.log_still, State.stopChan_still]
theorem State.bitmapWrite_still (s : State) (g idx : Nat) :
    (State.bitmapWrite s g idx).still = s.still := by
  grind [State.bitmapWrite, State.still, State.modChan_still, State.injected_still]
theorem State.bitmapRewrite_still (s : State) (g idx copy : Nat) :
    (State.bitmapRewrite s g idx copy).still = s.still := by
  grind [State.bitmapRewrite, State.still]
theorem State.bitmapCorrect_still (s : State) (g idx copy : Nat) (d : Decoded) :
    (State.bitmapCorrect s g idx copy d).still = s.still := by
  grind [State.bitmapCorrect, State.still, State.corrected_still, State.countCorrected_still, State.bitmapRewrite_still]
theorem State.bitmapRepair_still (s : State) (g idx copy : Nat) (d : Decoded) :
    (State.bitmapRepair s g idx copy d).still = s.still := by
  grind [State.bitmapRepair, State.still, State.log_still, State.bitmapRewrite_still]
theorem State.bitmapLost_still (s : State) (g idx : Nat) :
    (State.bitmapLost s g idx).still = s.still := by
  grind [State.bitmapLost, State.still, State.modChan_still, State.log_still, State.rise_still, State.fenceChan_still]
theorem State.bitmapCheck_still (s : State) (g idx : Nat) (kept : Bool) (na : List (Nat × Byte)) (nb : List (Nat × Byte)) :
    (State.bitmapCheck s g idx kept na nb).1.still = s.still := by
  grind [State.bitmapCheck, State.still, State.bitmapCorrect_still, State.bitmapRepair_still, State.bitmapLost_still]
theorem State.bitmapCache_still (s : State) (g idx : Nat) (dirty : Bool) :
    (State.bitmapCache s g idx dirty).still = s.still := by
  grind [State.bitmapCache, State.still, State.modChan_still, State.bitmapWrite_still]
theorem State.bitmapTouch_still (s : State) (l : Nat) :
    (State.bitmapTouch s l).1.still = s.still := by
  grind [State.bitmapTouch, State.still, State.bitmapCheck_still, State.bitmapCache_still]
theorem State.fillBlock_fixed (s : State) (l : Nat) (data : Bytes) (cinder : Bool) :
    (State.fillBlock s l data cinder).fixed = s.fixed := by
  grind [State.fillBlock, State.fixed, State.still, State.putLine_fixed, State.putCinder_fixed, State.bitmapCache_still, foldl_fixed, foldl_pair_fixed]
theorem State.fillBlock_memOk (s : State) (l : Nat) (data : Bytes) (cinder : Bool) :
    s.memOk → (State.fillBlock s l data cinder).memOk := by
  grind [State.fillBlock, State.memOk, State.still, State.putLine_memOk, State.putCinder_memOk, State.bitmapCache_still, foldl_memOk, foldl_pair_memOk]
theorem State.writeDram_fixed (s : State) (l : Nat) (data : Bytes) (cinder : Bool) :
    (State.writeDram s l data cinder).fixed = s.fixed := by
  grind [State.writeDram, State.fixed, State.putLine_fixed, State.putCinder_fixed, State.fillBlock_fixed]
theorem State.writeDram_memOk (s : State) (l : Nat) (data : Bytes) (cinder : Bool) :
    s.memOk → (State.writeDram s l data cinder).memOk := by
  grind [State.writeDram, State.memOk, State.putLine_memOk, State.putCinder_memOk, State.fillBlock_memOk]
theorem State.mergeLost_still (s : State) (e : MergeEnt) :
    (State.mergeLost s e).still = s.still := by
  grind [State.mergeLost, State.still, State.modChan_still, State.rise_still, State.log_still, State.hostFailure_still, foldl_still, foldl_pair_still]
theorem State.flushEntry_fixed (s : State) (e : MergeEnt) (noise : List (Nat × Byte)) :
    (State.flushEntry s e noise).1.fixed = s.fixed := by
  grind [State.fixed, State.still, fixed_of_still, State.flushEntry, State.mergeLost_still, State.writeDram_fixed, State.fillBlock_fixed, State.readDram_fixed, State.putLine_fixed]
theorem State.flushEntry_memOk (s : State) (e : MergeEnt) (noise : List (Nat × Byte)) :
    s.memOk → (State.flushEntry s e noise).1.memOk := by
  grind [State.memOk, State.still, memOk_of_still, State.flushEntry, State.mergeLost_still, State.writeDram_memOk, State.fillBlock_memOk, State.readDram_memOk, State.putLine_memOk]
theorem State.completeRmw_fixed (s : State) (l : Nat) (noise : List (Nat × Byte)) :
    (State.completeRmw s l noise).1.fixed = s.fixed := by
  grind [State.completeRmw, State.fixed, State.still, State.modChan_still, State.flushEntry_fixed]
theorem State.completeRmw_memOk (s : State) (l : Nat) (noise : List (Nat × Byte)) :
    s.memOk → (State.completeRmw s l noise).1.memOk := by
  grind [State.completeRmw, State.memOk, State.still, State.modChan_still, State.flushEntry_memOk]
theorem State.flushLine_fixed (s : State) (l : Nat) (noise : List (Nat × Byte)) :
    (State.flushLine s l noise).1.fixed = s.fixed := by
  grind [State.flushLine, State.completeRmw_fixed, State.fixed, State.still, State.modChan_still, State.flushEntry_fixed, foldl_fixed, foldl_pair_fixed]
theorem State.flushLine_memOk (s : State) (l : Nat) (noise : List (Nat × Byte)) :
    s.memOk → (State.flushLine s l noise).1.memOk := by
  grind [State.flushLine, State.completeRmw_memOk, State.memOk, State.still, State.modChan_still, State.flushEntry_memOk, foldl_memOk, foldl_pair_memOk]
theorem State.flushAll_fixed (s : State) (g : Nat) :
    (State.flushAll s g).fixed = s.fixed := by
  grind [State.flushAll, State.fixed, State.still, State.modChan_still, State.flushEntry_fixed, foldl_fixed, foldl_pair_fixed]
theorem State.flushAll_memOk (s : State) (g : Nat) :
    s.memOk → (State.flushAll s g).memOk := by
  grind [State.flushAll, State.memOk, State.still, State.modChan_still, State.flushEntry_memOk, foldl_memOk, foldl_pair_memOk]
theorem State.readLine_fixed (s : State) (l : Nat) (ctx : Option Nat) (noise : List (Nat × Byte)) :
    (State.readLine s l ctx noise).1.fixed = s.fixed := by
  grind [State.readLine, State.fixed, State.still, State.readDram_fixed, State.bitmapTouch_still, State.flushLine_fixed]
theorem State.readLine_memOk (s : State) (l : Nat) (ctx : Option Nat) (noise : List (Nat × Byte)) :
    s.memOk → (State.readLine s l ctx noise).1.memOk := by
  grind [State.readLine, State.memOk, State.still, State.readDram_memOk, State.bitmapTouch_still, State.flushLine_memOk]
theorem State.writeLine_fixed (s : State) (l : Nat) (data : Bytes) :
    (State.writeLine s l data).1.fixed = s.fixed := by
  grind [State.writeLine, State.fixed, State.still, State.modChan_still, State.bitmapTouch_still, State.writeDram_fixed]
theorem State.writeLine_memOk (s : State) (l : Nat) (data : Bytes) :
    s.memOk → (State.writeLine s l data).1.memOk := by
  grind [State.writeLine, State.memOk, State.still, State.modChan_still, State.bitmapTouch_still, State.writeDram_memOk]
theorem State.makeCinder_fixed (s : State) (l : Nat) :
    (State.makeCinder s l).fixed = s.fixed := by
  grind [State.makeCinder, State.fixed, State.still, State.modChan_still, State.bitmapTouch_still, State.writeDram_fixed]
theorem State.makeCinder_memOk (s : State) (l : Nat) :
    s.memOk → (State.makeCinder s l).memOk := by
  grind [State.makeCinder, State.memOk, State.still, State.modChan_still, State.bitmapTouch_still, State.writeDram_memOk]
theorem State.flushOldest_fixed (s : State) (g : Nat) :
    (State.flushOldest s g).fixed = s.fixed := by
  grind [State.fixed, State.still, fixed_of_still, State.flushOldest, State.flushLine_fixed]
theorem State.flushOldest_memOk (s : State) (g : Nat) :
    s.memOk → (State.flushOldest s g).memOk := by
  grind [State.memOk, State.still, memOk_of_still, State.flushOldest, State.flushLine_memOk]
theorem State.writePartial_fixed (s : State) (l ctx : Nat) (data : Bytes) (mask : List Bool) :
    (State.writePartial s l ctx data mask).1.fixed = s.fixed := by
  grind [State.fixed, State.still, fixed_of_still, State.writePartial, State.bitmapTouch_still, State.modChan_still, State.injected_still, State.flushLine_fixed, State.flushOldest_fixed]
theorem State.writePartial_memOk (s : State) (l ctx : Nat) (data : Bytes) (mask : List Bool) :
    s.memOk → (State.writePartial s l ctx data mask).1.memOk := by
  grind [State.memOk, State.still, memOk_of_still, State.writePartial, State.bitmapTouch_still, State.modChan_still, State.injected_still, State.flushLine_memOk, State.flushOldest_memOk]
theorem State.clearBlock_fixed (s : State) (b : Nat) :
    (State.clearBlock s b).fixed = s.fixed := by
  grind [State.clearBlock, State.fixed]
theorem State.clearBlock_memOk (s : State) (b : Nat) : s.memOk → (State.clearBlock s b).memOk := fun h => Memory.wf_clear h _ _
theorem State.zeroise_fixed (s : State) (dpa len : Nat) :
    (State.zeroise s dpa len).1.fixed = s.fixed := by
  grind [State.zeroise, State.fixed, State.still, State.modChan_still, State.bitmapWrite_still, State.writeLine_fixed, foldl_fixed, foldl_pair_fixed]
theorem State.zeroise_memOk (s : State) (dpa len : Nat) : s.memOk → (State.zeroise s dpa len).1.memOk := by
  intro h
  unfold State.zeroise
  all_goals grind [State.memOk, State.still, State.modChan_still, State.writeLine_memOk, State.bitmapWrite_still, foldl_memOk, Memory.wf_filter]
theorem State.zeroiseCord_fixed (s : State) (n : Nat) :
    (State.zeroiseCord s n).1.fixed = s.fixed := by
  grind [State.zeroiseCord, State.fixed, State.still, State.bitmapCheck_still, State.zeroise_fixed, foldl_fixed, foldl_pair_fixed]
theorem State.zeroiseCord_memOk (s : State) (n : Nat) :
    s.memOk → (State.zeroiseCord s n).1.memOk := by
  grind [State.zeroiseCord, State.memOk, State.still, State.bitmapCheck_still, State.zeroise_memOk, foldl_memOk, foldl_pair_memOk]

/-! ## Link -/

theorem State.sealed_still (s : State) (p : Nat) (k : Packet) :
    (State.sealed s p k).1.still = s.still := by
  grind [State.sealed, State.still, State.modPort_still, State.injected_still]
theorem State.transmit_still (s : State) (p : Nat) (conf : Bool) (wire : Bytes) :
    (State.transmit s p conf wire).still = s.still := by
  grind [State.still, State.transmit, State.modPort_still, State.injected_still, State.emit_still]
theorem State.sendCell_still (s : State) (p : Nat) (k : Packet) :
    (State.sendCell s p k).still = s.still := by
  grind [State.sendCell, State.still, State.modPort_still, State.modCtx_still, State.transmit_still]
theorem State.pumpN_still (s : State) (p : Nat) (y0 : Nat) :
    (State.pumpN s p y0).still = s.still := by
  induction y0 generalizing s with
  | zero => grind [State.pumpN]
  | succ n ih => grind [State.pumpN, State.still, State.modPort_still, State.sendCell_still]
theorem State.markWaits_still (s : State) (p : Nat) :
    (State.markWaits s p).still = s.still := by
  grind [State.still, State.markWaits, State.modPort_still]
theorem State.pump_still (s : State) (p : Nat) :
    (State.pump s p).still = s.still := by
  grind [State.still, State.pump, State.modPort_still, State.pumpN_still, State.markWaits_still]
theorem State.queueOut_still (s : State) (p : Nat) (k : Packet) :
    (State.queueOut s p k).still = s.still := by
  grind [State.queueOut, State.still, State.modPort_still, State.pump_still]
theorem State.source_still (s : State) (k : Packet) :
    (State.source s k).1.still = s.still := by
  grind [State.source, State.still, State.sealed_still, State.queueOut_still]
theorem State.newTxn_still (s : State) :
    (State.newTxn s).1.still = s.still := by
  grind [State.newTxn, State.still]
theorem State.request_still (s : State) (k : Packet) (tile reply : Option Nat) :
    (State.request s k tile reply).1.still = s.still := by
  grind [State.request, State.still, State.source_still, State.newTxn_still]
theorem State.sendControl_still (s : State) (p kind : Nat) (body : Bytes) :
    (State.sendControl s p kind body).still = s.still := by
  grind [State.still, State.sendControl, State.modPort_still, State.transmit_still]
theorem State.answer_still (s : State) (c : Completion) :
    (State.answer s c).still = s.still := by
  grind [State.answer, State.still, State.emit_still, State.cxlEvent_still, State.source_still]
theorem State.replyFailed_still (s : State) (x : Nat) :
    (State.replyFailed s x).still = s.still := by
  grind [State.replyFailed, State.still, State.undeliver_still]
theorem State.requestLost_still (s : State) (q : OpenReq) (reason : Nat) :
    (State.requestLost s q reason).still = s.still := by
  grind [State.requestLost, State.still, State.replyFailed_still]
theorem State.dropQueues_still (s : State) (p : Nat) :
    (State.dropQueues s p).still = s.still := by
  grind [State.dropQueues, State.still, State.modPort_still, State.requestLost_still, foldl_still, foldl_pair_still]
theorem State.portDown_still (s : State) (p delay : Nat) :
    (State.portDown s p delay).still = s.still := by
  grind [State.portDown, State.still, State.modPort_still, State.dropQueues_still]
theorem State.linkDown_still (s : State) (p : Nat) :
    (State.linkDown s p).still = s.still := by
  grind [State.linkDown, State.still, State.modPort_still, State.rise_still, State.log_still, State.portDown_still]
theorem State.setClasses_still (s : State) :
    (State.setClasses s).still = s.still := by
  grind [State.setClasses, State.still, State.modPort_still, State.linkDown_still, foldl_still, foldl_pair_still]

end Sys2Proof.Machine
end

