-- ==== Sys2Proof/Laws/FrameHome.lean ====
section
/-! SUPPORT. What the homes and the operands of commands leave unchanged (`still`: the queue, the fuses and the memory; `fixed`: the queue and the fuses), and that
they keep memory in its canonical form (`memOk`). One lemma an operation; the rows cite these and unfold nothing. -/

set_option Elab.async false

namespace Sys2Proof.Machine

/-! ## Home -/

theorem State.setDir_still (s : State) (l : Nat) (e : Option DirEnt) :
    (State.setDir s l e).still = s.still := by
  grind [State.setDir, State.still]
theorem State.modLock_still (s : State) (l : Nat) (f : Lock → Lock) :
    (State.modLock s l f).still = s.still := by
  grind [State.modLock, State.still]
theorem State.addSharer_still (s : State) (l : Nat) (e : DirEnt) (ep : Nat) :
    (State.addSharer s l e ep).still = s.still := by
  grind [State.addSharer, State.still, State.modSlice_still, State.setDir_still]
theorem State.touch_still (s : State) (l : Nat) :
    (State.touch s l).still = s.still := by
  grind [State.touch, State.still]
theorem State.replyEnds_still (s : State) (x : Nat) :
    (State.replyEnds s x).still = s.still := by
  unfold State.replyEnds
  try extract_lets
  repeat' split
  all_goals (try extract_lets)
  all_goals grind (splits := 12) [State.still, State.request_still, State.undeliver_still, foldl_still, foldl_pair_still]
theorem State.replyWritten_still (s : State) (m : Req) (op : MsgOp) :
    (State.replyWritten s m op).still = s.still := by
  grind [State.replyWritten, State.still, State.undeliver_still, State.replyFailed_still, State.replyEnds_still]
theorem State.finish_still (s : State) (m : Req) (op : MsgOp) (reason aux : Nat) (data : Bytes) :
    (State.finish s m op reason aux data).still = s.still := by
  grind [State.finish, State.still, State.replyWritten_still]
theorem State.sendProbe_still (s : State) (l : Nat) (m : Req) (p : ProbeKind × Nat) :
    (State.sendProbe s l m p).1.still = s.still := by
  grind [State.sendProbe, State.still, State.emit_still, State.injected_still, State.source_still, State.newTxn_still]
theorem State.sendProbes_still (s : State) (l : Nat) (m : Req) (ts : List (ProbeKind × Nat)) :
    (State.sendProbes s l m ts).still = s.still := by
  grind [State.sendProbes, State.still, State.modLock_still, State.sendProbe_still, foldl_still, foldl_pair_still]
theorem State.lineWrite_fixed (s : State) (l : Nat) (data : Bytes) :
    (State.lineWrite s l data).1.fixed = s.fixed := by
  grind [State.lineWrite, State.fixed, State.writeLine_fixed, foldl_fixed, foldl_pair_fixed]
theorem State.lineWrite_memOk (s : State) (l : Nat) (data : Bytes) :
    s.memOk → (State.lineWrite s l data).1.memOk := by
  grind [State.lineWrite, State.memOk, State.writeLine_memOk, foldl_memOk, foldl_pair_memOk]
theorem State.linePartial_fixed (s : State) (l ctx : Nat) (data : Bytes) (mask : List Bool) :
    (State.linePartial s l ctx data mask).1.fixed = s.fixed := by
  grind [State.linePartial, State.fixed, State.writePartial_fixed, foldl_fixed, foldl_pair_fixed]
theorem State.linePartial_memOk (s : State) (l ctx : Nat) (data : Bytes) (mask : List Bool) :
    s.memOk → (State.linePartial s l ctx data mask).1.memOk := by
  grind [State.linePartial, State.memOk, State.writePartial_memOk, foldl_memOk, foldl_pair_memOk]
theorem State.lineCinder_fixed (s : State) (l : Nat) :
    (State.lineCinder s l).fixed = s.fixed := by
  grind [State.lineCinder, State.fixed, State.makeCinder_fixed, foldl_fixed, foldl_pair_fixed]
theorem State.lineCinder_memOk (s : State) (l : Nat) :
    s.memOk → (State.lineCinder s l).memOk := by
  grind [State.lineCinder, State.memOk, State.makeCinder_memOk, foldl_memOk, foldl_pair_memOk]
theorem State.tripletMismatch_still (s : State) (l i : Nat) :
    (State.tripletMismatch s l i).still = s.still := by
  grind [State.tripletMismatch, State.still, State.rise_still, State.log_still]
theorem State.writeCopies_fixed (s : State) (l : Nat) (data : Bytes) :
    (State.writeCopies s l data).1.fixed = s.fixed := by
  grind [State.writeCopies, State.fixed, State.still, State.injected_still, State.lineWrite_fixed, foldl_fixed, foldl_pair_fixed]
theorem State.writeCopies_memOk (s : State) (l : Nat) (data : Bytes) :
    s.memOk → (State.writeCopies s l data).1.memOk := by
  grind [State.writeCopies, State.memOk, State.still, State.injected_still, State.lineWrite_memOk, foldl_memOk, foldl_pair_memOk]
theorem State.readVote_fixed (s : State) (l : Nat) (ctx : Option Nat) :
    (State.readVote s l ctx).1.fixed = s.fixed := by
  grind [State.readVote, State.fixed, State.still, State.rise_still, State.log_still, State.lineError_still, State.readLine_fixed, State.lineWrite_fixed, State.lineCinder_fixed, State.tripletMismatch_still, foldl_fixed, foldl_pair_fixed]
theorem State.readVote_memOk (s : State) (l : Nat) (ctx : Option Nat) :
    s.memOk → (State.readVote s l ctx).1.memOk := by
  grind [State.readVote, State.memOk, State.still, State.rise_still, State.log_still, State.lineError_still, State.readLine_memOk, State.lineWrite_memOk, State.lineCinder_memOk, State.tripletMismatch_still, foldl_memOk, foldl_pair_memOk]
theorem State.homeRead_fixed (s : State) (l : Nat) (ctx : Option Nat) :
    (State.homeRead s l ctx).1.fixed = s.fixed := by
  grind [State.homeRead, State.fixed, State.still, fixed_of_still, State.readVote_fixed, State.touch_still, State.readLine_fixed]
theorem State.homeRead_memOk (s : State) (l : Nat) (ctx : Option Nat) :
    s.memOk → (State.homeRead s l ctx).1.memOk := by
  grind [State.homeRead, State.memOk, State.still, memOk_of_still, State.readVote_memOk, State.touch_still, State.readLine_memOk]
theorem State.homeWrite_fixed (s : State) (l : Nat) (data : Bytes) :
    (State.homeWrite s l data).1.fixed = s.fixed := by
  grind [State.homeWrite, State.fixed, State.lineWrite_fixed, State.writeCopies_fixed]
theorem State.homeWrite_memOk (s : State) (l : Nat) (data : Bytes) :
    s.memOk → (State.homeWrite s l data).1.memOk := by
  grind [State.homeWrite, State.memOk, State.lineWrite_memOk, State.writeCopies_memOk]
theorem State.homeCinder_fixed (s : State) (l : Nat) :
    (State.homeCinder s l).fixed = s.fixed := by
  grind [State.homeCinder, State.fixed, State.lineCinder_fixed, foldl_fixed, foldl_pair_fixed]
theorem State.homeCinder_memOk (s : State) (l : Nat) :
    s.memOk → (State.homeCinder s l).memOk := by
  grind [State.homeCinder, State.memOk, State.lineCinder_memOk, foldl_memOk, foldl_pair_memOk]
theorem State.homePartial_fixed (s : State) (l ctx : Nat) (data : Bytes) (mask : List Bool) :
    (State.homePartial s l ctx data mask).1.fixed = s.fixed := by
  grind [State.homePartial, State.fixed, State.linePartial_fixed, State.writeCopies_fixed, State.readVote_fixed]
theorem State.homePartial_memOk (s : State) (l ctx : Nat) (data : Bytes) (mask : List Bool) :
    s.memOk → (State.homePartial s l ctx data mask).1.memOk := by
  grind [State.homePartial, State.memOk, State.linePartial_memOk, State.writeCopies_memOk, State.readVote_memOk]
theorem State.startRun_still (s : State) (k : Nat) (p : Plan) (triggered : Bool) (cmd : Option (Nat × Nat)) (st : PlanState) (origin time : Nat) :
    (State.startRun s k p triggered cmd st origin time).still = s.still := by
  grind [State.startRun, State.still, State.modPlan_still]
theorem State.fireArm_still (s : State) (a : Arm) :
    (State.fireArm s a).still = s.still := by
  grind [State.fireArm, State.still, State.startRun_still, State.modPlan_still, State.log_still]
theorem State.setWord_still (s : State) (w : Nat) (x : Shadow) :
    (State.setWord s w x).still = s.still := by
  grind [State.setWord, State.still]
theorem State.setFlag_still (s : State) (w : Nat) :
    (State.setFlag s w).still = s.still := by
  grind [State.setFlag, State.still, State.modSlice_still, State.setWord_still]
theorem State.descDone_still (s : State) (t next : Nat) :
    (State.descDone s t next).still = s.still := by
  grind [State.descDone, State.still, State.modEmber_still, State.modCtx_still]
theorem State.waitServed_still (s : State) (t : Nat) :
    (State.waitServed s t).still = s.still := by
  grind [State.waitServed, State.still, State.descDone_still]
theorem State.waitLeaves_still (s : State) (w : SyncWait) :
    (State.waitLeaves s w).still = s.still := by
  grind [State.waitLeaves, State.still]
theorem State.endWait_still (s : State) (w : SyncWait) (status : Nat) (value : Bytes) :
    (State.endWait s w status value).still = s.still := by
  grind [State.endWait, State.still, State.waitLeaves_still, State.modEmber_still, State.waitServed_still, State.finish_still]
theorem State.releaseWaits_still (s : State) (w : Nat) (value : Bytes) (y0 : List SyncWait) :
    (State.releaseWaits s w value y0).still = s.still := by
  induction y0 generalizing s with
  | nil => grind [State.releaseWaits]
  | cons a t ih => grind [State.releaseWaits, State.still, State.endWait_still, State.setWord_still]
theorem State.filled_still (s : State) (w : Nat) (value : Bytes) :
    (State.filled s w value).still = s.still := by
  grind [State.filled, State.still, State.fireArm_still, State.setWord_still, State.releaseWaits_still, foldl_still, foldl_pair_still]
theorem State.shadowError_fixed (s : State) (w h : Nat) :
    (State.shadowError s w h).fixed = s.fixed := by
  grind [State.shadowError, State.fixed, State.still, State.modChan_still, State.rise_still, State.log_still, State.lineCinder_fixed, State.setWord_still, foldl_fixed, foldl_pair_fixed]
theorem State.shadowError_memOk (s : State) (w h : Nat) :
    s.memOk → (State.shadowError s w h).memOk := by
  grind [State.shadowError, State.memOk, State.still, State.modChan_still, State.rise_still, State.log_still, State.lineCinder_memOk, State.setWord_still, foldl_memOk, foldl_pair_memOk]
theorem State.shadowFault_still (s : State) (w : Nat) :
    (State.shadowFault s w).still = s.still := by
  grind [State.shadowFault, State.still, State.injected_still, State.setWord_still]
theorem State.readWord_fixed (s : State) (w holder : Nat) :
    (State.readWord s w holder).1.fixed = s.fixed := by
  grind [State.readWord, State.fixed, State.homeRead_fixed]
theorem State.readWord_memOk (s : State) (w holder : Nat) :
    s.memOk → (State.readWord s w holder).1.memOk := by
  grind [State.readWord, State.memOk, State.homeRead_memOk]
theorem State.writeWord_fixed (s : State) (w holder : Nat) (v : Bytes) :
    (State.writeWord s w holder v).1.fixed = s.fixed := by
  grind [State.writeWord, State.fixed, State.homePartial_fixed]
theorem State.writeWord_memOk (s : State) (w holder : Nat) (v : Bytes) :
    s.memOk → (State.writeWord s w holder v).1.memOk := by
  grind [State.writeWord, State.memOk, State.homePartial_memOk]
theorem State.syncOp_fixed (s : State) (m : Req) :
    (State.syncOp s m).1.fixed = s.fixed := by
  unfold State.syncOp
  split <;> grind [State.fixed, State.still, State.setWord_still, State.setFlag_still, State.filled_still, State.shadowError_fixed, State.shadowFault_still, State.readWord_fixed, State.writeWord_fixed]
theorem State.syncOp_memOk (s : State) (m : Req) :
    s.memOk → (State.syncOp s m).1.memOk := by
  unfold State.syncOp
  split <;> grind [State.memOk, State.still, State.setWord_still, State.setFlag_still, State.filled_still, State.shadowError_memOk, State.shadowFault_still, State.readWord_memOk, State.writeWord_memOk]
theorem State.popHead_still (s : State) (l : Nat) :
    (State.popHead s l).still = s.still := by
  grind [State.popHead, State.still, State.modLock_still]
theorem State.headReads_still (s : State) (l : Nat) :
    (State.headReads s l).still = s.still := by
  grind [State.headReads, State.still, State.modLock_still]
theorem State.grantLine_still (s : State) (l ep way : Nat) (st : LineState) :
    (State.grantLine s l ep way st).still = s.still := by
  grind [State.grantLine, State.still, State.setDir_still]
theorem State.fetch_still (s : State) (l : Nat) (m : Req) :
    (State.fetch s l m).1.still = s.still := by
  grind [State.fetch, State.still, State.modChan_still, State.headReads_still]
theorem State.serveRead_still (s : State) (l : Nat) (m : Req) (ok : State → Bytes → State) (h_ok : ∀ (x0 : State) (x1 : Bytes), (ok x0 x1).still = x0.still) :
    (State.serveRead s l m ok).1.still = s.still := by
  grind [State.serveRead, State.still, State.finish_still, State.popHead_still, State.fetch_still]
theorem State.awaitWay_still (s : State) (l : Nat) (m : Req) :
    (State.awaitWay s l m).1.still = s.still := by
  grind [State.awaitWay, State.still, State.modSlice_still]
theorem State.needWay_still (s : State) (l : Nat) (m : Req) (ok : State → Nat → State × List Nat) (h_ok : ∀ (x0 : State) (x1 : Nat), (ok x0 x1).1.still = x0.still) :
    (State.needWay s l m ok).1.still = s.still := by
  unfold State.needWay
  try dsimp only
  repeat' split
  all_goals grind (splits := 12) [State.still, State.awaitWay_still, State.modLock_still, foldl_still, foldl_pair_still]
theorem State.serveWrite_still (s : State) (l : Nat) (m : Req) :
    (State.serveWrite s l m).1.still = s.still := by
  grind [State.serveWrite, State.still, State.modChan_still, State.setDir_still, State.finish_still, State.popHead_still, State.headReads_still]
theorem State.perform_fixed (s : State) (l : Nat) (m : Req) :
    (State.perform s l m).1.fixed = s.fixed := by
  grind [State.perform, State.fixed, State.still, State.setDir_still, State.addSharer_still, State.touch_still, State.finish_still, State.lineWrite_fixed, State.syncOp_fixed, State.popHead_still, State.grantLine_still, State.fetch_still, State.serveRead_still, State.needWay_still, State.serveWrite_still]
theorem State.perform_memOk (s : State) (l : Nat) (m : Req) :
    s.memOk → (State.perform s l m).1.memOk := by
  grind [State.perform, State.memOk, State.still, State.setDir_still, State.addSharer_still, State.touch_still, State.finish_still, State.lineWrite_memOk, State.syncOp_memOk, State.popHead_still, State.grantLine_still, State.fetch_still, State.serveRead_still, State.needWay_still, State.serveWrite_still]
theorem State.serveOnce_fixed (s : State) (l : Nat) :
    (State.serveOnce s l).1.fixed = s.fixed := by
  grind [State.serveOnce, State.fixed, State.still, State.sendProbes_still, State.perform_fixed]
theorem State.serveOnce_memOk (s : State) (l : Nat) :
    s.memOk → (State.serveOnce s l).1.memOk := by
  grind [State.serveOnce, State.memOk, State.still, State.sendProbes_still, State.perform_memOk]
theorem State.wake_still (s : State) (l : Nat) :
    (State.wake s l).1.still = s.still := by
  grind [State.wake, State.still]
theorem State.starvedVictim_still (s : State) (l : Nat) :
    (State.starvedVictim s l).1.still = s.still := by
  grind [State.starvedVictim, State.still, State.modSlice_still]
theorem State.serveWork_fixed (s : State) (y0 : Nat) (y1 : List Nat) :
    (State.serveWork s y0 y1).fixed = s.fixed := by
  induction y0 generalizing s y1 with
  | zero => grind [State.serveWork]
  | succ n ih => cases y1 <;> grind [State.serveWork, State.fixed, State.still, State.serveOnce_fixed, State.starvedVictim_still, State.wake_still]
theorem State.serveWork_memOk (s : State) (y0 : Nat) (y1 : List Nat) :
    s.memOk → (State.serveWork s y0 y1).memOk := by
  induction y0 generalizing s y1 with
  | zero => grind [State.serveWork]
  | succ n ih => cases y1 <;> grind [State.serveWork, State.memOk, State.still, State.serveOnce_memOk, State.starvedVictim_still, State.wake_still]
theorem State.serve_fixed (s : State) (l : Nat) :
    (State.serve s l).fixed = s.fixed := by
  grind [State.serve, State.fixed, State.serveWork_fixed]
theorem State.serve_memOk (s : State) (l : Nat) :
    s.memOk → (State.serve s l).memOk := by
  grind [State.serve, State.memOk, State.serveWork_memOk]
theorem State.enqueue_still (s : State) (l : Nat) (m : Req) :
    (State.enqueue s l m).1.still = s.still := by
  grind [State.enqueue, State.still]
theorem State.resendCheck_still (s : State) (m : Req) :
    ∀ t, (State.resendCheck s m = .returned t ∨ State.resendCheck s m = .taken t) → t.still = s.still := by
  grind [State.resendCheck, State.still]
theorem State.takeMesh_still (s : State) (n : Nat) :
    (State.takeMesh s n).still = s.still := by
  grind [State.takeMesh, State.still]
theorem State.arrive_fixed (s : State) (n : Nat) (m : Req) : (State.arrive s n m).fixed = s.fixed := by
  have hr := State.resendCheck_still s m
  unfold State.arrive
  dsimp only
  repeat' split
  all_goals grind [State.fixed, State.still, State.takeMesh_still, State.finish_still, State.enqueue_still, State.serve_fixed]
theorem State.arrive_memOk (s : State) (n : Nat) (m : Req) : s.memOk → (State.arrive s n m).memOk := by
  have hr := State.resendCheck_still s m
  unfold State.arrive
  dsimp only
  repeat' split
  all_goals grind [State.memOk, State.still, State.takeMesh_still, State.finish_still, State.enqueue_still, State.serve_memOk]
theorem State.lateAnswer_still (s : State) (l ep : Nat) :
    (State.lateAnswer s l ep).still = s.still := by
  grind [State.lateAnswer, State.still, State.modSlice_still, State.log_still]
theorem State.queueLine_fixed (s : State) (l ctx : Nat) (d : Option Bytes) :
    (State.queueLine s l ctx d).fixed = s.fixed := by
  unfold State.queueLine
  try extract_lets
  repeat' split
  all_goals grind (splits := 12) [State.fixed, State.still, fixed_of_still, State.lineWrite_fixed, State.makeCinder_fixed, State.modChan_still, foldl_fixed, foldl_pair_fixed]
theorem State.queueLine_memOk (s : State) (l ctx : Nat) (d : Option Bytes) :
    s.memOk → (State.queueLine s l ctx d).memOk := by
  intro hs
  unfold State.queueLine
  try extract_lets
  repeat' split
  all_goals grind (splits := 12) [State.memOk, State.still, memOk_of_still, State.lineWrite_memOk, State.makeCinder_memOk, State.modChan_still, foldl_memOk, foldl_pair_memOk]
theorem State.ownerData_fixed (s : State) (l : Nat) (k : Lock) (data : Bytes) :
    (State.ownerData s l k data).fixed = s.fixed := by
  grind [State.ownerData, State.fixed, State.still, fixed_of_still, State.queueLine_fixed]
theorem State.ownerData_memOk (s : State) (l : Nat) (k : Lock) (data : Bytes) :
    s.memOk → (State.ownerData s l k data).memOk := by
  grind [State.ownerData, State.memOk, State.still, memOk_of_still, State.queueLine_memOk]
theorem State.afterAnswer_still (s : State) (l : Nat) (p : Probe) (kept : Bool) :
    (State.afterAnswer s l p kept).still = s.still := by
  grind [State.afterAnswer, State.still, State.setDir_still]
theorem State.countSweep_still (s : State) (l : Nat) (k : Lock) (p : Probe) (lost : Bool) :
    (State.countSweep s l k p lost).still = s.still := by
  grind [State.countSweep, State.still, State.modRegion_still]
theorem State.settle_fixed (s : State) (l : Nat) (p : Probe) :
    (State.settle s l p).fixed = s.fixed := by
  grind [State.settle, State.fixed, State.still, State.setDir_still, State.modLock_still, State.serve_fixed]
theorem State.settle_memOk (s : State) (l : Nat) (p : Probe) :
    s.memOk → (State.settle s l p).memOk := by
  grind [State.settle, State.memOk, State.still, State.setDir_still, State.modLock_still, State.serve_memOk]
theorem State.answered_fixed (s : State) (n : Nat) (m : Req) :
    (State.answered s n m).fixed = s.fixed := by
  grind [State.answered, State.fixed, State.still, State.takeMesh_still, State.lateAnswer_still, State.ownerData_fixed, State.afterAnswer_still, State.countSweep_still, State.settle_fixed]
theorem State.answered_memOk (s : State) (n : Nat) (m : Req) :
    s.memOk → (State.answered s n m).memOk := by
  grind [State.answered, State.memOk, State.still, State.takeMesh_still, State.lateAnswer_still, State.ownerData_memOk, State.afterAnswer_still, State.countSweep_still, State.settle_memOk]
theorem State.ownerReturns_fixed (s : State) (n : Nat) (m : Req) :
    (State.ownerReturns s n m).fixed = s.fixed := by
  grind [State.ownerReturns, State.fixed, State.still, fixed_of_still, State.resendCheck_still, State.takeMesh_still, State.ownerData_fixed, State.countSweep_still, State.finish_still, State.setDir_still, State.settle_fixed, State.queueLine_fixed, State.wake_still, State.serveWork_fixed, State.lateAnswer_still]
theorem State.ownerReturns_memOk (s : State) (n : Nat) (m : Req) :
    s.memOk → (State.ownerReturns s n m).memOk := by
  grind [State.ownerReturns, State.memOk, State.still, memOk_of_still, State.resendCheck_still, State.takeMesh_still, State.ownerData_memOk, State.countSweep_still, State.finish_still, State.setDir_still, State.settle_memOk, State.queueLine_memOk, State.wake_still, State.serveWork_memOk, State.lateAnswer_still]
theorem State.recallExpired_fixed (s : State) (l : Nat) :
    (State.recallExpired s l).fixed = s.fixed := by
  unfold State.recallExpired
  try extract_lets
  repeat' split
  all_goals (try extract_lets)
  all_goals grind (splits := 12) [State.fixed, State.still, fixed_of_still, State.answered_fixed, State.modSlice_still, State.rise_still, State.afterAnswer_still, State.countSweep_still, State.queueLine_fixed, State.setDir_still, State.log_still, State.modLock_still, State.finish_still, State.serve_fixed, foldl_fixed, foldl_pair_fixed]
theorem State.recallExpired_memOk (s : State) (l : Nat) :
    s.memOk → (State.recallExpired s l).memOk := by
  intro hs
  unfold State.recallExpired
  try extract_lets
  repeat' split
  all_goals (try extract_lets)
  all_goals grind (splits := 12) [State.memOk, State.still, memOk_of_still, State.answered_memOk, State.modSlice_still, State.rise_still, State.afterAnswer_still, State.countSweep_still, State.queueLine_memOk, State.setDir_still, State.log_still, State.modLock_still, State.finish_still, State.serve_memOk, foldl_memOk, foldl_pair_memOk]
/-! ## Operands -/

theorem State.modCmd_still (s : State) (c t : Nat) (f : Cmd → Cmd) :
    (State.modCmd s c t f).still = s.still := by
  grind [State.modCmd, State.still]
theorem State.hand_still (s : State) (c t status : Nat) (results : Bytes) (isFinal : Bool) :
    (State.hand s c t status results isFinal).still = s.still := by
  grind [State.hand, State.still]
theorem State.final_still (s : State) (k : Cmd) (status : Nat) (results : Bytes) :
    (State.final s k status results).still = s.still := by
  grind [State.final, State.still, State.modCmd_still, State.hand_still]
theorem State.refuse_still (s : State) (k : Cmd) (status : Nat) (byte : Nat) (more : Bytes) :
    (State.refuse s k status byte more).still = s.still := by
  grind [State.refuse, State.still, State.final_still]
theorem State.running_still (s : State) (k : Cmd) :
    (State.running s k).still = s.still := by
  grind [State.running, State.still, State.modCmd_still, State.hand_still]
theorem State.withTaken_still (s : State) (c t op : Nat) (f : Cmd → State → State) (h_f : ∀ (x0 : Cmd) (x1 : State), (f x0 x1).still = x1.still) :
    (State.withTaken s c t op f).still = s.still := by
  grind [State.withTaken, State.still]
theorem State.withRunning_still (s : State) (c t op : Nat) (f : Cmd → State → State) (h_f : ∀ (x0 : Cmd) (x1 : State), (f x0 x1).still = x1.still) :
    (State.withRunning s c t op f).still = s.still := by
  grind [State.withRunning, State.still, State.running_still]
theorem State.internal_fixed (s : State) (m : Req) :
    (State.internal s m).fixed = s.fixed := by
  grind [State.internal, State.fixed, State.serve_fixed]
theorem State.internal_memOk (s : State) (m : Req) :
    s.memOk → (State.internal s m).memOk := by
  grind [State.internal, State.memOk, State.serve_memOk]
theorem State.readyToRead_fixed (s : State) (l h : Nat) :
    (State.readyToRead s l h).1.fixed = s.fixed := by
  grind [State.readyToRead, State.fixed, State.internal_fixed]
theorem State.readyToRead_memOk (s : State) (l h : Nat) :
    s.memOk → (State.readyToRead s l h).1.memOk := by
  grind [State.readyToRead, State.memOk, State.internal_memOk]
theorem State.readLines_fixed (s : State) (h : Nat) (y0 y1 : Nat) :
    (State.readLines s h y0 y1).1.fixed = s.fixed := by
  induction y1 generalizing s y0 with
  | zero => grind [State.readLines]
  | succ n ih =>
    unfold State.readLines
    repeat' split
    all_goals grind [State.readyToRead_fixed, State.homeRead_fixed]
theorem State.readLines_memOk (s : State) (h : Nat) (y0 y1 : Nat) :
    s.memOk → (State.readLines s h y0 y1).1.memOk := by
  induction y1 generalizing s y0 with
  | zero => grind [State.readLines]
  | succ n ih =>
    unfold State.readLines
    repeat' split
    all_goals grind [State.readyToRead_memOk, State.homeRead_memOk]
theorem State.poolRead_fixed (s : State) (h a len right : Nat) :
    (State.poolRead s h a len right).1.fixed = s.fixed := by
  grind [State.poolRead, State.fixed, State.readLines_fixed]
theorem State.poolRead_memOk (s : State) (h a len right : Nat) :
    s.memOk → (State.poolRead s h a len right).1.memOk := by
  grind [State.poolRead, State.memOk, State.readLines_memOk]
theorem State.poolWrite_fixed (s : State) (h : Nat) (y0 y1 : Nat) (y2 : Bytes) :
    (State.poolWrite s h y0 y1 y2).1.fixed = s.fixed := by
  induction y0 generalizing s y1 y2 with
  | zero => grind [State.poolWrite]
  | succ n ih => grind [State.poolWrite, State.homeWrite_fixed, State.homePartial_fixed, State.internal_fixed]
theorem State.poolWrite_memOk (s : State) (h : Nat) (y0 y1 : Nat) (y2 : Bytes) :
    s.memOk → (State.poolWrite s h y0 y1 y2).1.memOk := by
  induction y0 generalizing s y1 y2 with
  | zero => grind [State.poolWrite]
  | succ n ih => grind [State.poolWrite, State.homeWrite_memOk, State.homePartial_memOk, State.internal_memOk]
theorem State.readIn_fixed (s : State) (k : Cmd) (addr len : Nat) (host : Option Bytes) :
    (State.readIn s k addr len host).1.fixed = s.fixed := by
  unfold State.readIn
  repeat' split
  all_goals grind [State.poolRead_fixed]
theorem State.readIn_memOk (s : State) (k : Cmd) (addr len : Nat) (host : Option Bytes) :
    s.memOk → (State.readIn s k addr len host).1.memOk := by
  unfold State.readIn
  repeat' split
  all_goals grind [State.poolRead_memOk]
theorem State.writeOut_fixed (s : State) (k : Cmd) (addr : Nat) (d : Bytes) (hostOk : Bool) :
    (State.writeOut s k addr d hostOk).1.fixed = s.fixed := by
  grind [State.writeOut, State.fixed, State.still, State.emit_still, State.poolWrite_fixed]
theorem State.writeOut_memOk (s : State) (k : Cmd) (addr : Nat) (d : Bytes) (hostOk : Bool) :
    s.memOk → (State.writeOut s k addr d hostOk).1.memOk := by
  grind [State.writeOut, State.memOk, State.still, State.emit_still, State.poolWrite_memOk]

end Sys2Proof.Machine
end

