-- ==== Sys2Proof/Laws/FrameAccess.lean ====
section
/-! SUPPORT. What command transport, access control and the rows of homes and channels leave unchanged (`still`: the queue, the fuses and the memory; `fixed`: the queue and the fuses), and that
they keep memory in its canonical form (`memOk`). One lemma an operation; the rows cite these and unfold nothing. -/

set_option Elab.async false

namespace Sys2Proof.Machine

/-! ## Transport -/

theorem State.writeReply_fixed (s : State) (h : Nat) (b : Bytes) (d : Bytes) :
    (State.writeReply s h b d).fixed = s.fixed := by
  grind [State.writeReply, State.fixed, State.still, State.emit_still, State.undeliver_still, State.request_still, State.internal_fixed]
theorem State.writeReply_memOk (s : State) (h : Nat) (b : Bytes) (d : Bytes) :
    s.memOk → (State.writeReply s h b d).memOk := by
  grind [State.writeReply, State.memOk, State.still, State.emit_still, State.undeliver_still, State.request_still, State.internal_memOk]
theorem State.intakeReply_fixed (s : State) (h : Nat) (b : Bytes) (status byte5 : Nat) (results : Bytes) :
    (State.intakeReply s h b status byte5 results).fixed = s.fixed := by
  grind [State.intakeReply, State.fixed, State.still, State.dropReply_still, State.writeReply_fixed]
theorem State.intakeReply_memOk (s : State) (h : Nat) (b : Bytes) (status byte5 : Nat) (results : Bytes) :
    s.memOk → (State.intakeReply s h b status byte5 results).memOk := by
  grind [State.intakeReply, State.memOk, State.still, State.dropReply_still, State.writeReply_memOk]
theorem State.intakeRefuse_fixed (s : State) (h : Nat) (b : Bytes) (status byte : Nat) :
    (State.intakeRefuse s h b status byte).fixed = s.fixed := by
  grind [State.intakeRefuse, State.fixed, State.intakeReply_fixed]
theorem State.intakeRefuse_memOk (s : State) (h : Nat) (b : Bytes) (status byte : Nat) :
    s.memOk → (State.intakeRefuse s h b status byte).memOk := by
  grind [State.intakeRefuse, State.memOk, State.intakeReply_memOk]
theorem State.badCheck_fixed (s : State) (h c : Nat) (b : Bytes) :
    (State.badCheck s h c b).fixed = s.fixed := by
  grind [State.badCheck, State.fixed, State.still, State.modStage_still, State.dropReply_still, State.intakeRefuse_fixed]
theorem State.badCheck_memOk (s : State) (h c : Nat) (b : Bytes) :
    s.memOk → (State.badCheck s h c b).memOk := by
  grind [State.badCheck, State.memOk, State.still, State.modStage_still, State.dropReply_still, State.intakeRefuse_memOk]
theorem State.acceptCmd_still (s : State) (h c : Nat) (via : Sender) (b : Bytes) :
    (State.acceptCmd s h c via b).still = s.still := by
  grind [State.acceptCmd, State.still, State.modCtx_still, State.modStage_still]
theorem State.intakeChecks_fixed (s : State) (h c : Nat) (via : Sender) (b : Bytes) :
    (State.intakeChecks s h c via b).fixed = s.fixed := by
  unfold State.intakeChecks
  simp only [apply_ite State.fixed, State.badCheck_fixed, State.intakeRefuse_fixed, State.intakeReply_fixed]
  repeat' split
  all_goals first
    | rfl
    | simp only [State.intakeRefuse_fixed, State.intakeReply_fixed, fixed_of_still (State.acceptCmd_still _ _ _ _ _), fixed_of_still (State.modStage_still _ _ _)]
theorem State.intakeChecks_memOk (s : State) (h c : Nat) (via : Sender) (b : Bytes) :
    s.memOk → (State.intakeChecks s h c via b).memOk := by
  intro hs
  unfold State.intakeChecks
  simp only [apply_ite State.memOk, State.badCheck_memOk, State.intakeRefuse_memOk, State.intakeReply_memOk, hs]
  repeat' split
  all_goals first
    | trivial
    | exact State.intakeReply_memOk _ _ _ _ _ _ (memOk_of_still (State.modStage_still _ _ _) hs)
    | exact State.intakeReply_memOk _ _ _ _ _ _ hs
theorem State.discardWrite_still (s : State) (h : Nat) (shape : Bool) :
    (State.discardWrite s h shape).still = s.still := by
  grind [State.discardWrite, State.still, State.modStage_still, State.rise_still]
theorem State.intake_fixed (s : State) (via : Sender) (offset : Nat) (b : Bytes) :
    (State.intake s via offset b).fixed = s.fixed := by
  unfold State.intake
  extract_lets
  grind [State.fixed, State.still, State.injected_still, State.source_still, State.intakeChecks_fixed, State.discardWrite_still]
theorem State.intake_memOk (s : State) (via : Sender) (offset : Nat) (b : Bytes) :
    s.memOk → (State.intake s via offset b).memOk := by
  unfold State.intake
  extract_lets
  grind [State.memOk, State.still, State.injected_still, State.source_still, State.intakeChecks_memOk, State.discardWrite_still]
theorem State.handOver_fixed (s : State) (h : Nat) (o : CuOut) :
    (State.handOver s h o).fixed = s.fixed := by
  grind [State.handOver, State.fixed, State.still, State.final_still, State.writeReply_fixed]
theorem State.handOver_memOk (s : State) (h : Nat) (o : CuOut) :
    s.memOk → (State.handOver s h o).memOk := by
  grind [State.handOver, State.memOk, State.still, State.final_still, State.writeReply_memOk]

/-! ## Access -/

theorem State.modCache_still (s : State) (p : Nat) (f : List CacheEnt → List CacheEnt) :
    (State.modCache s p f).still = s.still := by
  grind [State.modCache, State.still]
theorem State.endAtPoint_still (s : State) (m : Req) (reason : Nat) :
    (State.endAtPoint s m reason).still = s.still := by
  grind [State.endAtPoint, State.still, State.answer_still]
theorem State.reachHome_still (s : State) (m : Req) (input : Nat) :
    (State.reachHome s m input).still = s.still := by
  grind [State.reachHome, State.still]
theorem State.toHome_still (s : State) (m : Req) :
    (State.toHome s m).still = s.still := by
  grind [State.toHome, State.still, State.reachHome_still]
theorem State.stamp_still (s : State) (p : Nat) (m : Req) :
    (State.stamp s p m).still = s.still := by
  grind [State.stamp, State.still, State.endAtPoint_still, State.modCache_still, State.toHome_still]
theorem State.landed_still (s : State) (m : Req) :
    (State.landed s m).still = s.still := by
  grind [State.landed, State.still, State.modCache_still]
theorem State.dropArms_still (s : State) (h r : Nat) :
    (State.dropArms s h r).still = s.still := by
  grind [State.dropArms, State.still, State.modPlan_still, State.log_still, State.running_still, foldl_still, foldl_pair_still]
theorem State.endWaits_still (s : State) (which : Req → Bool) :
    (State.endWaits s which).still = s.still := by
  grind [State.endWaits, State.still, State.modSlice_still, State.endWait_still, foldl_still, foldl_pair_still]
theorem State.sweepHolder_fixed (s : State) (h r : Nat) (cs : List Nat) :
    (State.sweepHolder s h r cs).fixed = s.fixed := by
  grind [State.sweepHolder, State.fixed, State.still, State.internal_fixed, State.endWaits_still, foldl_fixed, foldl_pair_fixed]
theorem State.sweepHolder_memOk (s : State) (h r : Nat) (cs : List Nat) :
    s.memOk → (State.sweepHolder s h r cs).memOk := by
  grind [State.sweepHolder, State.memOk, State.still, State.internal_memOk, State.endWaits_still, foldl_memOk, foldl_pair_memOk]
theorem State.dcEvent_still (s : State) (kind : Nat) (e : Extent) :
    (State.dcEvent s kind e).still = s.still := by
  grind [State.dcEvent, State.still, State.emit_still, State.cxlEvent_still]
theorem State.epochStep_fixed (s : State) (n : Nat) (r : Region) (st : Step) :
    (State.epochStep s n r st).fixed = s.fixed := by
  grind [State.epochStep, State.fixed, State.still, State.modCord_still, State.modRegion_still, State.modGrant_still, State.dropArms_still, State.sweepHolder_fixed, State.dcEvent_still, foldl_fixed, foldl_pair_fixed]
theorem State.epochStep_memOk (s : State) (n : Nat) (r : Region) (st : Step) :
    s.memOk → (State.epochStep s n r st).memOk := by
  grind [State.epochStep, State.memOk, State.still, State.modCord_still, State.modRegion_still, State.modGrant_still, State.dropArms_still, State.sweepHolder_memOk, State.dcEvent_still, foldl_memOk, foldl_pair_memOk]
theorem State.startZeroise_still (s : State) (n : Nat) :
    (State.startZeroise s n).still = s.still := by
  grind [State.startZeroise, State.still, State.modCord_still]
theorem State.prunePartitions_still (s : State) :
    (State.prunePartitions s).still = s.still := by
  grind [State.prunePartitions, State.still, State.modSlice_still, foldl_still, foldl_pair_still]
theorem State.settleCords_still (s : State) :
    (State.settleCords s).still = s.still := by
  grind [State.settleCords, State.still, State.final_still, State.prunePartitions_still, foldl_still, foldl_pair_still]
theorem State.reclaim_still (s : State) (n : Nat) (r : Region) :
    (State.reclaim s n r).still = s.still := by
  grind [State.reclaim, State.still, State.modChan_still, State.modCord_still, State.modRegion_still, State.refuse_still, State.running_still, State.startZeroise_still, State.settleCords_still, foldl_still, foldl_pair_still]
theorem State.queueStep_still (s : State) (r : Nat) (st : Step) :
    (State.queueStep s r st).still = s.still := by
  grind [State.queueStep, State.still, State.modRegion_still, State.modGrant_still]
theorem State.injectLapse_still (s : State) :
    (State.injectLapse s).still = s.still := by
  grind [State.injectLapse, State.still, State.log_still, State.injected_still, State.queueStep_still]
theorem State.recallCord_fixed (s : State) (n : Nat) :
    (State.recallCord s n).fixed = s.fixed := by
  grind [State.recallCord, State.fixed, State.internal_fixed, foldl_fixed, foldl_pair_fixed]
theorem State.recallCord_memOk (s : State) (n : Nat) :
    s.memOk → (State.recallCord s n).memOk := by
  grind [State.recallCord, State.memOk, State.internal_memOk, foldl_memOk, foldl_pair_memOk]
theorem State.clearShadow_still (s : State) (lo hi : Nat) :
    (State.clearShadow s lo hi).still = s.still := by
  grind [State.clearShadow, State.still]
theorem State.putOne_fixed (s : State) (l : Nat) (d : Option Bytes) :
    (State.putOne s l d).fixed = s.fixed := by
  unfold State.putOne
  split <;> grind [State.fixed, State.writeLine_fixed, State.makeCinder_fixed]
theorem State.putOne_memOk (s : State) (l : Nat) (d : Option Bytes) :
    s.memOk → (State.putOne s l d).memOk := by
  unfold State.putOne
  split <;> grind [State.memOk, State.writeLine_memOk, State.makeCinder_memOk]
theorem State.putCopies_fixed (s : State) (blk : Nat) (ds : List Nat) (i : Nat) (d : Option Bytes) :
    (State.putCopies s blk ds i d).fixed = s.fixed :=
  foldl_fixed _ (fun _ _ => State.putOne_fixed _ _ _) _ _
theorem State.putCopies_memOk (s : State) (blk : Nat) (ds : List Nat) (i : Nat) (d : Option Bytes) :
    s.memOk → (State.putCopies s blk ds i d).memOk :=
  foldl_memOk _ (fun _ _ => State.putOne_memOk _ _ _) _ _
theorem State.copyLine_fixed (a : State × Nat × Nat) (l blk : Nat) (ds : List Nat) (i : Nat) :
    (State.copyLine a l blk ds i).1.fixed = a.1.fixed := by
  have := State.readLine_fixed a.1 l none []
  unfold State.copyLine
  split <;> simp_all only [State.putCopies_fixed]
theorem State.copyLine_memOk (a : State × Nat × Nat) (l blk : Nat) (ds : List Nat) (i : Nat) :
    a.1.memOk → (State.copyLine a l blk ds i).1.memOk := by
  intro h
  have := State.readLine_memOk a.1 l none [] h
  unfold State.copyLine
  split <;> simp_all only [State.putCopies_memOk]
theorem State.flushFrom_fixed (s : State) (l0 : Nat) (L : List Nat) :
    (State.flushFrom s l0 L).fixed = s.fixed := by
  grind [State.flushFrom, State.fixed, State.flushLine_fixed, foldl_fixed, foldl_pair_fixed]
theorem State.flushFrom_memOk (s : State) (l0 : Nat) (L : List Nat) :
    s.memOk → (State.flushFrom s l0 L).memOk := by
  grind [State.flushFrom, State.memOk, State.flushLine_memOk, foldl_memOk, foldl_pair_memOk]
theorem State.copyLines_fixed (s : State) (L : List Nat) (l0 : Nat) (fenced : Bool) (blk : Nat) (ds : List Nat) :
    (State.copyLines s L l0 fenced blk ds).1.fixed = s.fixed := by
  unfold State.copyLines
  split
  · exact foldl_fixed _ (fun t i => State.putCopies_fixed _ _ _ _ _) _ _
  · dsimp only
    split
    · exact State.flushFrom_fixed _ _ _
    · exact (foldl_pair_fixed _ (fun a i => State.copyLine_fixed _ _ _ _ _) _ _).trans (State.flushFrom_fixed _ _ _)
theorem State.copyLines_memOk (s : State) (L : List Nat) (l0 : Nat) (fenced : Bool) (blk : Nat) (ds : List Nat) :
    s.memOk → (State.copyLines s L l0 fenced blk ds).1.memOk := by
  intro hs
  unfold State.copyLines
  split
  · exact foldl_memOk _ (fun t i => State.putCopies_memOk _ _ _ _ _) _ _ hs
  · dsimp only
    split
    · exact State.flushFrom_memOk _ _ _ hs
    · exact foldl_pair_memOk _ (fun a i => State.copyLine_memOk _ _ _ _ _) _ _ (State.flushFrom_memOk _ _ _ hs)
theorem State.copyBlock_fixed (s : State) (n blk : Nat) (ds : List Nat) : (State.copyBlock s n blk ds).1.fixed = s.fixed :=
  State.copyLines_fixed _ _ _ _ _ _
theorem State.copyBlock_memOk (s : State) (n blk : Nat) (ds : List Nat) : s.memOk → (State.copyBlock s n blk ds).1.memOk :=
  State.copyLines_memOk _ _ _ _ _ _
theorem State.moveSync_still (s : State) (n d : Nat) :
    (State.moveSync s n d).still = s.still := by
  grind [State.moveSync, State.still, State.clearShadow_still, foldl_still, foldl_pair_still]
theorem State.cutoverReplies_still (s : State) (n rn : Nat) (c : Cord) :
    (State.cutoverReplies s n rn c).still = s.still := by
  grind [State.cutoverReplies, State.still, State.modChan_still, State.modRegion_still, State.final_still, State.running_still]

/-! ## HomeRows -/

theorem State.meshOp_still (s : State) (n : Nat) (op : MsgOp) (f : Req → State) (h : ∀ m, (f m).still = s.still) :
    (State.meshOp s n op f).still = s.still := by
  grind [State.meshOp]
theorem State.poolAdmit_still (s : State) (n : Nat) (m : Req) :
    (State.poolAdmit s n m).still = s.still := by
  grind [State.poolAdmit, State.still, State.takeMesh_still]
theorem State.takeAnswer_fixed (s : State) (n : Nat) (m : Req) :
    (State.takeAnswer s n m).fixed = s.fixed := by
  grind [State.takeAnswer, State.fixed, State.answered_fixed, State.ownerReturns_fixed]
theorem State.takeAnswer_memOk (s : State) (n : Nat) (m : Req) :
    s.memOk → (State.takeAnswer s n m).memOk := by
  grind [State.takeAnswer, State.memOk, State.answered_memOk, State.ownerReturns_memOk]
theorem State.answerComes_fixed (s : State) (n : Nat) (m : Req) :
    (State.answerComes s n m).fixed = s.fixed := by
  grind [State.answerComes, State.fixed, State.still, State.poolAdmit_still, State.takeAnswer_fixed]
theorem State.answerComes_memOk (s : State) (n : Nat) (m : Req) :
    s.memOk → (State.answerComes s n m).memOk := by
  grind [State.answerComes, State.memOk, State.still, State.poolAdmit_still, State.takeAnswer_memOk]
theorem State.drainAnswers_fixed (s : State) (i : Nat) :
    (State.drainAnswers s i).fixed = s.fixed := by
  grind [State.drainAnswers, State.fixed, State.takeAnswer_fixed, foldl_fixed, foldl_pair_fixed]
theorem State.drainAnswers_memOk (s : State) (i : Nat) :
    s.memOk → (State.drainAnswers s i).memOk := by
  grind [State.drainAnswers, State.memOk, State.takeAnswer_memOk, foldl_memOk, foldl_pair_memOk]
theorem State.resendProbe_still (s : State) (l : Nat) (p : Probe) :
    (State.resendProbe s l p).still = s.still := by
  grind [State.resendProbe, State.still, State.source_still]
theorem State.headDone_fixed (s : State) (l : Nat) (data : Option Bytes) (failed : Option Nat) :
    (State.headDone s l data failed).fixed = s.fixed := by
  grind [State.headDone, State.fixed, State.still, State.modLock_still, State.serve_fixed]
theorem State.headDone_memOk (s : State) (l : Nat) (data : Option Bytes) (failed : Option Nat) :
    s.memOk → (State.headDone s l data failed).memOk := by
  grind [State.headDone, State.memOk, State.still, State.modLock_still, State.serve_memOk]

/-! ## ChannelRows -/

theorem State.deliver_fixed (s : State) (q : MemReq) (data : Option Bytes) (failed : Option Nat) :
    (State.deliver s q data failed).fixed = s.fixed := by
  grind [State.deliver, State.fixed, State.still, fixed_of_still, State.headDone_fixed, State.serve_fixed]
theorem State.deliver_memOk (s : State) (q : MemReq) (data : Option Bytes) (failed : Option Nat) :
    s.memOk → (State.deliver s q data failed).memOk := by
  grind [State.deliver, State.memOk, State.still, memOk_of_still, State.headDone_memOk, State.serve_memOk]
theorem State.emptyChan_fixed (s : State) (g : Nat) :
    (State.emptyChan s g).fixed = s.fixed := by
  unfold State.emptyChan
  try extract_lets
  all_goals grind (splits := 12) [State.fixed, State.still, fixed_of_still, State.flushAll_fixed, State.bitmapWrite_still, State.modChan_still, foldl_fixed, foldl_pair_fixed]
theorem State.emptyChan_memOk (s : State) (g : Nat) :
    s.memOk → (State.emptyChan s g).memOk := by
  intro hs
  unfold State.emptyChan
  try extract_lets
  all_goals grind (splits := 12) [State.memOk, State.still, memOk_of_still, State.flushAll_memOk, State.bitmapWrite_still, State.modChan_still, foldl_memOk, foldl_pair_memOk]
theorem State.guardChan_fixed (s : State) (g : Nat) :
    (State.guardChan s g).fixed = s.fixed := by
  grind [State.guardChan, State.fixed, State.still, fixed_of_still, State.modChan_still, State.emptyChan_fixed]
theorem State.guardChan_memOk (s : State) (g : Nat) :
    s.memOk → (State.guardChan s g).memOk := by
  grind [State.guardChan, State.memOk, State.still, memOk_of_still, State.modChan_still, State.emptyChan_memOk]
theorem State.serveChan_fixed (s : State) (g : Nat) :
    (State.serveChan s g).fixed = s.fixed := by
  unfold State.serveChan
  try extract_lets
  all_goals grind (splits := 12) [State.fixed, State.still, fixed_of_still, State.serve_fixed, foldl_fixed, foldl_pair_fixed]
theorem State.serveChan_memOk (s : State) (g : Nat) :
    s.memOk → (State.serveChan s g).memOk := by
  intro hs
  unfold State.serveChan
  try extract_lets
  all_goals grind (splits := 12) [State.memOk, State.still, memOk_of_still, State.serve_memOk, foldl_memOk, foldl_pair_memOk]
theorem State.edgeChan_fixed (s : State) (g : Nat) :
    (State.edgeChan s g).fixed = s.fixed := by
  grind [State.edgeChan, State.fixed, State.still, fixed_of_still, State.emptyChan_fixed, State.modChan_still, State.serveChan_fixed]
theorem State.edgeChan_memOk (s : State) (g : Nat) :
    s.memOk → (State.edgeChan s g).memOk := by
  grind [State.edgeChan, State.memOk, State.still, memOk_of_still, State.emptyChan_memOk, State.modChan_still, State.serveChan_memOk]
theorem State.refEmergency_still (s : State) (g : Nat) :
    (State.refEmergency s g).still = s.still := by
  unfold State.refEmergency
  try extract_lets
  repeat' split
  all_goals grind (splits := 12) [State.still, State.modChan_still, State.source_still, State.rise_still, State.log_still, foldl_still, foldl_pair_still]
theorem State.calibrated_still (s : State) (w : Nat × Nat) :
    (State.calibrated s w).still = s.still := by
  grind [State.calibrated, State.still, State.final_still]
theorem State.calibrateTask_still (s : State) (g : Nat) (t : CalTask) (left : Nat) :
    (State.calibrateTask s g t left).1.still = s.still := by
  unfold State.calibrateTask
  repeat' split
  all_goals grind [State.still, State.modChan_still, State.calibrated_still, foldl_still]
theorem State.setDebt_still (s : State) (g : Nat) (d : Int) :
    (State.setDebt s g d).still = s.still := by
  grind [State.setDebt, State.still, State.modChan_still]
theorem State.maintainFor_still (s : State) (n m g len : Nat) :
    (State.maintainFor s n m g len).still = s.still := by
  simp only [State.maintainFor, State.setDebt_still, State.calibrateTask_still]
theorem State.maintain_still (s : State) (g len : Nat) :
    (State.maintain s g len).still = s.still := by
  grind [State.maintain, State.still, State.maintainFor_still]

/-! ## Schedule -/

theorem State.setParent_still (s : State) :
    (State.setParent s).still = s.still := by
  grind [State.setParent, State.still]
theorem State.gateRefuse_still (s : State) (k : Cmd) (st : Nat) (f : GateFail) :
    (State.gateRefuse s k st f).still = s.still := by
  grind [State.gateRefuse, State.still, State.refuse_still]

end Sys2Proof.Machine
end

