-- ==== Sys2Proof/Laws/FrameCommand.lean ====
section
/-! SUPPORT. What the commands on contexts and memory, and the walks of translation leave unchanged (`still`: the queue, the fuses and the memory; `fixed`: the queue and the fuses), and that
they keep memory in its canonical form (`memOk`). One lemma an operation; the rows cite these and unfold nothing. -/

set_option Elab.async false

namespace Sys2Proof.Machine

/-! ## CmdContext -/

theorem State.dropRuns_still (s : State) (c : Nat) :
    (State.dropRuns s c).still = s.still := by
  unfold State.dropRuns
  try extract_lets
  all_goals grind (splits := 12) [State.still, State.waitLeaves_still, foldl_still, foldl_pair_still]
theorem State.endCommands_still (s : State) (c : Nat) :
    (State.endCommands s c).still = s.still := by
  grind [State.endCommands, State.still, State.refuse_still, foldl_still, foldl_pair_still]
theorem State.measured_still (s : State) (c : Nat) (m : Meas) :
    (State.measured s c m).still = s.still := by
  grind [State.measured, State.still, State.modCtx_still, State.log_still]
theorem State.zeroPool_fixed (s : State) (a len : Nat) :
    (State.zeroPool s a len).fixed = s.fixed := by
  grind [State.zeroPool, State.fixed, State.zeroise_fixed, foldl_fixed, foldl_pair_fixed]
theorem State.zeroPool_memOk (s : State) (a len : Nat) :
    s.memOk → (State.zeroPool s a len).memOk := by
  grind [State.zeroPool, State.memOk, State.zeroise_memOk, foldl_memOk, foldl_pair_memOk]

/-! ## CmdMemory -/

theorem State.dropTombstone_still (s : State) (h : Nat) :
    ∀ t, State.dropTombstone s h = some t → t.still = s.still := by
  intro t ht
  unfold State.dropTombstone at ht
  obtain ⟨o, -, rfl⟩ := Option.map_eq_some_iff.1 ht
  rfl
theorem State.givePartition_still (s : State) (i c : Nat) :
    ∀ t, State.givePartition s i c = some t → t.still = s.still := by
  grind [State.givePartition, State.still, State.modSlice_still]
theorem State.givePartitions_still (s : State) (c : Nat) (cords : List Nat) :
    ∀ t, State.givePartitions s c cords = some t → t.still = s.still := by
  refine foldl_opt_still _ s ?_ _ _ (by grind)
  intro o x t h
  cases o <;> grind [State.givePartition_still]
theorem State.reserve_still (s : State) (rn n : Nat) (r : Region) (ds : List Nat) :
    (State.reserve s rn n r ds).still = s.still := by
  simp only [State.reserve, State.modCord_still]
  refine foldl_still _ ?_ _ _
  intro t x
  simp only [State.modCord_still]
  split
  · cases h : t.givePartition (cordSlice x) r.definer <;> grind [State.givePartition_still]
  · rfl
theorem State.scrubLine_fixed (s : State) (l ctx : Nat) :
    (State.scrubLine s l ctx).1.fixed = s.fixed := by
  grind [State.scrubLine, State.fixed, State.readDram_fixed, State.flushLine_fixed]
theorem State.scrubLine_memOk (s : State) (l ctx : Nat) :
    s.memOk → (State.scrubLine s l ctx).1.memOk := by
  grind [State.scrubLine, State.memOk, State.readDram_memOk, State.flushLine_memOk]
theorem State.scrubBitmap_still (s : State) (l : Nat) :
    (State.scrubBitmap s l).still = s.still := by
  grind [State.scrubBitmap, State.still, State.bitmapCheck_still]
theorem State.scrubAt_fixed (p : State × Scrub) (a first ctx : Nat) :
    (State.scrubAt p a first ctx).1.fixed = p.1.fixed := by
  grind [State.scrubAt, State.fixed, State.still, State.corrected_still, State.scrubLine_fixed, State.scrubBitmap_still, foldl_fixed, foldl_pair_fixed]
theorem State.scrubAt_memOk (p : State × Scrub) (a first ctx : Nat) :
    p.1.memOk → (State.scrubAt p a first ctx).1.memOk := by
  grind [State.scrubAt, State.memOk, State.still, State.corrected_still, State.scrubLine_memOk, State.scrubBitmap_still, foldl_memOk, foldl_pair_memOk]
theorem State.recallPart_fixed (s : State) (n off len : Nat) :
    (State.recallPart s n off len).1.fixed = s.fixed := by
  grind [State.recallPart, State.fixed, State.internal_fixed, foldl_fixed, foldl_pair_fixed]
theorem State.recallPart_memOk (s : State) (n off len : Nat) :
    s.memOk → (State.recallPart s n off len).1.memOk := by
  grind [State.recallPart, State.memOk, State.internal_memOk, foldl_memOk, foldl_pair_memOk]
theorem State.zeroPart_fixed (s : State) (n off len : Nat) :
    (State.zeroPart s n off len).1.fixed = s.fixed := by
  grind [State.zeroPart, State.fixed, State.zeroise_fixed, foldl_fixed, foldl_pair_fixed]
theorem State.zeroPart_memOk (s : State) (n off len : Nat) :
    s.memOk → (State.zeroPart s n off len).1.memOk := by
  grind [State.zeroPart, State.memOk, State.zeroise_memOk, foldl_memOk, foldl_pair_memOk]
theorem State.zeroRange_fixed (s : State) (k : Cmd) :
    (State.zeroRange s k).fixed = s.fixed := by
  grind [State.zeroRange, State.fixed, State.still, State.final_still, State.clearShadow_still, State.recallPart_fixed, State.zeroPart_fixed, foldl_fixed, foldl_pair_fixed]
theorem State.zeroRange_memOk (s : State) (k : Cmd) :
    s.memOk → (State.zeroRange s k).memOk := by
  grind [State.zeroRange, State.memOk, State.still, State.final_still, State.clearShadow_still, State.recallPart_memOk, State.zeroPart_memOk, foldl_memOk, foldl_pair_memOk]
theorem State.zeroWhole_fixed (s : State) (k : Cmd) (n : Nat) :
    (State.zeroWhole s k n).fixed = s.fixed := by
  grind [State.zeroWhole, State.fixed, State.still, State.modCord_still, State.zeroiseCord_fixed, State.final_still, State.settleCords_still, State.clearShadow_still, State.recallPart_fixed]
theorem State.zeroWhole_memOk (s : State) (k : Cmd) (n : Nat) :
    s.memOk → (State.zeroWhole s k n).memOk := by
  grind [State.zeroWhole, State.memOk, State.still, State.modCord_still, State.zeroiseCord_memOk, State.final_still, State.settleCords_still, State.clearShadow_still, State.recallPart_memOk]
theorem State.reserveCopies_still (s : State) (rn : Nat) (r : Region) (y0 : List (List Nat)) :
    ∀ t, State.reserveCopies s rn r y0 = some t → t.1.still = s.still := by
  induction y0 generalizing s with
  | nil => grind [State.reserveCopies]
  | cons a l ih =>
    intro t ht
    unfold State.reserveCopies at ht
    dsimp only at ht
    repeat' split at ht
    all_goals first
      | exact ih _ _ ht
      | cases ht
      | (obtain ⟨p, hp, rfl⟩ := Option.map_eq_some_iff.1 ht; exact (ih _ _ hp).trans (State.reserve_still _ _ _ _ _))

/-! ## Xlat -/

theorem State.tableEntry_fixed (s : State) (c addr : Nat) :
    (State.tableEntry s c addr).1.fixed = s.fixed := by
  grind [State.tableEntry, State.fixed, State.homeRead_fixed, State.readyToRead_fixed]
theorem State.tableEntry_memOk (s : State) (c addr : Nat) :
    s.memOk → (State.tableEntry s c addr).1.memOk := by
  grind [State.tableEntry, State.memOk, State.homeRead_memOk, State.readyToRead_memOk]
theorem State.walkStep_fixed (s : State) (t c region cva : Nat) (write : Bool) (lvl page : Nat) (down : State → Nat → State × Walk) (h_down : ∀ (x0 : State) (x1 : Nat), (down x0 x1).1.fixed = x0.fixed) :
    (State.walkStep s t c region cva write lvl page down).1.fixed = s.fixed := by
  grind [State.walkStep, State.fixed, State.still, State.modEmber_still, State.tableEntry_fixed]
theorem State.walkStep_memOk (s : State) (t c region cva : Nat) (write : Bool) (lvl page : Nat) (down : State → Nat → State × Walk) (h_down : ∀ (x0 : State) (x1 : Nat), x0.memOk → (down x0 x1).1.memOk) :
    s.memOk → (State.walkStep s t c region cva write lvl page down).1.memOk := by
  grind [State.walkStep, State.memOk, State.still, State.modEmber_still, State.tableEntry_memOk]
theorem State.walkFrom_fixed (s : State) (t c region cva : Nat) (write : Bool) (y0 y1 : Nat) :
    (State.walkFrom s t c region cva write y0 y1).1.fixed = s.fixed := by
  induction y0 generalizing s y1 with
  | zero => grind [State.walkFrom, State.walkStep_fixed]
  | succ n ih => grind [State.walkFrom, State.walkStep_fixed]
theorem State.walkFrom_memOk (s : State) (t c region cva : Nat) (write : Bool) (y0 y1 : Nat) :
    s.memOk → (State.walkFrom s t c region cva write y0 y1).1.memOk := by
  induction y0 generalizing s y1 with
  | zero => grind [State.walkFrom, State.walkStep_memOk]
  | succ n ih => grind [State.walkFrom, State.walkStep_memOk]
theorem State.walk_fixed (s : State) (t c cva : Nat) (write : Bool) :
    (State.walk s t c cva write).1.fixed = s.fixed := by
  grind [State.walk, State.fixed, State.walkFrom_fixed, foldl_fixed, foldl_pair_fixed]
theorem State.walk_memOk (s : State) (t c cva : Nat) (write : Bool) :
    s.memOk → (State.walk s t c cva write).1.memOk := by
  grind [State.walk, State.memOk, State.walkFrom_memOk, foldl_memOk, foldl_pair_memOk]
theorem State.tbAdd_still (s : State) (t : Nat) (e : TbEnt) :
    (State.tbAdd s t e).still = s.still := by
  grind [State.tbAdd, State.still, State.modEmber_still]
theorem State.enterFault_still (s : State) (t : Nat) (f : XFault) :
    (State.enterFault s t f).still = s.still := by
  grind [State.enterFault, State.still, State.modEmber_still, State.modFaultQ_still]
theorem State.leaveFault_still (s : State) (t : Nat) :
    (State.leaveFault s t).still = s.still := by
  grind [State.leaveFault, State.still, State.modEmber_still, State.modCtx_still]
theorem State.dropFault_still (s : State) (t : Nat) :
    (State.dropFault s t).still = s.still := by
  grind [State.dropFault, State.still, State.modFaultQ_still, State.leaveFault_still]
theorem State.postFault_still (s : State) (h : Nat) (f : XFault) :
    (State.postFault s h f).still = s.still := by
  grind [State.postFault, State.still, State.modFaultQ_still, State.rise_still, foldl_still, foldl_pair_still]
theorem State.settleFull_still (s : State) (h : Nat) :
    (State.settleFull s h).still = s.still := by
  grind [State.settleFull, State.still, State.modFaultQ_still]
theorem State.walkAgain_still (s : State) (t : Nat) :
    (State.walkAgain s t).still = s.still := by
  grind [State.walkAgain, State.still, State.modEmber_still, State.running_still, State.leaveFault_still]
theorem State.closeSlot_still (s : State) (h i : Nat) :
    (State.closeSlot s h i).still = s.still := by
  grind [State.closeSlot, State.still, State.modFaultQ_still, State.settleFull_still]
theorem State.dropXlat_still (s : State) (c lo hi : Nat) :
    (State.dropXlat s c lo hi).still = s.still := by
  grind [State.dropXlat, State.still]
theorem State.markSlot_still (s : State) (h i : Nat) :
    (State.markSlot s h i).still = s.still := by
  grind [State.markSlot, State.still, State.modFaultQ_still]

end Sys2Proof.Machine
end

