-- ==== Sys2Proof/Laws/Kernels.lean ====
section
/-! SUPPORT. A relation that the accesses of a pass respect is respected by every kernel. -/

set_option Elab.async false

namespace Sys2Proof.Machine

/-- A computation over a pass relates the state it is given to the state it leaves. -/
def KM.Rel (R : State → State → Prop) {α : Type} (m : KM α) : Prop := ∀ k, R k.s (m k).1.s

/-- A relation that the accesses of a pass to the machine and its counters respect. -/
structure PassRel (R : State → State → Prop) : Prop where
  refl : ∀ s, R s s
  trans : ∀ {s t u}, R s t → R t u → R s u
  line : ∀ a, KM.Rel R (KM.line a)
  stream : ∀ b n tl j, KM.Rel R (KM.stream b n tl j)
  put : ∀ a w n, KM.Rel R (KM.put a w n)
  draws : ∀ n, KM.Rel R (KM.draws n)
  counter : ∀ d, KM.Rel R (KM.counter d)
  blocks : KM.Rel R (KM.count Pass.block)
  rows : ∀ n, KM.Rel R (KM.count fun k => k.row n)

section
variable {R : State → State → Prop} (h : PassRel R)
include h

theorem PassRel.ret {α : Type} (a : α) : KM.Rel R (KM.ret a) := fun _ => h.refl _
theorem PassRel.arith {α : Type} (n : Nat) : KM.Rel R (KM.arith n : KM α) := fun _ => h.refl _
theorem PassRel.bind {α β : Type} {m : KM α} {f : α → KM β} (hm : KM.Rel R m) (hf : ∀ a, KM.Rel R (f a)) : KM.Rel R (m.bind f) := by
  intro k
  have := hm k
  unfold KM.bind
  split <;> simp_all only
  exact h.trans this (hf _ _)
theorem PassRel.fold {σ : Type} {f : σ → Nat → KM σ} (hf : ∀ a i, KM.Rel R (f a i)) (i n : Nat) (a : σ) : KM.Rel R (KM.fold f i n a) := by
  induction n generalizing i a with
  | zero => exact h.ret a
  | succ n ih => exact h.bind (hf a i) fun b => ih _ b
theorem PassRel.putSpan (a : Nat) (b : Bytes) : KM.Rel R (KM.putSpan a b) := by
  unfold KM.putSpan
  split
  · exact h.ret ()
  · exact h.fold (fun _ _ => h.put _ _ _) _ _ _
theorem PassRel.plain (b j : Nat) : KM.Rel R (KM.plain b j) := h.line _
theorem PassRel.operand (b f n c tl j : Nat) : KM.Rel R (KM.operand b f n c tl j) := h.stream _ _ _ _
theorem PassRel.span {rd : Nat → KM Bytes} (hr : ∀ j, KM.Rel R (rd j)) (off len : Nat) (c : LineCache) : KM.Rel R (KM.span rd off len c) := by
  unfold KM.span
  refine h.bind (h.fold (fun a i => ?_) _ _ _) fun _ => h.ret _
  have fetch := h.bind (hr (off / 64 + i)) fun d => h.ret (a.1 ++ d, (some (off / 64 + i, d) : LineCache))
  dsimp only
  repeat' split
  · exact h.ret _
  · exact fetch
  · exact fetch
theorem PassRel.block {rd : Nat → KM Bytes} (hr : ∀ j, KM.Rel R (rd j)) (f rows c n off : Nat) : KM.Rel R (KM.block rd f rows c n off) :=
  h.bind (h.span hr _ _ _) fun _ => h.bind (h.span hr _ _ _) fun _ => h.ret _
theorem PassRel.pbsRow {rd : Nat → KM Bytes} (hr : ∀ j, KM.Rel R (rd j)) (f n left : Nat) (p : RowPos) (l : List Lane) :
    KM.Rel R (KM.pbsRow rd f n left p l) := by
  induction n generalizing left p l with
  | zero => exact h.ret _
  | succ n ih =>
    unfold KM.pbsRow
    split
    · exact h.ret _
    · refine h.bind (h.span hr _ _ _) fun b => ?_
      split
      · exact h.arith _
      · refine h.bind (h.span hr _ _ _) fun b => ?_
        split
        · exact h.arith _
        · exact h.bind h.blocks fun _ => ih _ _ _
theorem PassRel.row {rd : Nat → KM Bytes} (hr : ∀ j, KM.Rel R (rd j)) (f rows c i : Nat) (p : RowPos) : KM.Rel R (KM.row rd f rows c i p) := by
  unfold KM.row
  split
  · exact h.pbsRow hr _ _ _ _ _
  · exact h.bind (h.span hr _ _ _) fun _ => h.bind (h.span hr _ _ _) fun _ => h.ret _
theorem PassRel.encode (d : Bytes) (f : Nat) (l : List Lane) : KM.Rel R (KM.encode d f l) := by
  unfold KM.encode
  refine h.bind ?_ fun _ => h.bind (h.rows _) fun _ => h.ret _
  split
  · exact h.draws _
  · exact h.ret _
theorem PassRel.putOut (d : Bytes) (a : Nat) (w : Store) (n : Nat) : KM.Rel R (KM.putOut d a w n) := by
  unfold KM.putOut
  split
  · exact h.arith _
  · exact h.put _ _ _
theorem PassRel.putRow (d : Bytes) (f a : Nat) (o : RowOut) : KM.Rel R (KM.putRow d f a o) :=
  h.fold (fun _ _ => h.putOut _ _ _ _) _ _ _
theorem PassRel.dot (a b : List Lane) (q : Int) : KM.Rel R (KM.dot a b q) := h.bind (h.draws _) fun _ => h.ret _
theorem PassRel.gemv (d : Bytes) (r : Run) : KM.Rel R (gemvKernel d r) :=
  h.bind (h.block (h.plain _) _ _ _ _ _) fun _ =>
    h.bind (h.fold (fun _ _ =>
      h.bind (h.fold (fun _ _ => h.bind (h.row (h.operand _ _ _ _ _) _ _ _ _ _) fun _ =>
        h.bind (h.fold (fun _ _ => h.bind (h.dot _ _ _) fun _ => h.ret _) _ _ _) fun _ => h.ret _) _ _ _) fun _ =>
      h.bind (h.fold (fun _ _ => h.bind (h.encode _ _ _) fun _ => h.putRow _ _ _ _) _ _ _) fun _ => h.ret _) _ _ _) fun _ => h.ret _
theorem PassRel.putState (d : Bytes) (f a : Nat) (x : Soft) : KM.Rel R (KM.putState d f a x) :=
  h.bind (h.putOut _ _ _ _) fun _ => h.bind (h.encode _ _ _) fun _ => h.putRow _ _ _ _
theorem PassRel.attnPage (d : Bytes) (q : List Lane) (ks vs : List (List Lane)) (x : Soft) : KM.Rel R (attnPage d q ks vs x) := by
  refine h.bind (h.fold (fun _ _ => h.bind (h.dot _ _ _) fun _ => h.ret _) _ _ _) fun _ => ?_
  dsimp only
  split
  · exact h.ret _
  · exact h.bind (h.draws _) fun _ => h.bind (h.fold (fun _ _ => h.bind (h.dot _ _ _) fun _ => h.ret _) _ _ _) fun _ => h.ret _
theorem PassRel.attn (d : Bytes) (r : Run) : KM.Rel R (attnKernel d r) :=
  h.bind (h.block (h.plain _) _ _ _ _ _) fun _ => h.bind (h.fold (fun _ _ => h.fold (fun _ _ =>
    h.bind (h.block (h.stream _ _ _) _ _ _ _ _) fun _ => h.bind (h.block (h.stream _ _ _) _ _ _ _ _) fun _ =>
      h.fold (fun _ _ => h.bind (h.attnPage _ _ _ _ _) fun _ => h.ret _) _ _ _) _ _ _) _ _ _) fun _ =>
        h.fold (fun _ _ => h.putState _ _ _ _) _ _ _
theorem PassRel.merge (d : Bytes) (r : Run) : KM.Rel R (mergeKernel d r) := by
  refine h.fold (fun _ _ => h.bind (h.fold (fun _ _ => h.bind (h.span (h.plain _) _ _ _) fun _ => ?_) _ _ _) fun _ => ?_) _ _ _
  · split
    · exact h.arith _
    · exact h.bind (h.span (h.plain _) _ _ _) fun _ => h.ret _
  · split
    · exact h.bind (h.encode _ _ _) fun _ => h.putRow _ _ _ _
    · exact h.putState _ _ _ _
theorem PassRel.accRow (d : Bytes) {rd : Nat → KM Bytes} (hr : ∀ j, KM.Rel R (rd j)) (off n out : Nat) : KM.Rel R (KM.accRow d rd off n out) :=
  h.bind (h.fold (fun _ _ => h.bind (h.span hr _ _ _) fun _ => h.bind (h.putOut _ _ _ _) fun _ => h.ret _) _ _ _)
    fun _ => h.ret _
theorem PassRel.index (d : Bytes) (j : Nat) (c : LineCache) : KM.Rel R (KM.index d j c) := h.bind (h.span (h.plain _) _ _ _) fun _ => h.ret _
theorem PassRel.scatter (d : Bytes) (r : Run) : KM.Rel R (scatterKernel d r) := by
  refine h.bind (h.fold (fun _ _ => h.bind (h.index _ _ _) fun _ => ?_) _ _ _) fun _ => h.counter _
  split
  · exact h.arith _
  · exact h.bind (h.accRow _ (h.plain _) _ _ _) fun _ => h.ret _
theorem PassRel.putScales (base line : Nat) (l : Scales) : KM.Rel R (KM.putScales base line l) := h.fold (fun _ _ => h.put _ _ _) _ _ _
theorem PassRel.flushScales (base upTo : Nat) (l : Scales) : KM.Rel R (KM.flushScales base upTo l) :=
  h.bind (h.fold (fun _ _ => h.putScales _ _ _) _ _ _) fun _ => h.ret _
theorem PassRel.gatherRow (d : Bytes) (r : Run) {rd : Nat → KM Bytes} (hr : ∀ j, KM.Rel R (rd j)) (x j : Nat) :
    KM.Rel R (gatherRow d r rd x j) := by
  refine h.bind (h.span hr _ _ _) fun _ => h.bind (h.span hr _ _ _) fun _ => h.bind ?_ fun _ => h.bind (h.putRow _ _ _ _) fun _ => h.ret _
  split
  · exact h.ret _
  · exact h.encode _ _ _
theorem PassRel.gather (d : Bytes) (r : Run) : KM.Rel R (gatherKernel d r) := by
  refine h.bind (h.fold (fun _ _ => h.bind (h.index _ _ _) fun _ => ?_) _ _ _) fun _ => h.bind (h.flushScales _ _ _) fun _ => h.ret _
  split
  · exact h.arith _
  · refine h.bind ?_ fun _ => h.bind (h.flushScales _ _ _) fun _ => h.ret _
    split
    · exact h.gatherRow _ _ (h.operand _ _ _ _ _) _ _
    · exact h.ret _
theorem PassRel.convert (d : Bytes) (r : Run) : KM.Rel R (convertKernel d r) := by
  refine h.bind (h.fold (fun _ _ => h.bind (h.row (h.operand _ _ _ _ _) _ _ _ _ _) fun _ => h.bind (h.encode _ _ _) fun _ =>
    h.bind (h.putRow _ _ _ _) fun _ => h.ret _) _ _ _) fun _ => ?_
  split
  · exact h.putSpan _ _
  · exact h.ret _
theorem PassRel.top (d : Bytes) (r : Run) : KM.Rel R (topKernel d r) := by
  refine h.bind ?_ fun _ => h.fold (fun _ _ => h.putOut _ _ _ _) _ _ _
  split
  · exact h.fold (fun _ _ => h.bind (h.span (h.stream _ _ _) _ _ _) fun _ => h.ret _) _ _ _
  · exact h.fold (fun _ _ => h.bind (h.stream _ _ _ _) fun _ => h.ret _) _ _ _
end

end Sys2Proof.Machine
end

