-- ==== Sys2Proof/Laws/FrameEmber.lean ====
section
/-! SUPPORT. What the Embers, their descriptors and the commands on plans leave unchanged (`still`: the queue, the fuses and the memory; `fixed`: the queue and the fuses), and that
they keep memory in its canonical form (`memOk`). One lemma an operation; the rows cite these and unfold nothing. -/

set_option Elab.async false

namespace Sys2Proof.Machine

/-! ## Ember -/

theorem State.modRun_still (s : State) (t : Nat) (f : Run → Run) :
    (State.modRun s t f).still = s.still := by
  grind [State.modRun, State.still, State.modEmber_still]
theorem State.takeRun_still (s : State) (t : Nat) :
    (State.takeRun s t).still = s.still := by
  grind [State.takeRun, State.still, State.modEmber_still, State.running_still]
theorem State.dropWait_still (s : State) (t : Nat) :
    (State.dropWait s t).still = s.still := by
  unfold State.dropWait
  try extract_lets
  all_goals grind (splits := 12) [State.still, State.waitLeaves_still, foldl_still, foldl_pair_still]
theorem State.dropPort_still (s : State) (d : MemDest) :
    (State.dropPort s d).still = s.still := by
  grind [State.dropPort, State.still]
theorem State.putBack_still (s : State) (t : Nat) (atHead : Bool) :
    (State.putBack s t atHead).still = s.still := by
  grind [State.putBack, State.still, State.dropWait_still, State.dropFault_still, State.dropPort_still, State.modEmber_still]
theorem State.boundary_still (s : State) (t : Nat) :
    (State.boundary s t).still = s.still := by
  grind [State.boundary, State.still, State.takeRun_still, State.putBack_still]
theorem State.runError_still (s : State) (t : Nat) (e : EmbErr) :
    (State.runError s t e).still = s.still := by
  grind [State.runError, State.still, State.modRun_still]
theorem State.parityError_still (s : State) (t : Nat) :
    (State.parityError s t).still = s.still := by
  grind [State.parityError, State.still, State.modEmber_still, State.runError_still]
theorem State.embInject_still (s : State) (t kind : Nat) :
    (State.embInject s t kind).still = s.still := by
  grind [State.embInject, State.still, State.modEmber_still, State.injected_still, State.parityError_still]
theorem State.onDesc_still (s : State) (t kind : Nat) (f : Run → Bytes → State → State) (h_f : ∀ (x0 : Run) (x1 : Bytes) (x2 : State), (f x0 x1 x2).still = x2.still) :
    (State.onDesc s t kind f).still = s.still := by
  unfold State.onDesc
  dsimp only
  repeat' split
  all_goals grind [State.still, State.boundary_still, State.modEmber_still, State.embInject_still]
theorem State.errorLost_fixed (s : State) (t : Nat) :
    (State.errorLost s t).fixed = s.fixed := by
  grind [State.errorLost, State.fixed, State.still, State.modEmber_still]
theorem State.writeError_fixed (s : State) (t : Nat) (r : Run) (a : Nat) (b : Bytes) :
    (State.writeError s t r a b).fixed = s.fixed := by
  grind [State.writeError, State.fixed, State.still, State.errorLost_fixed, State.poolWrite_fixed]
theorem State.recordError_fixed (s : State) (t : Nat) (p : Plan) (r : Run) (e : EmbErr) :
    (State.recordError s t p r e).fixed = s.fixed := by
  grind [State.recordError, State.fixed, State.still, State.writeError_fixed, State.log_still]
theorem State.errorLost_memOk (s : State) (t : Nat) :
    s.memOk → (State.errorLost s t).memOk := by
  grind [State.errorLost, State.memOk, State.still, State.modEmber_still]
theorem State.writeError_memOk (s : State) (t : Nat) (r : Run) (a : Nat) (b : Bytes) :
    s.memOk → (State.writeError s t r a b).memOk := by
  grind [State.writeError, State.memOk, State.still, State.errorLost_memOk, State.poolWrite_memOk]
theorem State.recordError_memOk (s : State) (t : Nat) (p : Plan) (r : Run) (e : EmbErr) :
    s.memOk → (State.recordError s t p r e).memOk := by
  grind [State.recordError, State.memOk, State.still, State.writeError_memOk, State.log_still]
theorem State.bumpDone_fixed (s : State) (p : Plan) (r : Run) :
    (State.bumpDone s p r).fixed = s.fixed := by
  grind [State.bumpDone, State.fixed, State.internal_fixed]
theorem State.bumpDone_memOk (s : State) (p : Plan) (r : Run) :
    s.memOk → (State.bumpDone s p r).memOk := by
  grind [State.bumpDone, State.memOk, State.internal_memOk]
theorem State.countEnd_still (s : State) (t : Nat) (r : Run) (e : EmbErr) :
    (State.countEnd s t r e).still = s.still := by
  grind [State.countEnd, State.still, State.modEmber_still, State.modCtx_still]
theorem State.finishRun_fixed (s : State) (t : Nat) (r : Run) (e : Option EmbErr) :
    (State.finishRun s t r e).fixed = s.fixed := by
  unfold State.finishRun
  try extract_lets
  repeat' split
  all_goals grind (splits := 12) [State.fixed, State.still, fixed_of_still, State.recordError_fixed, State.countEnd_still, State.bumpDone_fixed, State.dropWait_still, State.dropFault_still, State.dropPort_still, State.modEmber_still, State.takeRun_still, foldl_fixed, foldl_pair_fixed]
theorem State.finishRun_memOk (s : State) (t : Nat) (r : Run) (e : Option EmbErr) :
    s.memOk → (State.finishRun s t r e).memOk := by
  intro hs
  unfold State.finishRun
  try extract_lets
  repeat' split
  all_goals grind (splits := 12) [State.memOk, State.still, memOk_of_still, State.recordError_memOk, State.countEnd_still, State.bumpDone_memOk, State.dropWait_still, State.dropFault_still, State.dropPort_still, State.modEmber_still, State.takeRun_still, foldl_memOk, foldl_pair_memOk]
theorem State.endCancel_still (s : State) (k : Nat) :
    (State.endCancel s k).still = s.still := by
  grind [State.endCancel, State.still, State.modPlan_still, State.final_still]
theorem State.fireHeld_still (s : State) (k : Nat) :
    (State.fireHeld s k).still = s.still := by
  grind [State.fireHeld, State.still, State.startRun_still]
theorem State.runEnded_still (s : State) (k : Nat) (p : Plan) (a : ActiveRun) :
    (State.runEnded s k p a).still = s.still := by
  grind [State.runEnded, State.still, State.modPlan_still, State.final_still, State.endCancel_still, State.fireHeld_still]
theorem State.edgeGuard_still (s : State) (t : Nat) :
    (State.edgeGuard s t).still = s.still := by
  grind [State.edgeGuard, State.still, State.modEmber_still, State.modRun_still, State.putBack_still, State.runError_still]
theorem State.edgeGuardEnd_still (s : State) (t : Nat) :
    (State.edgeGuardEnd s t).still = s.still := by
  grind [State.edgeGuardEnd, State.still, State.modEmber_still, State.takeRun_still, State.boundary_still]
theorem State.fenceEmber_still (s : State) (t : Nat) :
    (State.fenceEmber s t).still = s.still := by
  grind [State.fenceEmber, State.still, State.modEmber_still, State.putBack_still, State.runError_still]
theorem State.firstRequest_still (s : State) (t : Nat) (r : Run) :
    (State.firstRequest s t r).still = s.still := by
  grind [State.firstRequest, State.still, State.modEmber_still]
theorem State.translate_still (s : State) (t cva : Nat) (write : Bool) :
    (State.translate s t cva write).1.still = s.still := by
  grind [State.translate, State.still, State.modEmber_still, State.modFaultQ_still, State.modRun_still, State.firstRequest_still]
theorem State.emberStamp_still (s : State) (t ctx a : Nat) (op : MsgOp) :
    (State.emberStamp s t ctx a op).1.still = s.still := by
  unfold State.emberStamp
  extract_lets
  grind [State.still, State.modCache_still]
theorem State.portTurn_still (s : State) (q : MemReq) :
    (State.portTurn s q).1.still = s.still := by
  grind [State.portTurn, State.still, State.modChan_still]
theorem State.streamTurn_still (s : State) (t ctx l : Nat) (part : Bool) :
    (State.streamTurn s t ctx l part).1.still = s.still := by
  grind [State.streamTurn, State.still, State.portTurn_still]
theorem State.emberRead_fixed (s : State) (t ctx a cva : Nat) :
    (State.emberRead s t ctx a cva).1.fixed = s.fixed := by
  grind [State.emberRead, State.fixed, State.still, fixed_of_still, State.emberStamp_still, State.readyToRead_fixed, State.streamTurn_still, State.homeRead_fixed]
theorem State.emberRead_memOk (s : State) (t ctx a cva : Nat) :
    s.memOk → (State.emberRead s t ctx a cva).1.memOk := by
  grind [State.emberRead, State.memOk, State.still, memOk_of_still, State.emberStamp_still, State.readyToRead_memOk, State.streamTurn_still, State.homeRead_memOk]
theorem State.emberWrite_fixed (s : State) (t ctx a cva : Nat) (w : Store) :
    (State.emberWrite s t ctx a cva w).1.fixed = s.fixed := by
  unfold State.emberWrite
  try extract_lets
  repeat' split
  all_goals (try extract_lets)
  all_goals grind (splits := 12) [State.fixed, State.still, fixed_of_still, State.emberStamp_still, State.internal_fixed, State.streamTurn_still, State.homeWrite_fixed, State.homePartial_fixed, State.homeRead_fixed, foldl_fixed, foldl_pair_fixed]
theorem State.emberWrite_memOk (s : State) (t ctx a cva : Nat) (w : Store) :
    s.memOk → (State.emberWrite s t ctx a cva w).1.memOk := by
  intro hs
  unfold State.emberWrite
  try extract_lets
  repeat' split
  all_goals (try extract_lets)
  all_goals grind (splits := 12) [State.memOk, State.still, memOk_of_still, State.emberStamp_still, State.internal_memOk, State.streamTurn_still, State.homeWrite_memOk, State.homePartial_memOk, State.homeRead_memOk, foldl_memOk, foldl_pair_memOk]
theorem State.emberSend_still (s : State) (t : Nat) (r : Run) (k : Packet) (cva bad : Nat) :
    (State.emberSend s t r k cva bad).1.still = s.still := by
  grind [State.emberSend, State.still, State.request_still]
theorem State.wroteBad_still (s : State) (t ctx n : Nat) :
    (State.wroteBad s t ctx n).still = s.still := by
  grind [State.wroteBad, State.still, State.modEmber_still]
theorem State.store_fixed (s : State) (t : Nat) (r : Run) (cva : Nat) (w : Store) (bad : Nat) :
    (State.store s t r cva w bad).1.fixed = s.fixed := by
  have ht := State.translate_still s t cva true
  unfold State.store
  split
  · grind [State.fixed, State.still]
  · grind [State.fixed, State.still]
  · rename_i u a hu
    have hw := State.emberWrite_fixed (u.modRun t fun r => { r with dirty := true }) t r.ctx a cva w
    have hm := State.modRun_still u t fun r => { r with dirty := true }
    split <;> grind [State.fixed, State.still, State.wroteBad_still]
  · rename_i u ep a hu
    have hw := State.emberSend_still u t r (w.packet ep a) cva bad
    split <;> grind [State.fixed, State.still, State.modRun_still]
theorem State.store_memOk (s : State) (t : Nat) (r : Run) (cva : Nat) (w : Store) (bad : Nat) :
    s.memOk → (State.store s t r cva w bad).1.memOk := by
  have ht := State.translate_still s t cva true
  unfold State.store
  split
  · grind [State.memOk, State.still]
  · grind [State.memOk, State.still]
  · rename_i u a hu
    have hw := State.emberWrite_memOk (u.modRun t fun r => { r with dirty := true }) t r.ctx a cva w
    have hm := State.modRun_still u t fun r => { r with dirty := true }
    split <;> grind [State.memOk, State.still, State.wroteBad_still]
  · rename_i u ep a hu
    have hw := State.emberSend_still u t r (w.packet ep a) cva bad
    split <;> grind [State.memOk, State.still, State.modRun_still]
theorem State.emberSync_fixed (s : State) (t : Nat) (r : Run) (cva : Nat) (op : MsgOp) (data : Bytes) (aux : Nat) :
    (State.emberSync s t r cva op data aux).1.fixed = s.fixed := by
  grind [State.emberSync, State.fixed, State.still, fixed_of_still, State.translate_still, State.emberStamp_still, State.syncOp_fixed, State.modCache_still, State.emberSend_still]
theorem State.emberSync_memOk (s : State) (t : Nat) (r : Run) (cva : Nat) (op : MsgOp) (data : Bytes) (aux : Nat) :
    s.memOk → (State.emberSync s t r cva op data aux).1.memOk := by
  grind [State.emberSync, State.memOk, State.still, memOk_of_still, State.translate_still, State.emberStamp_still, State.syncOp_memOk, State.modCache_still, State.emberSend_still]
theorem State.emberCompletion_still (s : State) (t : Nat) (q : OpenReq) (p : Packet) :
    (State.emberCompletion s t q p).still = s.still := by
  grind [State.emberCompletion, State.still, State.wroteBad_still, State.runError_still, State.modRun_still, State.descDone_still, State.modEmber_still, State.running_still]
/-! ## Kernels -/

theorem Pass.tally_still (k : Pass) (f : Ember → Ember) : (k.tally f).s.still = k.s.still := by grind [Pass.tally, State.modEmber_still]
theorem Pass.block_still (k : Pass) : k.block.s.still = k.s.still := by
  unfold Pass.block
  dsimp only
  split
  · rfl
  · exact Pass.tally_still k _
theorem Pass.row_still (k : Pass) (n : Nat) : (k.row n).s.still = k.s.still := by
  unfold Pass.row
  dsimp only
  split
  · rfl
  · exact Pass.tally_still k _
theorem Pass.keep_still (k : Pass) (n : Nat) (d : Bytes) : (k.keep n d).s.still = k.s.still := State.modEmber_still _ _ _
theorem Pass.countLine_still (k : Pass) : k.countLine.s.still = k.s.still := by
  unfold Pass.countLine
  repeat' split
  all_goals grind [State.still, State.modEmber_still, State.modCtx_still]
theorem KM.lineTo_fixed (f : Nat → Nat) (a : Nat) (k : Pass) : (KM.lineTo f a k).1.s.fixed = k.s.fixed := by
  unfold KM.lineTo
  repeat' split
  all_goals grind [State.fixed, State.still, Pass.keep_still, Pass.countLine_still, State.embInject_still, State.translate_still, State.emberRead_fixed, State.emberSend_still, State.modRun_still]
theorem passRel_fixed : PassRel fun s t => t.fixed = s.fixed where
  refl _ := rfl
  trans h g := g.trans h
  line a := fun k => KM.lineTo_fixed _ a k
  stream b n tl j := fun k => by
    unfold KM.stream
    dsimp only
    repeat' split
    all_goals grind [State.fixed, State.still, KM.lineTo_fixed, State.modRun_still]
  put a w n := fun k => by
    unfold KM.put
    repeat' split
    all_goals grind [State.store_fixed]
  draws n := fun k => rfl
  counter d := fun k => by
    unfold KM.counter
    repeat' split
    all_goals grind [State.emberSync_fixed]
  blocks := fun k => by grind [KM.count, State.fixed, State.still, Pass.block_still]
  rows n := fun k => by grind [KM.count, State.fixed, State.still, Pass.row_still]
theorem State.kernel_fixed (s : State) (t : Nat) (r : Run) (d : Bytes) (m : KM Unit) (h : KM.Rel (fun s t => t.fixed = s.fixed) m) :
    (State.kernel s t r d m).fixed = s.fixed := by
  have := h { s, tile := t, run := r, desc := d, got := r.got }
  unfold State.kernel
  repeat' split
  all_goals grind [State.fixed, State.still, State.modEmber_still, State.descDone_still, State.runError_still, State.modRun_still]
theorem KM.lineTo_memOk (f : Nat → Nat) (a : Nat) (k : Pass) : k.s.memOk → (KM.lineTo f a k).1.s.memOk := by
  unfold KM.lineTo
  repeat' split
  all_goals grind [State.memOk, State.still, Pass.keep_still, Pass.countLine_still, State.embInject_still, State.translate_still, State.emberRead_memOk, State.emberSend_still, State.modRun_still]
theorem passRel_memOk : PassRel fun s t => s.memOk → t.memOk where
  refl _ := id
  trans h g := fun x => g (h x)
  line a := fun k => KM.lineTo_memOk _ a k
  stream b n tl j := fun k => by
    unfold KM.stream
    dsimp only
    repeat' split
    all_goals grind [State.memOk, State.still, KM.lineTo_memOk, State.modRun_still]
  put a w n := fun k => by
    unfold KM.put
    repeat' split
    all_goals grind [State.store_memOk]
  draws n := fun k => id
  counter d := fun k => by
    unfold KM.counter
    repeat' split
    all_goals grind [State.emberSync_memOk]
  blocks := fun k => by grind [KM.count, State.memOk, State.still, Pass.block_still]
  rows n := fun k => by grind [KM.count, State.memOk, State.still, Pass.row_still]
theorem State.kernel_memOk (s : State) (t : Nat) (r : Run) (d : Bytes) (m : KM Unit) (h : KM.Rel (fun s t => s.memOk → t.memOk) m) :
    s.memOk → (State.kernel s t r d m).memOk := by
  have := h { s, tile := t, run := r, desc := d, got := r.got }
  unfold State.kernel
  repeat' split
  all_goals grind [State.memOk, State.still, State.modEmber_still, State.descDone_still, State.runError_still, State.modRun_still]

/-! ## CmdEngine -/

theorem State.deferOnce_still (s : State) (k : Cmd) :
    (State.deferOnce s k).still = s.still := by
  grind [State.deferOnce, State.still, State.modCmd_still, State.hand_still]
theorem State.storePlan_still (s : State) (k : Cmd) (l : List Bytes) (ts : List Nat) (n : Nat) :
    (State.storePlan s k l ts n).still = s.still := by
  grind [State.storePlan, State.still, State.final_still, State.measured_still]
theorem State.preload_still (s : State) (n : Nat) (p : Plan) :
    (State.preload s n p).still = s.still := by
  grind [State.preload, State.still, State.modEmber_still, foldl_still, foldl_pair_still]
theorem State.cancelRuns_still (s : State) (n : Nat) :
    (State.cancelRuns s n).still = s.still := by
  grind [State.cancelRuns, State.still]
theorem State.initWord_still (s : State) (w : Nat) (full : Bool) (v : Bytes) :
    (State.initWord s w full v).still = s.still := by
  grind [State.initWord, State.still, State.setWord_still, State.filled_still]
theorem State.initLine_fixed (s : State) (c lo hi : Nat) (full : Bool) (v : Bytes) :
    (State.initLine s c lo hi full v).fixed = s.fixed := by
  grind [State.initLine, State.fixed, State.still, State.homeWrite_fixed, State.homePartial_fixed, State.initWord_still, foldl_fixed, foldl_pair_fixed]
theorem State.initLine_memOk (s : State) (c lo hi : Nat) (full : Bool) (v : Bytes) :
    s.memOk → (State.initLine s c lo hi full v).memOk := by
  grind [State.initLine, State.memOk, State.still, State.homeWrite_memOk, State.homePartial_memOk, State.initWord_still, foldl_memOk, foldl_pair_memOk]

end Sys2Proof.Machine
end

