-- ==== Sys2Proof/Laws/FrameFabric.lean ====
section
/-! SUPPORT. What the fabric, maintenance, the time gates, the control units and the locks leave unchanged (`still`: the queue, the fuses and the memory; `fixed`: the queue and the fuses), and that
they keep memory in its canonical form (`memOk`). One lemma an operation; the rows cite these and unfold nothing. -/

set_option Elab.async false

namespace Sys2Proof.Machine

/-! ## FabricRows -/

theorem State.portUp_still (s : State) (p : Nat) :
    (State.portUp s p).still = s.still := by
  grind [State.portUp, State.still, State.modPort_still, State.pump_still]
theorem State.topologyCheck_still (s : State) (p : Nat) :
    (State.topologyCheck s p).still = s.still := by
  grind [State.topologyCheck, State.still, State.log_still, State.portDown_still, State.portUp_still]
theorem State.advertise_still (s : State) (p : Nat) :
    (State.advertise s p).still = s.still := by
  unfold State.advertise
  try extract_lets
  all_goals grind (splits := 12) [State.still, State.sendControl_still, State.modPort_still, foldl_still, foldl_pair_still]
theorem State.trained_still (s : State) (p : Nat) (x : TrainInfo) :
    (State.trained s p x).still = s.still := by
  grind [State.trained, State.still, State.portDown_still, State.modPort_still, State.advertise_still, State.topologyCheck_still]
theorem State.sendTrain_still (s : State) (p purpose : Nat) :
    (State.sendTrain s p purpose).still = s.still := by
  unfold State.sendTrain
  try extract_lets
  all_goals grind (splits := 12) [State.still, State.sendControl_still, foldl_still, foldl_pair_still]
theorem State.startRetrain_still (s : State) (p : Nat) :
    (State.startRetrain s p).still = s.still := by
  grind [State.startRetrain, State.still, State.modPort_still, State.sendTrain_still, State.pump_still]
theorem State.fullReset_still (s : State) (p : Nat) :
    (State.fullReset s p).still = s.still := by
  grind [State.fullReset, State.still, State.sendTrain_still, State.linkDown_still, State.modPort_still]
theorem State.dropWorst_still (s : State) (p : Nat) (ls : List LaneResult) :
    (State.dropWorst s p ls).still = s.still := by
  grind [State.dropWorst, State.still, State.modPort_still, State.log_still]
theorem State.countFec_still (s : State) (p corrected uncorrectable : Nat) :
    (State.countFec s p corrected uncorrectable).still = s.still := by
  grind [State.countFec, State.still, State.modPort_still, State.rise_still, State.corrected_still, foldl_still, foldl_pair_still]
theorem State.heard_still (s : State) (p : Nat) :
    (State.heard s p).still = s.still := by
  grind [State.heard, State.still, State.modPort_still]
theorem State.credit_still (s : State) (p vc units : Nat) :
    (State.credit s p vc units).still = s.still := by
  grind [State.credit, State.still, State.modPort_still]
theorem State.freed_still (s : State) (p : Nat) (k : Packet) :
    (State.freed s p k).still = s.still := by
  grind [State.freed, State.still, State.modPort_still]
theorem State.resendCell_still (s : State) (p seq : Nat) (byAck : Bool) :
    (State.resendCell s p seq byAck).still = s.still := by
  grind [State.resendCell, State.still, State.modPort_still, State.transmit_still]
theorem State.acked_still (s : State) (p cum bitmap : Nat) :
    (State.acked s p cum bitmap).still = s.still := by
  grind [State.acked, State.still, State.modPort_still, State.pump_still, State.resendCell_still, foldl_still, foldl_pair_still]
theorem State.police_still (s : State) (p : Nat) (k : Packet) :
    (State.police s p k).1.still = s.still := by
  grind [State.police, State.still, State.modPort_still]
theorem State.routeDiscard_still (s : State) (p : Nat) :
    (State.routeDiscard s p).still = s.still := by
  grind [State.routeDiscard, State.still, State.modPort_still]
theorem State.packetIn_still (s : State) (p : Nat) (k : Packet) :
    (State.packetIn s p k).still = s.still := by
  grind [State.packetIn, State.still, State.modPort_still, State.freed_still, State.police_still, State.routeDiscard_still]
theorem State.deliverHeld_still (s : State) (p : Nat) (y0 : Nat) :
    (State.deliverHeld s p y0).still = s.still := by
  induction y0 generalizing s with
  | zero => grind [State.deliverHeld]
  | succ n ih => grind [State.deliverHeld, State.still, State.modPort_still, State.packetIn_still]
theorem State.cellIn_still (s : State) (p : Nat) (c : Cell) :
    (State.cellIn s p c).still = s.still := by
  grind [State.cellIn, State.still, State.modPort_still, State.modCtx_still, State.pump_still, State.heard_still, State.credit_still, State.acked_still, State.packetIn_still, State.deliverHeld_still]
theorem State.crcFail_still (s : State) (p : Nat) :
    (State.crcFail s p).still = s.still := by
  grind [State.crcFail, State.still, State.modPort_still]
theorem State.e2eDiscard_still (s : State) (p : Nat) :
    (State.e2eDiscard s p).still = s.still := by
  grind [State.e2eDiscard, State.still, State.modPort_still, State.rise_still]
theorem State.unsealed_still (s : State) (p : Nat) (k : Packet) :
    (State.unsealed s p k).1.still = s.still := by
  grind [State.unsealed, State.still, State.modPort_still, State.rise_still, State.log_still]
theorem State.requestIn_fixed (s : State) (p : Nat) (op : MsgOp) (k : Packet) :
    (State.requestIn s p op k).fixed = s.fixed := by
  unfold State.requestIn
  try extract_lets
  repeat' split
  all_goals grind (splits := 12) [State.fixed, State.still, fixed_of_still, State.intake_fixed, State.answer_still, State.toHome_still, State.endAtPoint_still, foldl_fixed, foldl_pair_fixed]
theorem State.requestIn_memOk (s : State) (p : Nat) (op : MsgOp) (k : Packet) :
    s.memOk → (State.requestIn s p op k).memOk := by
  intro hs
  unfold State.requestIn
  try extract_lets
  repeat' split
  all_goals grind (splits := 12) [State.memOk, State.still, memOk_of_still, State.intake_memOk, State.answer_still, State.toHome_still, State.endAtPoint_still, foldl_memOk, foldl_pair_memOk]
theorem State.passOn_fixed (s : State) (p : Nat) (op : MsgOp) (k : Packet) :
    (State.passOn s p op k).fixed = s.fixed := by
  unfold State.passOn
  try extract_lets
  repeat' split
  all_goals grind (splits := 12) [State.fixed, State.still, fixed_of_still, State.toHome_still, State.requestIn_fixed, foldl_fixed, foldl_pair_fixed]
theorem State.passOn_memOk (s : State) (p : Nat) (op : MsgOp) (k : Packet) :
    s.memOk → (State.passOn s p op k).memOk := by
  intro hs
  unfold State.passOn
  try extract_lets
  repeat' split
  all_goals grind (splits := 12) [State.memOk, State.still, memOk_of_still, State.toHome_still, State.requestIn_memOk, foldl_memOk, foldl_pair_memOk]
theorem State.setDisable_still (s : State) (p : Nat) (on : Bool) :
    (State.setDisable s p on).still = s.still := by
  grind [State.setDisable, State.still, State.modPort_still, State.linkDown_still]
theorem State.fabInj_still (s : State) (p v : Nat) :
    (State.fabInj s p v).still = s.still := by
  grind [State.fabInj, State.still, State.modPort_still]

/-! ## CmdMaint -/

theorem State.cuState_still (s : State) (u : Nat) (st : CuState) :
    (State.cuState s u st).still = s.still := by
  grind [State.cuState, State.still, State.modCu_still, State.rise_still, State.log_still]
theorem State.routeOwned_still (s : State) (u : Nat) :
    (State.routeOwned s u).still = s.still := by
  grind [State.routeOwned, State.still, State.withIntc_still, foldl_still, foldl_pair_still]
theorem State.takeToken_still (s : State) (u k : Nat) (late : Bool) :
    (State.takeToken s u k late).still = s.still := by
  grind [State.takeToken, State.still, State.log_still, State.routeOwned_still]
theorem State.releaseTo_still (s : State) (u : Nat) :
    (State.releaseTo s u).still = s.still := by
  grind [State.releaseTo, State.still, State.takeToken_still]
theorem State.dropToken_still (s : State) (u : Nat) :
    (State.dropToken s u).still = s.still := by
  grind [State.dropToken, State.still, State.releaseTo_still]
theorem State.channelTested_fixed (s : State) (g : Nat) (pass : Bool) :
    (State.channelTested s g pass).fixed = s.fixed := by
  grind [State.channelTested, State.fixed, State.still, State.modChan_still, State.pass_still, State.fenceChan_still, State.zeroiseCord_fixed, foldl_fixed, foldl_pair_fixed]
theorem State.channelTested_memOk (s : State) (g : Nat) (pass : Bool) :
    s.memOk → (State.channelTested s g pass).memOk := by
  grind [State.channelTested, State.memOk, State.still, State.modChan_still, State.pass_still, State.fenceChan_still, State.zeroiseCord_memOk, foldl_memOk, foldl_pair_memOk]
theorem State.settleCalibrations_still (s : State) :
    (State.settleCalibrations s).still = s.still := by
  grind [State.settleCalibrations, State.still, State.running_still, State.calibrated_still, foldl_still, foldl_pair_still]
theorem State.reserveRetired_still (s : State) (y0 : List Nat) :
    ∀ t, State.reserveRetired s y0 = some t → t.1.still = s.still := by
  induction y0 generalizing s with
  | nil => grind [State.reserveRetired]
  | cons a l ih =>
    intro t ht
    unfold State.reserveRetired at ht
    dsimp only at ht
    repeat' split at ht
    all_goals first
      | exact ih _ _ ht
      | cases ht
      | (obtain ⟨p, hp, rfl⟩ := Option.map_eq_some_iff.1 ht
         have := ih _ _ hp
         simp only [State.reserve_still, State.modCord_still, State.startZeroise_still] at this
         exact this)
theorem State.retireChannel_still (s : State) (k : Cmd) (g : Nat) :
    (State.retireChannel s k g).still = s.still := by
  unfold State.retireChannel
  split
  · grind [State.refuse_still]
  · simp only
    split
    · grind [State.refuse_still]
    · rename_i t cs n h
      have := State.reserveRetired_still _ _ _ h
      grind [State.modChan_still, State.running_still]
theorem State.startSync_still (s : State) (k : Cmd) (u : Nat) :
    (State.startSync s k u).still = s.still := by
  grind [State.startSync, State.still, State.modCu_still, State.running_still, State.cuState_still]
theorem State.reloadUnit_still (s : State) (k : Cmd) (u : Nat) :
    (State.reloadUnit s k u).still = s.still := by
  grind [State.reloadUnit, State.still, State.modCu_still, State.log_still, State.refuse_still, State.cuState_still, State.startSync_still]

/-! ## CmdTelem -/

theorem State.telemRead_still (s : State) (group i : Nat) :
    (State.telemRead s group i).still = s.still := by
  grind [State.telemRead, State.still, State.modStage_still]

/-! ## TimeGate -/

theorem State.moveTime_still (s : State) (d : Int) :
    (State.moveTime s d).still = s.still := by
  grind [State.moveTime, State.still]
theorem State.stepTime_still (s : State) (d : Int) :
    (State.stepTime s d).still = s.still := by
  grind [State.stepTime, State.still, State.moveTime_still]
theorem State.timeState_still (s : State) (n distance : Nat) :
    (State.timeState s n distance).still = s.still := by
  grind [State.timeState, State.still, State.rise_still, State.log_still]
theorem State.exchange_still (s : State) (p : Nat) (b : TimeBody) :
    (State.exchange s p b).still = s.still := by
  grind [State.exchange, State.still, State.stepTime_still, State.timeState_still]
theorem State.parentCell_still (s : State) (p : Nat) (echoed : Bool) (b : TimeBody) :
    (State.parentCell s p echoed b).still = s.still := by
  grind [State.parentCell, State.still, State.timeState_still, State.exchange_still]
theorem State.throttleEvent_still (s : State) (what : Nat) :
    (State.throttleEvent s what).still = s.still := by
  grind [State.throttleEvent, State.still, State.rise_still, State.log_still]
theorem State.markCause_still (s : State) :
    (State.markCause s).still = s.still := by
  grind [State.markCause, State.still]
theorem State.throttleCause_still (s : State) :
    (State.throttleCause s).still = s.still := by
  grind [State.throttleCause, State.still, State.markCause_still, State.throttleEvent_still, State.cxlEvent_still]
theorem State.setLevel_still (s : State) (n : Nat) :
    (State.setLevel s n).still = s.still := by
  grind [State.setLevel, State.still, State.throttleEvent_still]
theorem State.withPower_still (s : State) (power : Nat) :
    (State.withPower s power).still = s.still := by
  grind [State.withPower, State.still]
theorem State.leaveSlot_fixed (s : State) (k : Nat) (next : Slot) :
    (State.leaveSlot s k next).fixed = s.fixed := by
  grind [State.leaveSlot, State.fixed, State.still, State.edgeChan_fixed, State.edgeGuard_still]
theorem State.leaveSlot_memOk (s : State) (k : Nat) (next : Slot) :
    s.memOk → (State.leaveSlot s k next).memOk := by
  grind [State.leaveSlot, State.memOk, State.still, State.edgeChan_memOk, State.edgeGuard_still]
theorem State.beginTest_still (s : State) (k : Nat) :
    (State.beginTest s k).still = s.still := by
  grind [State.beginTest, State.still, State.modEmber_still]
theorem State.readBack_fixed (s : State) (q : MemReq) (noise : List (Nat × Byte)) :
    (State.readBack s q noise).fixed = s.fixed := by
  grind [State.readBack, State.fixed, State.still, fixed_of_still, State.readLine_fixed, State.deliver_fixed]
theorem State.readBack_memOk (s : State) (q : MemReq) (noise : List (Nat × Byte)) :
    s.memOk → (State.readBack s q noise).memOk := by
  grind [State.readBack, State.memOk, State.still, memOk_of_still, State.readLine_memOk, State.deliver_memOk]
theorem State.written_fixed (p : State × Option Nat) (q : MemReq) : (State.written p q).fixed = p.1.fixed := by
  unfold State.written
  split <;> grind [State.deliver_fixed]
theorem State.fillDone_fixed (s : State) (g : Nat) :
    (State.fillDone s g).fixed = s.fixed := by
  unfold State.fillDone
  split
  · grind
  · rename_i q rest h
    have hm := State.modChan_still s g fun c => { c with filling := rest }
    grind [State.fixed, State.still, State.serveChan_fixed, State.written_fixed, State.lineWrite_fixed]
theorem State.written_memOk (p : State × Option Nat) (q : MemReq) : p.1.memOk → (State.written p q).memOk := by
  unfold State.written
  split <;> grind [State.deliver_memOk]
theorem State.fillDone_memOk (s : State) (g : Nat) :
    s.memOk → (State.fillDone s g).memOk := by
  unfold State.fillDone
  split
  · grind
  · rename_i q rest h
    have hm := State.modChan_still s g fun c => { c with filling := rest }
    grind [State.memOk, State.still, State.serveChan_memOk, State.written_memOk, State.lineWrite_memOk]
theorem State.drainChan_fixed (s : State) (g : Nat) :
    (State.drainChan s g).fixed = s.fixed := by
  unfold State.drainChan
  try extract_lets
  all_goals grind (splits := 12) [State.fixed, State.still, fixed_of_still, State.readBack_fixed, State.modChan_still, State.fillDone_fixed, State.flushAll_fixed, foldl_fixed, foldl_pair_fixed]
theorem State.drainChan_memOk (s : State) (g : Nat) :
    s.memOk → (State.drainChan s g).memOk := by
  intro hs
  unfold State.drainChan
  try extract_lets
  all_goals grind (splits := 12) [State.memOk, State.still, memOk_of_still, State.readBack_memOk, State.modChan_still, State.fillDone_memOk, State.flushAll_memOk, foldl_memOk, foldl_pair_memOk]
theorem State.beginChange_fixed (s : State) (stack : Nat) :
    (State.beginChange s stack).fixed = s.fixed := by
  unfold State.beginChange
  try extract_lets
  all_goals grind (splits := 12) [State.fixed, State.still, fixed_of_still, State.drainChan_fixed, State.modChan_still, foldl_fixed, foldl_pair_fixed]
theorem State.beginChange_memOk (s : State) (stack : Nat) :
    s.memOk → (State.beginChange s stack).memOk := by
  intro hs
  unfold State.beginChange
  try extract_lets
  all_goals grind (splits := 12) [State.memOk, State.still, memOk_of_still, State.drainChan_memOk, State.modChan_still, foldl_memOk, foldl_pair_memOk]
theorem State.slotWork_still (s : State) (k g : Nat) :
    (State.slotWork s k g).still = s.still := by
  grind [State.slotWork, State.still, State.modChan_still, State.maintain_still]
theorem State.enterSlot_fixed (s : State) (k : Nat) :
    (State.enterSlot s k).fixed = s.fixed := by
  grind [State.enterSlot, State.fixed, State.still, fixed_of_still, State.edgeGuardEnd_still, State.beginTest_still, State.beginChange_fixed, State.slotWork_still, State.drainAnswers_fixed, State.settleCalibrations_still, State.modPort_still, State.pump_still]
theorem State.enterSlot_memOk (s : State) (k : Nat) :
    s.memOk → (State.enterSlot s k).memOk := by
  grind [State.enterSlot, State.memOk, State.still, memOk_of_still, State.edgeGuardEnd_still, State.beginTest_still, State.beginChange_memOk, State.slotWork_still, State.drainAnswers_memOk, State.settleCalibrations_still, State.modPort_still, State.pump_still]
theorem State.cycleBegins_still (s : State) :
    (State.cycleBegins s).still = s.still := by
  grind [State.cycleBegins, State.still, State.setLevel_still]
theorem State.restartFor_fixed (s : State) (A B : List Nat) (first : Nat → Slot) (change : State → State) (h : ∀ t, (change t).fixed = t.fixed) :
    (State.restartFor s A B first change).fixed = s.fixed := by
  unfold State.restartFor
  dsimp only
  refine (foldl_fixed _ (fun t x => State.enterSlot_fixed _ _) _ _).trans ((fixed_of_still (State.cycleBegins_still _)).trans ((h _).trans ?_))
  exact foldl_fixed (fun (t : State) k => t.leaveSlot k (first k)) (fun t x => State.leaveSlot_fixed _ _ _) A s
theorem State.restartFor_memOk (s : State) (A B : List Nat) (first : Nat → Slot) (change : State → State) (h : ∀ t, t.memOk → (change t).memOk) :
    s.memOk → (State.restartFor s A B first change).memOk := by
  intro hs
  unfold State.restartFor
  dsimp only
  refine foldl_memOk _ (fun t x => State.enterSlot_memOk _ _) _ _ (memOk_of_still (State.cycleBegins_still _) (h _ ?_))
  exact foldl_memOk (fun (t : State) k => t.leaveSlot k (first k)) (fun t x => State.leaveSlot_memOk _ _ _) A s hs
theorem State.restartLists_fixed (s : State) (first : Nat → Slot) (change : State → State) (h : ∀ t, (change t).fixed = t.fixed) :
    (State.restartLists s first change).fixed = s.fixed := State.restartFor_fixed _ _ _ _ _ h
theorem State.restartLists_memOk (s : State) (first : Nat → Slot) (change : State → State) (h : ∀ t, t.memOk → (change t).memOk) :
    s.memOk → (State.restartLists s first change).memOk := State.restartFor_memOk _ _ _ _ _ h
theorem State.switchGates_still (s : State) :
    (State.switchGates s).still = s.still := by
  grind [State.switchGates, State.still, State.setParent_still]
theorem State.switchRoutes_still (s : State) :
    (State.switchRoutes s).still = s.still := by
  grind [State.switchRoutes, State.still, State.setClasses_still]

/-! ## TriplexUnits -/

theorem State.releaseOne_still (s : State) :
    (State.releaseOne s).still = s.still := by
  grind [State.releaseOne, State.still]
theorem State.failUnit_still (s : State) (u : Nat) :
    (State.failUnit s u).still = s.still := by
  grind [State.failUnit, State.still, State.modCu_still, State.refuse_still, State.cuState_still, State.dropToken_still]
theorem State.voterFault_still (s : State) (l : List Nat) :
    (State.voterFault s l).1.still = s.still := by
  grind [State.voterFault, State.still, State.injected_still]

/-! ## SecurityUnit -/

theorem State.unlockFailed_still (s : State) (level : Nat) :
    (State.unlockFailed s level).still = s.still := by
  grind [State.unlockFailed, State.still, State.rise_still, State.log_still]
theorem State.relock_still (s : State) :
    (State.relock s).still = s.still := by
  grind [State.relock, State.still]
theorem State.debugOff_memOk (s : State) :
    s.memOk → (State.debugOff s).memOk := by
  grind [State.debugOff, State.memOk]
theorem State.debugOff_pending (s : State) :
    (State.debugOff s).pending = s.pending := by
  unfold State.debugOff
  extract_lets
  grind []

end Sys2Proof.Machine
end

