-- ==== Sys2Proof/Laws/FrameUnits.lean ====
section
/-! SUPPORT. What start-up, the host port, the interrupt controller, BELLOWS and the registers leave unchanged (`still`: the queue, the fuses and the memory; `fixed`: the queue and the fuses), and that
they keep memory in its canonical form (`memOk`). One lemma an operation; the rows cite these and unfold nothing. -/

set_option Elab.async false

namespace Sys2Proof.Machine

/-! ## Boot -/

theorem State.toReset_memOk (s : State) (cause : Nat) : s.memOk → (State.toReset s cause).memOk := fun _ => rfl
theorem State.toReset_pending (s : State) (cause : Nat) : (State.toReset s cause).pending = s.pending := by
  have := State.draw_still s
  grind [State.toReset, State.still]
theorem State.kindlingFail_still (s : State) (u image : Nat) :
    (State.kindlingFail s u image).still = s.still := by
  grind [State.kindlingFail, State.still, State.log_still]
theorem State.unitLoads_still (s : State) (u area : Nat) (x : ImageCheck) (backup : Bool) :
    (State.unitLoads s u area x backup).still = s.still := by
  grind [State.unitLoads, State.still, State.modCu_still]
theorem State.verifyUnit_still (s : State) (u : Nat) :
    (State.verifyUnit s u).still = s.still := by
  grind [State.verifyUnit, State.still, State.unitLoads_still, State.kindlingFail_still, State.modCu_still, State.cuState_still]
theorem State.loadWear_still (s : State) : (State.loadWear s).still = s.still := by
  unfold State.loadWear
  split <;> rfl
theorem State.applyRetirements_still (s : State) :
    (State.applyRetirements s).still = s.still := by
  grind [State.applyRetirements, State.still, State.modChan_still, State.modEmber_still, State.modPort_still, State.modCord_still, foldl_still, foldl_pair_still]
theorem State.issueAttest_still (s : State) :
    (State.issueAttest s).still = s.still := by
  grind [State.issueAttest, State.still, State.draw_still]
theorem State.kindlingEnds_still (s : State) :
    (State.kindlingEnds s).still = s.still := by
  grind [State.kindlingEnds, State.still, State.issueAttest_still, State.routeOwned_still, State.applyRetirements_still, State.loadWear_still]
theorem State.fenceTile_still (s : State) (t : Nat) :
    (State.fenceTile s t).still = s.still := by
  grind [State.fenceTile, State.still, State.modEmber_still, State.rise_still, State.stopChan_still]
theorem State.trainingEnds_still (s : State) :
    (State.trainingEnds s).still = s.still := by
  grind [State.trainingEnds, State.still]
theorem State.trainChan_still (s : State) (g : Nat) (failed : Bool) :
    (State.trainChan s g failed).still = s.still := by
  grind [State.trainChan, State.still, State.modChan_still, State.fenceChan_still, State.trained_still]
theorem State.holdPort_still (s : State) (p cause : Nat) :
    (State.holdPort s p cause).still = s.still := by
  grind [State.holdPort, State.still, State.modPort_still, State.sendControl_still, State.pump_still]
theorem State.clearArms_still (s : State) (h : Nat) :
    (State.clearArms s h).still = s.still := by
  grind [State.clearArms, State.still, State.modChan_still, State.modEmber_still, foldl_still, foldl_pair_still]
theorem State.startPartial_fixed (s : State) (h : Nat) :
    (State.startPartial s h).fixed = s.fixed := by
  grind [State.startPartial, State.fixed, State.still, State.modFaultQ_still, State.endWaits_still, State.recallCord_fixed, State.fenceEmber_still, State.holdPort_still, State.clearArms_still, foldl_fixed, foldl_pair_fixed]
theorem State.startPartial_memOk (s : State) (h : Nat) :
    s.memOk → (State.startPartial s h).memOk := by
  grind [State.startPartial, State.memOk, State.still, State.modFaultQ_still, State.endWaits_still, State.recallCord_memOk, State.fenceEmber_still, State.holdPort_still, State.clearArms_still, foldl_memOk, foldl_pair_memOk]
theorem State.nextHreset_fixed (s : State) :
    (State.nextHreset s).fixed = s.fixed := by
  grind [State.nextHreset, State.fixed, State.still, fixed_of_still, State.startPartial_fixed]
theorem State.nextHreset_memOk (s : State) :
    s.memOk → (State.nextHreset s).memOk := by
  grind [State.nextHreset, State.memOk, State.still, memOk_of_still, State.startPartial_memOk]
theorem State.askPartial_fixed (s : State) (h : Nat) :
    (State.askPartial s h).fixed = s.fixed := by
  grind [State.askPartial, State.fixed, State.nextHreset_fixed]
theorem State.askPartial_memOk (s : State) (h : Nat) :
    s.memOk → (State.askPartial s h).memOk := by
  grind [State.askPartial, State.memOk, State.still, memOk_of_still, State.nextHreset_memOk]
theorem State.resetChan_fixed (s : State) (g : Nat) :
    (State.resetChan s g).fixed = s.fixed := by
  grind [State.resetChan, State.fixed, State.still, State.modChan_still, State.bitmapWrite_still, State.flushAll_fixed, foldl_fixed, foldl_pair_fixed]
theorem State.resetChan_memOk (s : State) (g : Nat) :
    s.memOk → (State.resetChan s g).memOk := by
  grind [State.resetChan, State.memOk, State.still, State.modChan_still, State.bitmapWrite_still, State.flushAll_memOk, foldl_memOk, foldl_pair_memOk]
theorem State.endPartial_fixed (s : State) (r : PartialReset) :
    (State.endPartial s r).fixed = s.fixed := by
  grind [State.endPartial, State.fixed, State.still, State.modEmber_still, State.modSlice_still, State.modFaultQ_still, State.log_still, State.untilElapsed_still, State.portUp_still, State.nextHreset_fixed, State.resetChan_fixed, foldl_fixed, foldl_pair_fixed]
theorem State.endPartial_memOk (s : State) (r : PartialReset) :
    s.memOk → (State.endPartial s r).memOk := by
  intro hs
  unfold State.endPartial
  try extract_lets
  all_goals grind (splits := 12) [State.memOk, State.still, memOk_of_still, State.untilElapsed_still, State.resetChan_memOk, State.modSlice_still, State.modEmber_still, State.modFaultQ_still, State.portUp_still, State.log_still, State.nextHreset_memOk, foldl_memOk, foldl_pair_memOk]
theorem State.burnEnvelope_memOk (s : State) (v : Nat) :
    s.memOk → (State.burnEnvelope s v).memOk := by
  grind [State.burnEnvelope, State.memOk]
theorem State.burnEnvelope_pending (s : State) (v : Nat) :
    (State.burnEnvelope s v).pending = s.pending := by
  unfold State.burnEnvelope
  extract_lets
  grind []
theorem State.reading_still (s : State) (h mv : Nat) :
    (State.reading s h mv).still = s.still := by
  grind [State.reading, State.still, foldl_still, foldl_pair_still]
theorem State.supplyWarning_still (s : State) (h mv : Nat) :
    (State.supplyWarning s h mv).still = s.still := by
  grind [State.supplyWarning, State.still, State.rise_still, State.cxlEvent_still, State.throttleCause_still, State.holdPort_still, State.reading_still, foldl_still, foldl_pair_still]
theorem State.loseStage_still (s : State) (h : Nat) :
    (State.loseStage s h).still = s.still := by
  grind [State.loseStage, State.still, State.modStage_still]
theorem State.loseReq_still (s : State) (m : Req) :
    (State.loseReq s m).still = s.still := by
  grind [State.loseReq, State.still, State.finish_still]
theorem State.loseWait_still (s : State) (w : SyncWait) :
    (State.loseWait s w).still = s.still := by
  grind [State.loseWait, State.still, State.modEmber_still, State.running_still, State.runError_still, State.loseReq_still]
theorem State.loseHomes_still (s : State) (h : Nat) :
    (State.loseHomes s h).still = s.still := by
  grind [State.loseHomes, State.still, State.loseReq_still, State.loseWait_still, foldl_still, foldl_pair_still]
theorem State.passHomes_still (s : State) :
    (State.passHomes s).still = s.still := by
  grind [State.passHomes, State.still]
theorem State.loseBlocks_still (s : State) (h : Nat) :
    (State.loseBlocks s h).still = s.still := by
  grind [State.loseBlocks, State.still, State.cuState_still]

/-! ## CxlPort -/

theorem State.cxlDown_still (s : State) :
    (State.cxlDown s).still = s.still := by
  grind [State.cxlDown, State.still]
theorem State.mbDone_still (s : State) (code : Nat) (r : MbReply) :
    (State.mbDone s code r).still = s.still := by
  grind [State.mbDone, State.still, State.emit_still, State.msix_still]
theorem State.onMailbox_still (s : State) (f : State → State) (h_f : ∀ (x0 : State), (f x0).still = x0.still) :
    (State.onMailbox s f).still = s.still := by
  grind [State.onMailbox, State.still]
theorem State.releaseExtent_still (s : State) (e : Extent) :
    (State.releaseExtent s e).still = s.still := by
  grind [State.releaseExtent, State.still, State.modGrant_still, State.queueStep_still]
theorem State.doeDone_still (s : State) (r : DoeReply) :
    (State.doeDone s r).still = s.still := by
  grind [State.doeDone, State.still, State.emit_still, State.msix_still]
theorem State.spdmSay_still (s : State) (msg : Bytes) : (State.spdmSay s msg).still = s.still := State.doeDone_still _ _
theorem State.spdmError_still (s : State) (code info : Nat) : (State.spdmError s code info).still = s.still := State.spdmSay_still _ _
theorem State.onSpdm_still (s : State) (code step : Nat) (req : Bytes) (f : State → State) (h : ∀ u, (f u).still = u.still) :
    (State.onSpdm s code step req f).still = s.still := by
  refine State.onMailbox_still s _ fun u => ?_
  dsimp only
  repeat' split
  all_goals grind [State.spdmError_still]
theorem State.onSigned_still (s : State) (code : Nat) (req : Bytes) (f : State → State) (h : ∀ u, (f u).still = u.still) :
    (State.onSigned s code req f).still = s.still := by
  refine State.onSpdm_still s _ _ _ _ fun u => ?_
  split <;> grind [State.spdmError_still]
theorem State.spdmAt_still (s : State) (n : Nat) (vca : Bytes) : (State.spdmAt s n vca).still = s.still := rfl
/-! ## IntcUnit -/

theorem State.claim_still (s : State) (k : Nat) :
    (State.claim s k).2.still = s.still := by
  grind [State.claim, State.still, State.withIntc_still]
theorem State.completeSrc_still (s : State) (k n : Nat) :
    (State.completeSrc s k n).still = s.still := by
  grind [State.completeSrc, State.still, State.msix_still, State.modSrc_still]
theorem State.writeSrc_still (s : State) (host : Bool) (n v : Nat) :
    (State.writeSrc s host n v).still = s.still := by
  grind [State.writeSrc, State.still, State.modSrc_still]

/-! ## BellowsUnit -/

theorem State.modBell_still (s : State) (f : Bellows → Bellows) :
    (State.modBell s f).still = s.still := by
  grind [State.modBell, State.still]
theorem State.enterFailsafe_still (s : State) :
    (State.enterFailsafe s).still = s.still := by
  grind [State.enterFailsafe, State.still, State.rise_still, State.log_still, State.cxlEvent_still, State.modBell_still]
theorem State.clearFailsafe_still (s : State) :
    (State.clearFailsafe s).still = s.still := by
  grind [State.clearFailsafe, State.still, State.modBell_still]
theorem State.bellInj_still (s : State) (v : Nat) :
    (State.bellInj s v).still = s.still := by
  grind [State.bellInj, State.still, State.modBell_still]
theorem State.wearSecond_still (s : State) :
    (State.wearSecond s).still = s.still := by
  grind [State.wearSecond, State.still, State.pump_still, State.modBell_still, foldl_still, foldl_pair_still]
theorem State.hourPassed_still (s : State) :
    (State.hourPassed s).still = s.still := by
  grind [State.hourPassed, State.still]
theorem State.putRecord_still (s : State) (ok : Bool) :
    (State.putRecord s ok).still = s.still := by
  grind [State.putRecord, State.still, State.modBell_still]
theorem State.freeBytes_still (s : State) (y0 : Nat) :
    (State.freeBytes s y0).2.still = s.still := by
  induction y0 generalizing s with
  | zero => grind [State.freeBytes]
  | succ n ih => grind [State.freeBytes, State.still, State.draw_still]

/-! ## Regs -/

theorem withPart_still {α : Type} (s : State) (x : Option (Nat × α)) (put : α → State) (h : ∀ a, (put a).still = s.still) :
    ∀ t, withPart x put = some t → t.2.still = s.still := by
  intro t ht
  obtain ⟨p, -, rfl⟩ := Option.map_eq_some_iff.1 ht
  exact h _
theorem State.counter_still (s : State) (b : RegBlock) (u o : Nat) :
    ∀ t, State.counter s b u o = some t → t.2.still = s.still := by
  unfold State.counter
  split
  all_goals first
    | refine withPart_still s _ _ (fun a => ?_); rfl
    | (intro t ht; split at ht <;> cases ht; rfl)
    | (intro t ht; cases ht)
theorem State.capture_still (s : State) (n : Nat) :
    (State.capture s n).still = s.still := by
  grind [State.capture, State.still, State.log_still]
theorem State.latchHigh_still (s : State) (rd : Reader) (b : RegBlock) (u o off : Nat) :
    (State.latchHigh s rd b u o off).still = s.still := by
  grind [State.latchHigh, State.still]
theorem State.afterRead_still (s : State) (rd : Reader) (b : RegBlock) (u o off : Nat) :
    (State.afterRead s rd b u o off).still = s.still := by
  unfold State.afterRead
  extract_lets s'
  have h : State.still s' = s.still := State.latchHigh_still _ _ _ _ _ _
  rw [← h]
  clear_value s'
  split
  · rfl
  · split
    · rename_i heq
      exact State.counter_still _ _ _ _ _ heq
    · grind [State.capture_still]
theorem State.readReg_still (s : State) (rd : Reader) (b : RegBlock) (u o off : Nat) :
    (State.readReg s rd b u o off).2.still = s.still := by
  grind [State.readReg, State.still, State.claim_still, State.afterRead_still]
theorem State.maskVector_still (s : State) (v : Nat) (on : Bool) :
    (State.maskVector s v on).still = s.still := by
  grind [State.maskVector, State.still, State.msix_still]
theorem State.bar4Write_still (s : State) (o v : Nat) :
    (State.bar4Write s o v).still = s.still := by
  grind [State.bar4Write, State.still, State.maskVector_still]
theorem State.cfgWrite_still (s : State) (o v : Nat) :
    (State.cfgWrite s o v).still = s.still := by
  grind [State.cfgWrite, State.still]
theorem State.readAccess_still (s : State) (rd : Reader) (off : Nat) :
    (State.readAccess s rd off).still = s.still := by
  grind [State.readAccess, State.still, State.emit_still, State.readReg_still]
theorem State.holdLow_still (s : State) (off v : Nat) :
    (State.holdLow s off v).still = s.still := by
  grind [State.holdLow, State.still]
theorem State.memInj_still (s : State) (g v : Nat) :
    (State.memInj s g v).still = s.still := by
  grind [State.memInj, State.still, State.modChan_still]
theorem State.memWrite_still (s : State) (g o off v : Nat) :
    (State.memWrite s g o off v).still = s.still := by
  unfold State.memWrite
  split <;> grind [State.still, State.modChan_still, State.holdLow_still, State.memInj_still]
theorem State.dirWrite_still (s : State) (i o v : Nat) :
    (State.dirWrite s i o v).still = s.still := by
  unfold State.dirWrite
  split <;> grind [State.still, State.modSlice_still]
theorem State.embInj_still (s : State) (t v : Nat) :
    (State.embInj s t v).still = s.still := by
  grind [State.embInj, State.still, State.modEmber_still]
theorem State.embWrite_still (s : State) (t o v : Nat) :
    (State.embWrite s t o v).still = s.still := by
  unfold State.embWrite
  split <;> grind [State.still, State.modEmber_still, State.embInj_still]
theorem State.ctrlReset_still (s : State) (p : Nat) :
    (State.ctrlReset s p).still = s.still := by
  grind [State.ctrlReset, State.still, State.fullReset_still]
theorem State.fabCtrl_still (s : State) (p v : Nat) :
    (State.fabCtrl s p v).still = s.still := by
  grind [State.fabCtrl, State.still, State.modPort_still, State.setDisable_still, State.ctrlReset_still, State.startRetrain_still]
theorem State.fabWrite_still (s : State) (p o v : Nat) :
    (State.fabWrite s p o v).still = s.still := by
  unfold State.fabWrite
  split <;> grind [State.still, State.fabInj_still, State.fabCtrl_still]
theorem State.gateWrite_still (s : State) (p o v : Nat) :
    (State.gateWrite s p o v).still = s.still := by
  unfold State.gateWrite
  split <;> grind [State.still, State.modPort_still]
theorem State.bellWrite_still (s : State) (o v : Nat) :
    (State.bellWrite s o v).still = s.still := by
  unfold State.bellWrite
  extract_lets
  grind [State.still, State.modBell_still, State.clearFailsafe_still, State.bellInj_still]
theorem State.intcWrite_still (s : State) (host : Bool) (o v : Nat) :
    (State.intcWrite s host o v).still = s.still := by
  grind [State.intcWrite, State.still, State.withIntc_still, State.rise_still, State.completeSrc_still, State.writeSrc_still]
theorem State.writeRank_still (s : State) (v : Nat) :
    (State.writeRank s v).still = s.still := by
  grind [State.writeRank, State.still]
theorem State.clkrstWrite_memOk (s : State) (rd : Reader) (o v : Nat) :
    s.memOk → (State.clkrstWrite s rd o v).memOk := by
  unfold State.clkrstWrite
  split <;> grind [State.memOk, State.toReset_memOk, State.askPartial_memOk, State.burnEnvelope_memOk, foldl_memOk, foldl_pair_memOk]
theorem State.clkrstWrite_pending (s : State) (rd : Reader) (o v : Nat) :
    (State.clkrstWrite s rd o v).pending = s.pending := by
  unfold State.clkrstWrite
  split
  · grind [State.toReset_pending]
  · grind [State.burnEnvelope_pending]
  · have := foldl_fixed (fun (t : State) h => t.askPartial h) (fun t h => State.askPartial_fixed t h) ((List.range 4).filter fun h => bit v h) s
    grind [State.fixed]
  · rfl
theorem State.secWrite_memOk (s : State) (rd : Reader) (o v : Nat) :
    s.memOk → (State.secWrite s rd o v).memOk := by
  grind [State.secWrite, State.memOk, State.still, State.relock_still, State.debugOff_memOk]
theorem State.secWrite_pending (s : State) (rd : Reader) (o v : Nat) :
    (State.secWrite s rd o v).pending = s.pending := by
  grind [State.secWrite, State.still, State.relock_still, State.debugOff_pending]
theorem State.errInj_memOk (s : State) (v : Nat) :
    s.memOk → (State.errInj s v).memOk := by
  grind [State.errInj, State.memOk, State.still, State.injected_still, State.toReset_memOk, State.supplyWarning_still]
theorem State.errInj_pending (s : State) (v : Nat) :
    (State.errInj s v).pending = s.pending := by
  grind [State.errInj, State.still, State.injected_still, State.toReset_pending, State.supplyWarning_still]
theorem State.errWrite_memOk (s : State) (o off v : Nat) :
    s.memOk → (State.errWrite s o off v).memOk := by
  unfold State.errWrite
  extract_lets
  grind [State.memOk, State.still, State.capture_still, State.holdLow_still, State.errInj_memOk]
theorem State.errWrite_pending (s : State) (o off v : Nat) :
    (State.errWrite s o off v).pending = s.pending := by
  unfold State.errWrite
  extract_lets
  grind [State.still, State.capture_still, State.holdLow_still, State.errInj_pending]
theorem State.telemGo_still (s : State) :
    (State.telemGo s).still = s.still := by
  grind [State.telemGo, State.still]
theorem State.telemWrite_still (s : State) (o v : Nat) :
    (State.telemWrite s o v).still = s.still := by
  unfold State.telemWrite
  extract_lets
  grind [State.still, State.telemGo_still]
theorem State.writeReg_memOk (s : State) (rd : Reader) (b : RegBlock) (u o off v : Nat) :
    s.memOk → (State.writeReg s rd b u o off v).memOk := by
  unfold State.writeReg
  extract_lets
  grind [State.memOk, State.still, State.markSlot_still, State.memWrite_still, State.dirWrite_still, State.embWrite_still, State.fabWrite_still, State.gateWrite_still, State.bellWrite_still, State.intcWrite_still, State.writeRank_still, State.clkrstWrite_memOk, State.secWrite_memOk, State.errWrite_memOk, State.telemWrite_still]
theorem State.writeReg_pending (s : State) (rd : Reader) (b : RegBlock) (u o off v : Nat) :
    (State.writeReg s rd b u o off v).pending = s.pending := by
  unfold State.writeReg
  extract_lets
  grind [State.still, State.markSlot_still, State.memWrite_still, State.dirWrite_still, State.embWrite_still, State.fabWrite_still, State.gateWrite_still, State.bellWrite_still, State.intcWrite_still, State.writeRank_still, State.clkrstWrite_pending, State.secWrite_pending, State.errWrite_pending, State.telemWrite_still]
theorem State.aliasWrite_memOk (s : State) (rd : Reader) (w : AliasWindow) (b : RegBlock) (u o off v : Nat) :
    s.memOk → (State.aliasWrite s rd w b u o off v).memOk := by
  grind [State.aliasWrite, State.memOk, State.writeReg_memOk]
theorem State.aliasWrite_pending (s : State) (rd : Reader) (w : AliasWindow) (b : RegBlock) (u o off v : Nat) :
    (State.aliasWrite s rd w b u o off v).pending = s.pending := by
  grind [State.aliasWrite, State.writeReg_pending]
theorem State.bar0Write_memOk (s : State) (rd : Reader) (w : Option AliasWindow) (off v : Nat) :
    s.memOk → (State.bar0Write s rd w off v).memOk := by
  grind [State.bar0Write, State.memOk, State.writeReg_memOk, State.aliasWrite_memOk]
theorem State.bar0Write_pending (s : State) (rd : Reader) (w : Option AliasWindow) (off v : Nat) :
    (State.bar0Write s rd w off v).pending = s.pending := by
  grind [State.bar0Write, State.writeReg_pending, State.aliasWrite_pending]
theorem State.writeAccess_memOk (s : State) (rd : Reader) (off v : Nat) :
    s.memOk → (State.writeAccess s rd off v).memOk := by
  grind [State.writeAccess, State.memOk, State.still, State.bar4Write_still, State.cfgWrite_still, State.bar0Write_memOk]
theorem State.writeAccess_pending (s : State) (rd : Reader) (off v : Nat) :
    (State.writeAccess s rd off v).pending = s.pending := by
  grind [State.writeAccess, State.still, State.bar4Write_still, State.cfgWrite_still, State.bar0Write_pending]

/-! ## Shared operations of the rows -/

theorem State.scrubDone_still (s : State) (k : Cmd) (r : Scrub) :
    (State.scrubDone s k r).still = s.still := by
  grind [State.scrubDone, State.still, State.final_still, State.corrected_still]
theorem State.endEvent_still (s : State) :
    (State.endEvent s).still = s.still := by
  grind [State.endEvent, State.still, State.throttleEvent_still]
theorem State.leavesMesh_still (s : State) (f : Flit) (input : Nat) :
    (State.leavesMesh s f input).still = s.still := by
  grind [State.leavesMesh, State.still, State.request_still, State.reachHome_still, State.queueOut_still, State.routeDiscard_still]
theorem State.hop_still (s : State) (i o : Nat) :
    (State.hop s i o).still = s.still := by
  grind [State.hop, State.still, State.leavesMesh_still]
theorem State.again_still (s : State) (k : Cmd) :
    (State.again s k).still = s.still := by
  grind [State.again, State.still, State.deferOnce_still]
theorem State.testStart_still (s t : State) (k : Cmd) : s.testStart k = .go t → t.still = s.still := by
  intro h
  unfold State.testStart at h
  extract_lets u c at h
  repeat' split at h
  all_goals cases h
  all_goals grind [State.still, State.modEmber_still, State.modChan_still, State.modPort_still, State.fullReset_still, State.dropToken_still, State.cuState_still]
theorem State.recordReady_fixed (s : State) (r : Run) :
    (State.recordReady s r).1.fixed = s.fixed := by
  grind [State.recordReady, State.fixed, State.still, fixed_of_still, State.internal_fixed]
theorem State.linesFree_fixed (s : State) (h lo hi : Nat) :
    (State.linesFree s h lo hi).1.fixed = s.fixed := by
  unfold State.linesFree
  extract_lets inside held
  split
  · rfl
  · exact foldl_fixed _ (fun t l => State.internal_fixed t _) _ _ 
theorem State.granuleFree_fixed (s : State) (h a hi base top : Nat) :
    (State.granuleFree s h a hi base top).1.fixed = s.fixed := by
  unfold State.granuleFree
  split
  · rfl
  · exact State.linesFree_fixed _ _ _ _
theorem State.rangeFree_fixed (s : State) (h a len : Nat) :
    (State.rangeFree s h a len).1.fixed = s.fixed := by
  unfold State.rangeFree
  refine foldl_pair_fixed _ (fun p i => ?_) _ (s, true)
  exact State.granuleFree_fixed p.1 _ _ _ _ _
theorem State.tested_fixed (s : State) (kind u : Nat) (pass : Bool) :
    (State.tested s kind u pass).fixed = s.fixed := by
  unfold State.tested
  split <;> grind [State.fixed, State.still, fixed_of_still, State.modEmber_still, State.modChan_still, State.channelTested_fixed, State.cuState_still]
theorem State.endChange_fixed (s : State) (stack : Nat) :
    (State.endChange s stack).fixed = s.fixed := by
  refine foldl_fixed _ (fun t g => ?_) _ _
  grind [State.fixed, State.still, fixed_of_still, State.modChan_still, State.maintain_still, State.serveChan_fixed]
theorem State.scrubOn_fixed (s : State) (k : Cmd) (r : Scrub) :
    (State.scrubOn s k r).fixed = s.fixed := by
  unfold State.scrubOn
  extract_lets a hi keep
  have hk : ∀ t r, (keep t r).still = t.still := fun _ _ => rfl
  clear_value keep
  split
  · grind [State.fixed, State.still, fixed_of_still, State.scrubDone_still]
  · split
    · grind [State.fixed, State.still, fixed_of_still]
    · extract_lets l
      split
      · grind [State.fixed, State.still, fixed_of_still]
      · have hp := State.portTurn_still s (s.scrubReq r l)
        split
        · grind [State.fixed, State.still, fixed_of_still]
        · rename_i u hu
          have hf := foldl_pair_fixed (fun p x => State.scrubAt p x a k.ctx) (fun p x => State.scrubAt_fixed p x a k.ctx) (blockLines r.next hi)
            (u, { r with after := u.clk.elapsed + u.scrubPause l (blockLines r.next hi).length })
          split
          rename_i v q he
          rw [he] at hf
          split <;> grind [State.fixed, State.still, fixed_of_still, State.scrubDone_still]
theorem State.recordReady_memOk (s : State) (r : Run) :
    s.memOk → (State.recordReady s r).1.memOk := by
  grind [State.recordReady, State.memOk, State.still, memOk_of_still, State.internal_memOk]
theorem State.linesFree_memOk (s : State) (h lo hi : Nat) :
    s.memOk → (State.linesFree s h lo hi).1.memOk := by
  intro hs
  unfold State.linesFree
  extract_lets inside held
  split
  · exact hs
  · exact foldl_memOk _ (fun t l => State.internal_memOk t _) _ _ hs
theorem State.granuleFree_memOk (s : State) (h a hi base top : Nat) :
    s.memOk → (State.granuleFree s h a hi base top).1.memOk := by
  unfold State.granuleFree
  split
  · exact id
  · exact State.linesFree_memOk _ _ _ _
theorem State.rangeFree_memOk (s : State) (h a len : Nat) :
    s.memOk → (State.rangeFree s h a len).1.memOk := by
  unfold State.rangeFree
  refine foldl_pair_memOk _ (fun p i => ?_) _ (s, true)
  exact State.granuleFree_memOk p.1 _ _ _ _ _
theorem State.tested_memOk (s : State) (kind u : Nat) (pass : Bool) :
    s.memOk → (State.tested s kind u pass).memOk := by
  unfold State.tested
  split <;> grind [State.memOk, State.still, memOk_of_still, State.modEmber_still, State.modChan_still, State.channelTested_memOk, State.cuState_still]
theorem State.endChange_memOk (s : State) (stack : Nat) :
    s.memOk → (State.endChange s stack).memOk := by
  refine foldl_memOk _ (fun t g => ?_) _ _
  grind [State.memOk, State.still, memOk_of_still, State.modChan_still, State.maintain_still, State.serveChan_memOk]
theorem State.scrubOn_memOk (s : State) (k : Cmd) (r : Scrub) :
    s.memOk → (State.scrubOn s k r).memOk := by
  intro hs
  unfold State.scrubOn
  extract_lets a hi keep
  have hk : ∀ t r, (keep t r).still = t.still := fun _ _ => rfl
  clear_value keep
  split
  · grind [State.memOk, State.still, memOk_of_still, State.scrubDone_still]
  · split
    · grind [State.memOk, State.still, memOk_of_still]
    · extract_lets l
      split
      · grind [State.memOk, State.still, memOk_of_still]
      · have hp := State.portTurn_still s (s.scrubReq r l)
        split
        · grind [State.memOk, State.still, memOk_of_still]
        · rename_i u hu
          have hf := foldl_pair_memOk (fun p x => State.scrubAt p x a k.ctx) (fun p x => State.scrubAt_memOk p x a k.ctx) (blockLines r.next hi)
            (u, { r with after := u.clk.elapsed + u.scrubPause l (blockLines r.next hi).length })
          split
          rename_i v q he
          rw [he] at hf
          split <;> grind [State.memOk, State.still, memOk_of_still, State.scrubDone_still]

end Sys2Proof.Machine
end

