-- ==== Sys2Proof/Laws/Fuses.lean ====
section
/-! SUPPORT. What the operations that reset the device or write a fuse do to the envelope fuses, and what the wrappers of the rows keep. Every
other operation leaves the fuses as they are: `_fixed` and `_still` of the Frame files. -/

set_option Elab.async false

namespace Sys2Proof.Machine

theorem fuseOk_of_fixed {s t : State} (h : t.fixed = s.fixed) (hs : s.FuseOk) : t.FuseOk := by
  simp only [State.fixed, Prod.mk.injEq] at h
  obtain ⟨-, h1, h2, -, h3⟩ := h
  unfold State.FuseOk; rw [h1, h2, h3]; exact hs
theorem sealedAt_of_fixed {s t : State} {e : Nat} (h : t.fixed = s.fixed) (hs : s.SealedAt e) : t.SealedAt e := by
  simp only [State.fixed, Prod.mk.injEq] at h
  obtain ⟨-, h1, h2, -, h3⟩ := h
  unfold State.SealedAt; rw [h1, h2, h3]; exact hs

theorem of_ite {α : Type} {P : α → Prop} {c : Prop} [Decidable c] {a b : α} (ha : P a) (hb : P b) : P (if c then a else b) := by
  split <;> assumption

theorem State.toReset_fuse (s : State) (c : Nat) (hs : s.FuseOk) : (s.toReset c).FuseOk := by
  obtain ⟨h1, h2, h3⟩ := hs
  have e : (s.keptAfter s.draws).envSealed = s.kept.envSealed := by unfold State.keptAfter; grind
  have b : (s.keptAfter s.draws).envBurned < 4 := by
    have : ∀ code n, code < 4 → s.kept.envBurned ||| (code &&& n) < 4 := fun code n hc =>
      Nat.or_lt_two_pow (n := 2) h1 (Nat.lt_of_le_of_lt Nat.and_le_left hc)
    unfold State.keptAfter; grind
  exact ⟨b, fun _ => rfl, fun _ h => by simp [State.toReset, State.draw] at h⟩
theorem State.toReset_sealed (s : State) (c e : Nat) (hs : s.SealedAt e) : (s.toReset c).SealedAt e := by
  obtain ⟨h1, h2, h3⟩ := hs
  exact ⟨by simp [State.toReset, State.draw, State.keptAfter, h3]; grind, by simp [State.toReset, State.draw, State.keptAfter, h3]; grind, rfl⟩
theorem State.burnEnvelope_fuse (s : State) (v : Nat) (hs : s.FuseOk) : (s.burnEnvelope v).FuseOk := by
  have : bits v 0 2 < 4 := by unfold bits; omega
  unfold State.burnEnvelope
  extract_lets c
  split
  · obtain ⟨h1, h2, h3⟩ := hs
    refine ⟨h1, ?_, ?_⟩ <;> simp_all [c]
  · exact hs
theorem State.burnEnvelope_sealed (s : State) (v e : Nat) (hs : s.SealedAt e) : (s.burnEnvelope v).SealedAt e := by
  have : s.burnEnvelope v = s := by simp [State.burnEnvelope, hs.1]
  rw [this]; exact hs
theorem State.debugOff_fuse (s : State) (hs : s.FuseOk) : s.debugOff.FuseOk := hs
theorem State.debugOff_sealed (s : State) (e : Nat) (hs : s.SealedAt e) : s.debugOff.SealedAt e := hs
theorem State.clkrstWrite_fuse (s : State) (rd : Reader) (o v : Nat) (hs : s.FuseOk) : (s.clkrstWrite rd o v).FuseOk := by
  unfold State.clkrstWrite
  split
  · split <;> [exact State.toReset_fuse _ _ hs; exact hs]
  · split <;> [exact State.burnEnvelope_fuse _ _ hs; exact hs]
  · exact fuseOk_of_fixed (foldl_fixed _ (fun t h => State.askPartial_fixed t h) _ _) hs
  · exact hs
theorem State.clkrstWrite_sealed (s : State) (rd : Reader) (o v e : Nat) (hs : s.SealedAt e) : (s.clkrstWrite rd o v).SealedAt e := by
  unfold State.clkrstWrite
  split
  · split <;> [exact State.toReset_sealed _ _ _ hs; exact hs]
  · split <;> [exact State.burnEnvelope_sealed _ _ _ hs; exact hs]
  · exact sealedAt_of_fixed (foldl_fixed _ (fun t h => State.askPartial_fixed t h) _ _) hs
  · exact hs
theorem State.secWrite_fuse (s : State) (rd : Reader) (o v : Nat) (hs : s.FuseOk) : (s.secWrite rd o v).FuseOk := by
  unfold State.secWrite
  repeat' split
  all_goals exact hs
theorem State.secWrite_sealed (s : State) (rd : Reader) (o v e : Nat) (hs : s.SealedAt e) : (s.secWrite rd o v).SealedAt e := by
  unfold State.secWrite
  repeat' split
  all_goals exact hs
theorem State.errInj_fuse (s : State) (v : Nat) (hs : s.FuseOk) : (s.errInj v).FuseOk := by
  unfold State.errInj
  split
  · exact hs
  extract_lets x u d
  split
  · exact hs
  split
  · exact fuseOk_of_fixed (fixed_of_still ((State.injected_still _ _ _).trans (State.supplyWarning_still _ _ _))) hs
  split
  · exact State.toReset_fuse _ _ (fuseOk_of_fixed (fixed_of_still (State.injected_still _ _ _)) hs)
  · exact hs
theorem State.errInj_sealed (s : State) (v e : Nat) (hs : s.SealedAt e) : (s.errInj v).SealedAt e := by
  unfold State.errInj
  split
  · exact hs
  extract_lets x u d
  split
  · exact hs
  split
  · exact sealedAt_of_fixed (fixed_of_still ((State.injected_still _ _ _).trans (State.supplyWarning_still _ _ _))) hs
  split
  · exact State.toReset_sealed _ _ _ (sealedAt_of_fixed (fixed_of_still (State.injected_still _ _ _)) hs)
  · exact hs
theorem State.errWrite_fuse (s : State) (o off v : Nat) (hs : s.FuseOk) : (s.errWrite o off v).FuseOk := by
  unfold State.errWrite
  repeat' split
  all_goals first | exact hs | exact State.errInj_fuse _ _ hs 
theorem State.errWrite_sealed (s : State) (o off v e : Nat) (hs : s.SealedAt e) : (s.errWrite o off v).SealedAt e := by
  unfold State.errWrite
  repeat' split
  all_goals first | exact hs | exact State.errInj_sealed _ _ _ hs
theorem State.writeReg_fuse (s : State) (rd : Reader) (b : RegBlock) (u o off v : Nat) (hs : s.FuseOk) : (s.writeReg rd b u o off v).FuseOk := by
  have f {t : State} (h : t.still = s.still) : t.FuseOk := fuseOk_of_fixed (fixed_of_still h) hs
  unfold State.writeReg
  refine of_ite (P := State.FuseOk) hs ?_
  cases b <;> first
    | exact State.clkrstWrite_fuse _ _ _ _ hs | exact State.secWrite_fuse _ _ _ _ hs | exact State.errWrite_fuse _ _ _ _ hs
    | exact f (State.intcWrite_still _ _ _ _) | exact f (State.bellWrite_still _ _ _) | exact f (State.fabWrite_still _ _ _ _)
    | exact f (State.gateWrite_still _ _ _ _) | exact f (State.memWrite_still _ _ _ _ _) | exact f (State.dirWrite_still _ _ _ _)
    | exact f (State.embWrite_still _ _ _ _) | exact f (State.telemWrite_still _ _ _)
    | exact of_ite (P := State.FuseOk) hs hs | exact of_ite (P := State.FuseOk) (f (State.writeRank_still _ _)) hs
    | exact of_ite (P := State.FuseOk) (f (State.markSlot_still _ _ _)) hs
theorem State.writeReg_sealed (s : State) (rd : Reader) (b : RegBlock) (u o off v e : Nat) (hs : s.SealedAt e) :
    (s.writeReg rd b u o off v).SealedAt e := by
  have f {t : State} (h : t.still = s.still) : t.SealedAt e := sealedAt_of_fixed (fixed_of_still h) hs
  unfold State.writeReg
  refine of_ite (P := (State.SealedAt · e)) hs ?_
  cases b <;> first
    | exact State.clkrstWrite_sealed _ _ _ _ _ hs | exact State.secWrite_sealed _ _ _ _ _ hs | exact State.errWrite_sealed _ _ _ _ _ hs
    | exact f (State.intcWrite_still _ _ _ _) | exact f (State.bellWrite_still _ _ _) | exact f (State.fabWrite_still _ _ _ _)
    | exact f (State.gateWrite_still _ _ _ _) | exact f (State.memWrite_still _ _ _ _ _) | exact f (State.dirWrite_still _ _ _ _)
    | exact f (State.embWrite_still _ _ _ _) | exact f (State.telemWrite_still _ _ _)
    | exact of_ite (P := (State.SealedAt · e)) hs hs | exact of_ite (P := (State.SealedAt · e)) (f (State.writeRank_still _ _)) hs
    | exact of_ite (P := (State.SealedAt · e)) (f (State.markSlot_still _ _ _)) hs
theorem State.bar0Write_fuse (s : State) (rd : Reader) (w : Option AliasWindow) (off v : Nat) (hs : s.FuseOk) : (s.bar0Write rd w off v).FuseOk := by
  unfold State.bar0Write State.aliasWrite
  repeat' split
  all_goals first
    | exact hs
    | exact State.writeReg_fuse _ _ _ _ _ _ _ hs
    | exact of_ite (P := State.FuseOk) hs (State.writeReg_fuse _ _ _ _ _ _ _ hs)
theorem State.bar0Write_sealed (s : State) (rd : Reader) (w : Option AliasWindow) (off v e : Nat) (hs : s.SealedAt e) :
    (s.bar0Write rd w off v).SealedAt e := by
  unfold State.bar0Write State.aliasWrite
  repeat' split
  all_goals first
    | exact hs
    | exact State.writeReg_sealed _ _ _ _ _ _ _ _ hs
    | exact of_ite (P := (State.SealedAt · e)) hs (State.writeReg_sealed _ _ _ _ _ _ _ _ hs)
theorem State.writeAccess_fuse (s : State) (rd : Reader) (off v : Nat) (hs : s.FuseOk) : (s.writeAccess rd off v).FuseOk := by
  unfold State.writeAccess
  split
  · split
    · exact hs
    · exact of_ite (P := State.FuseOk) (fuseOk_of_fixed (fixed_of_still (State.bar4Write_still _ _ _)) hs) (fuseOk_of_fixed (fixed_of_still (State.cfgWrite_still _ _ _)) hs)
  · exact State.bar0Write_fuse _ _ _ _ _ hs
theorem State.writeAccess_sealed (s : State) (rd : Reader) (off v e : Nat) (hs : s.SealedAt e) : (s.writeAccess rd off v).SealedAt e := by
  unfold State.writeAccess
  split
  · split
    · exact hs
    · exact of_ite (P := (State.SealedAt · e)) (sealedAt_of_fixed (fixed_of_still (State.bar4Write_still _ _ _)) hs) (sealedAt_of_fixed (fixed_of_still (State.cfgWrite_still _ _ _)) hs)
  · exact State.bar0Write_sealed _ _ _ _ _ _ hs

/-! ## The wrappers of the rows -/

theorem State.meshOp_fixed (s : State) (n : Nat) (op : MsgOp) (f : Req → State) (h : ∀ m, (f m).fixed = s.fixed) : (s.meshOp n op f).fixed = s.fixed := by
  unfold State.meshOp; split <;> [split; skip] <;> first | exact h _ | rfl
theorem State.meshOp_memOk (s : State) (n : Nat) (op : MsgOp) (f : Req → State) (h : ∀ m, s.memOk → (f m).memOk) : s.memOk → (s.meshOp n op f).memOk := by
  intro hs; unfold State.meshOp; split <;> [split; skip] <;> first | exact h _ hs | exact hs
theorem State.withTaken_fixed (s : State) (c t op : Nat) (f : Cmd → State → State) (h : ∀ k u, (f k u).fixed = u.fixed) : (s.withTaken c t op f).fixed = s.fixed := by
  unfold State.withTaken; split <;> [split; skip] <;> first | exact h _ _ | rfl
theorem State.withTaken_memOk (s : State) (c t op : Nat) (f : Cmd → State → State) (h : ∀ k u, u.memOk → (f k u).memOk) : s.memOk → (s.withTaken c t op f).memOk := by
  intro hs; unfold State.withTaken; split <;> [split; skip] <;> first | exact h _ _ hs | exact hs
theorem State.withRunning_fixed (s : State) (c t op : Nat) (f : Cmd → State → State) (h : ∀ k u, (f k u).fixed = u.fixed) : (s.withRunning c t op f).fixed = s.fixed := by
  unfold State.withRunning; split <;> [split; skip] <;> first | exact h _ _ | rfl
theorem State.withRunning_memOk (s : State) (c t op : Nat) (f : Cmd → State → State) (h : ∀ k u, u.memOk → (f k u).memOk) : s.memOk → (s.withRunning c t op f).memOk := by
  intro hs; unfold State.withRunning; split <;> [split; skip] <;> first | exact h _ _ hs | exact hs
theorem onUnit_fixed (n k : Nat) (f : State → State) (s : State) (h : ∀ u, (f u).fixed = u.fixed) : (onUnit n k f s).fixed = s.fixed := by
  unfold onUnit; split <;> [exact h _; rfl]
theorem onUnit_memOk (n k : Nat) (f : State → State) (s : State) (h : ∀ u, u.memOk → (f u).memOk) : s.memOk → (onUnit n k f s).memOk := by
  unfold onUnit; split <;> [exact h _; exact id]
theorem State.onDesc_fixed (s : State) (t kind : Nat) (f : Run → Bytes → State → State) (h : ∀ r d u, (f r d u).fixed = u.fixed) :
    (s.onDesc t kind f).fixed = s.fixed := by
  have b : (s.boundary t).fixed = s.fixed := fixed_of_still (State.boundary_still s t)
  unfold State.onDesc
  extract_lets u e
  repeat' split
  all_goals first | exact (h _ _ _).trans b | grind [fixed_of_still, State.modEmber_still, State.embInject_still]
theorem State.onDesc_memOk (s : State) (t kind : Nat) (f : Run → Bytes → State → State) (h : ∀ r d u, u.memOk → (f r d u).memOk) :
    s.memOk → (s.onDesc t kind f).memOk := by
  intro hs
  have b : (s.boundary t).memOk := memOk_of_still (State.boundary_still s t) hs
  unfold State.onDesc
  extract_lets u e
  repeat' split
  all_goals first | exact h _ _ _ b | grind [memOk_of_still, State.modEmber_still, State.embInject_still]
theorem State.atTimer_fixed (s : State) (t : Nat) (f : State → State) (h : ∀ u, (f u).fixed = u.fixed) : (s.atTimer t f).fixed = s.fixed := by
  unfold State.atTimer; split
  · rfl
  · rw [h, fixed_of_still (State.untilTimer_still _ _)]
theorem State.atTimer_memOk (s : State) (t : Nat) (f : State → State) (h : ∀ u, u.memOk → (f u).memOk) : s.memOk → (s.atTimer t f).memOk := by
  unfold State.atTimer; split
  · exact id
  · exact fun hs => h _ (memOk_of_still (State.untilTimer_still _ _) hs)
theorem State.atElapsed_fixed (s : State) (t : Nat) (f : State → State) (h : ∀ u, (f u).fixed = u.fixed) : (s.atElapsed t f).fixed = s.fixed := by
  unfold State.atElapsed; rw [h, fixed_of_still (State.untilElapsed_still _ _)]
theorem State.atElapsed_memOk (s : State) (t : Nat) (f : State → State) (h : ∀ u, u.memOk → (f u).memOk) : s.memOk → (s.atElapsed t f).memOk :=
  fun hs => h _ (memOk_of_still (State.untilElapsed_still _ _) hs)

end Sys2Proof.Machine
end

