-- ==== Sys2Proof/Laws/State.lean ====
section
/-! SUPPORT. One lemma an update of State: every other field is as before; and what each unit reads as after an update of a unit. -/

set_option Elab.async false

namespace Sys2Proof.Machine

section
variable (s : State)

@[simp] theorem State.modChan_rest (g : Nat) (f : Chan → Chan) :
    (s.modChan g f).clk = s.clk ∧ (s.modChan g f).net = s.net ∧ (s.modChan g f).stages = s.stages ∧ (s.modChan g f).cmds = s.cmds ∧
    (s.modChan g f).nextOrder = s.nextOrder ∧ (s.modChan g f).windows = s.windows ∧ (s.modChan g f).cuOut = s.cuOut ∧
    (s.modChan g f).openReplies = s.openReplies ∧ (s.modChan g f).ctxs = s.ctxs ∧ (s.modChan g f).destroys = s.destroys ∧
    (s.modChan g f).cords = s.cords ∧ (s.modChan g f).frees = s.frees ∧ (s.modChan g f).regions = s.regions ∧ (s.modChan g f).gmap = s.gmap ∧
    (s.modChan g f).grants = s.grants ∧ (s.modChan g f).caches = s.caches ∧ (s.modChan g f).stampQ = s.stampQ ∧ (s.modChan g f).fillQ = s.fillQ ∧
    (s.modChan g f).flits = s.flits ∧ (s.modChan g f).mesh = s.mesh ∧ (s.modChan g f).completions = s.completions ∧
    (s.modChan g f).openStamps = s.openStamps ∧ (s.modChan g f).dir = s.dir ∧ (s.modChan g f).locks = s.locks ∧ (s.modChan g f).excused = s.excused ∧
    (s.modChan g f).wayWait = s.wayWait ∧ (s.modChan g f).answerWait = s.answerWait ∧ (s.modChan g f).slices = s.slices ∧
    (s.modChan g f).partitions = s.partitions ∧ (s.modChan g f).shadow = s.shadow ∧ (s.modChan g f).syncWaits = s.syncWaits ∧
    (s.modChan g f).arms = s.arms ∧ (s.modChan g f).resends = s.resends ∧ (s.modChan g f).tripWrites = s.tripWrites ∧
    (s.modChan g f).tripReads = s.tripReads ∧ (s.modChan g f).mem = s.mem ∧ (s.modChan g f).valid = s.valid ∧ (s.modChan g f).code = s.code ∧
    (s.modChan g f).bmCode = s.bmCode ∧ (s.modChan g f).scrubs = s.scrubs ∧ (s.modChan g f).faultQs = s.faultQs ∧ (s.modChan g f).embers = s.embers ∧
    (s.modChan g f).plans = s.plans ∧ (s.modChan g f).starts = s.starts ∧ (s.modChan g f).ends = s.ends ∧ (s.modChan g f).ports = s.ports ∧
    (s.modChan g f).openReqs = s.openReqs ∧ (s.modChan g f).nextTxn = s.nextTxn ∧ (s.modChan g f).inbox = s.inbox ∧
    (s.modChan g f).routes = s.routes ∧ (s.modChan g f).routeActive = s.routeActive ∧ (s.modChan g f).routeSwitched = s.routeSwitched ∧
    (s.modChan g f).sched = s.sched ∧ (s.modChan g f).triplex = s.triplex ∧ (s.modChan g f).sec = s.sec ∧ (s.modChan g f).kept = s.kept ∧
    (s.modChan g f).burning = s.burning ∧ (s.modChan g f).boot = s.boot ∧ (s.modChan g f).cxl = s.cxl ∧ (s.modChan g f).intc = s.intc ∧
    (s.modChan g f).bell = s.bell ∧ (s.modChan g f).diag = s.diag ∧ (s.modChan g f).draws = s.draws ∧ (s.modChan g f).outbox = s.outbox ∧
    (s.modChan g f).pending = s.pending := by
  and_intros <;> rfl

@[simp] theorem State.modEmber_rest (g : Nat) (f : Ember → Ember) :
    (s.modEmber g f).clk = s.clk ∧ (s.modEmber g f).net = s.net ∧ (s.modEmber g f).stages = s.stages ∧ (s.modEmber g f).cmds = s.cmds ∧
    (s.modEmber g f).nextOrder = s.nextOrder ∧ (s.modEmber g f).windows = s.windows ∧ (s.modEmber g f).cuOut = s.cuOut ∧
    (s.modEmber g f).openReplies = s.openReplies ∧ (s.modEmber g f).ctxs = s.ctxs ∧ (s.modEmber g f).destroys = s.destroys ∧
    (s.modEmber g f).cords = s.cords ∧ (s.modEmber g f).frees = s.frees ∧ (s.modEmber g f).regions = s.regions ∧ (s.modEmber g f).gmap = s.gmap ∧
    (s.modEmber g f).grants = s.grants ∧ (s.modEmber g f).caches = s.caches ∧ (s.modEmber g f).stampQ = s.stampQ ∧ (s.modEmber g f).fillQ = s.fillQ ∧
    (s.modEmber g f).flits = s.flits ∧ (s.modEmber g f).mesh = s.mesh ∧ (s.modEmber g f).completions = s.completions ∧
    (s.modEmber g f).openStamps = s.openStamps ∧ (s.modEmber g f).dir = s.dir ∧ (s.modEmber g f).locks = s.locks ∧
    (s.modEmber g f).excused = s.excused ∧ (s.modEmber g f).wayWait = s.wayWait ∧ (s.modEmber g f).answerWait = s.answerWait ∧
    (s.modEmber g f).slices = s.slices ∧ (s.modEmber g f).partitions = s.partitions ∧ (s.modEmber g f).shadow = s.shadow ∧
    (s.modEmber g f).syncWaits = s.syncWaits ∧ (s.modEmber g f).arms = s.arms ∧ (s.modEmber g f).resends = s.resends ∧
    (s.modEmber g f).tripWrites = s.tripWrites ∧ (s.modEmber g f).tripReads = s.tripReads ∧ (s.modEmber g f).chans = s.chans ∧
    (s.modEmber g f).mem = s.mem ∧ (s.modEmber g f).valid = s.valid ∧ (s.modEmber g f).code = s.code ∧ (s.modEmber g f).bmCode = s.bmCode ∧
    (s.modEmber g f).scrubs = s.scrubs ∧ (s.modEmber g f).faultQs = s.faultQs ∧ (s.modEmber g f).plans = s.plans ∧
    (s.modEmber g f).starts = s.starts ∧ (s.modEmber g f).ends = s.ends ∧ (s.modEmber g f).ports = s.ports ∧ (s.modEmber g f).openReqs = s.openReqs ∧
    (s.modEmber g f).nextTxn = s.nextTxn ∧ (s.modEmber g f).inbox = s.inbox ∧ (s.modEmber g f).routes = s.routes ∧
    (s.modEmber g f).routeActive = s.routeActive ∧ (s.modEmber g f).routeSwitched = s.routeSwitched ∧ (s.modEmber g f).sched = s.sched ∧
    (s.modEmber g f).triplex = s.triplex ∧ (s.modEmber g f).sec = s.sec ∧ (s.modEmber g f).kept = s.kept ∧ (s.modEmber g f).burning = s.burning ∧
    (s.modEmber g f).boot = s.boot ∧ (s.modEmber g f).cxl = s.cxl ∧ (s.modEmber g f).intc = s.intc ∧ (s.modEmber g f).bell = s.bell ∧
    (s.modEmber g f).diag = s.diag ∧ (s.modEmber g f).draws = s.draws ∧ (s.modEmber g f).outbox = s.outbox ∧ (s.modEmber g f).pending = s.pending := by
  and_intros <;> rfl

@[simp] theorem State.modSlice_rest (g : Nat) (f : Slice → Slice) :
    (s.modSlice g f).clk = s.clk ∧ (s.modSlice g f).net = s.net ∧ (s.modSlice g f).stages = s.stages ∧ (s.modSlice g f).cmds = s.cmds ∧
    (s.modSlice g f).nextOrder = s.nextOrder ∧ (s.modSlice g f).windows = s.windows ∧ (s.modSlice g f).cuOut = s.cuOut ∧
    (s.modSlice g f).openReplies = s.openReplies ∧ (s.modSlice g f).ctxs = s.ctxs ∧ (s.modSlice g f).destroys = s.destroys ∧
    (s.modSlice g f).cords = s.cords ∧ (s.modSlice g f).frees = s.frees ∧ (s.modSlice g f).regions = s.regions ∧ (s.modSlice g f).gmap = s.gmap ∧
    (s.modSlice g f).grants = s.grants ∧ (s.modSlice g f).caches = s.caches ∧ (s.modSlice g f).stampQ = s.stampQ ∧ (s.modSlice g f).fillQ = s.fillQ ∧
    (s.modSlice g f).flits = s.flits ∧ (s.modSlice g f).mesh = s.mesh ∧ (s.modSlice g f).completions = s.completions ∧
    (s.modSlice g f).openStamps = s.openStamps ∧ (s.modSlice g f).dir = s.dir ∧ (s.modSlice g f).locks = s.locks ∧
    (s.modSlice g f).excused = s.excused ∧ (s.modSlice g f).wayWait = s.wayWait ∧ (s.modSlice g f).answerWait = s.answerWait ∧
    (s.modSlice g f).partitions = s.partitions ∧ (s.modSlice g f).shadow = s.shadow ∧ (s.modSlice g f).syncWaits = s.syncWaits ∧
    (s.modSlice g f).arms = s.arms ∧ (s.modSlice g f).resends = s.resends ∧ (s.modSlice g f).tripWrites = s.tripWrites ∧
    (s.modSlice g f).tripReads = s.tripReads ∧ (s.modSlice g f).chans = s.chans ∧ (s.modSlice g f).mem = s.mem ∧ (s.modSlice g f).valid = s.valid ∧
    (s.modSlice g f).code = s.code ∧ (s.modSlice g f).bmCode = s.bmCode ∧ (s.modSlice g f).scrubs = s.scrubs ∧ (s.modSlice g f).faultQs = s.faultQs ∧
    (s.modSlice g f).embers = s.embers ∧ (s.modSlice g f).plans = s.plans ∧ (s.modSlice g f).starts = s.starts ∧ (s.modSlice g f).ends = s.ends ∧
    (s.modSlice g f).ports = s.ports ∧ (s.modSlice g f).openReqs = s.openReqs ∧ (s.modSlice g f).nextTxn = s.nextTxn ∧
    (s.modSlice g f).inbox = s.inbox ∧ (s.modSlice g f).routes = s.routes ∧ (s.modSlice g f).routeActive = s.routeActive ∧
    (s.modSlice g f).routeSwitched = s.routeSwitched ∧ (s.modSlice g f).sched = s.sched ∧ (s.modSlice g f).triplex = s.triplex ∧
    (s.modSlice g f).sec = s.sec ∧ (s.modSlice g f).kept = s.kept ∧ (s.modSlice g f).burning = s.burning ∧ (s.modSlice g f).boot = s.boot ∧
    (s.modSlice g f).cxl = s.cxl ∧ (s.modSlice g f).intc = s.intc ∧ (s.modSlice g f).bell = s.bell ∧ (s.modSlice g f).diag = s.diag ∧
    (s.modSlice g f).draws = s.draws ∧ (s.modSlice g f).outbox = s.outbox ∧ (s.modSlice g f).pending = s.pending := by
  and_intros <;> rfl

@[simp] theorem State.modPort_rest (g : Nat) (f : Port → Port) :
    (s.modPort g f).clk = s.clk ∧ (s.modPort g f).net = s.net ∧ (s.modPort g f).stages = s.stages ∧ (s.modPort g f).cmds = s.cmds ∧
    (s.modPort g f).nextOrder = s.nextOrder ∧ (s.modPort g f).windows = s.windows ∧ (s.modPort g f).cuOut = s.cuOut ∧
    (s.modPort g f).openReplies = s.openReplies ∧ (s.modPort g f).ctxs = s.ctxs ∧ (s.modPort g f).destroys = s.destroys ∧
    (s.modPort g f).cords = s.cords ∧ (s.modPort g f).frees = s.frees ∧ (s.modPort g f).regions = s.regions ∧ (s.modPort g f).gmap = s.gmap ∧
    (s.modPort g f).grants = s.grants ∧ (s.modPort g f).caches = s.caches ∧ (s.modPort g f).stampQ = s.stampQ ∧ (s.modPort g f).fillQ = s.fillQ ∧
    (s.modPort g f).flits = s.flits ∧ (s.modPort g f).mesh = s.mesh ∧ (s.modPort g f).completions = s.completions ∧
    (s.modPort g f).openStamps = s.openStamps ∧ (s.modPort g f).dir = s.dir ∧ (s.modPort g f).locks = s.locks ∧ (s.modPort g f).excused = s.excused ∧
    (s.modPort g f).wayWait = s.wayWait ∧ (s.modPort g f).answerWait = s.answerWait ∧ (s.modPort g f).slices = s.slices ∧
    (s.modPort g f).partitions = s.partitions ∧ (s.modPort g f).shadow = s.shadow ∧ (s.modPort g f).syncWaits = s.syncWaits ∧
    (s.modPort g f).arms = s.arms ∧ (s.modPort g f).resends = s.resends ∧ (s.modPort g f).tripWrites = s.tripWrites ∧
    (s.modPort g f).tripReads = s.tripReads ∧ (s.modPort g f).chans = s.chans ∧ (s.modPort g f).mem = s.mem ∧ (s.modPort g f).valid = s.valid ∧
    (s.modPort g f).code = s.code ∧ (s.modPort g f).bmCode = s.bmCode ∧ (s.modPort g f).scrubs = s.scrubs ∧ (s.modPort g f).faultQs = s.faultQs ∧
    (s.modPort g f).embers = s.embers ∧ (s.modPort g f).plans = s.plans ∧ (s.modPort g f).starts = s.starts ∧ (s.modPort g f).ends = s.ends ∧
    (s.modPort g f).openReqs = s.openReqs ∧ (s.modPort g f).nextTxn = s.nextTxn ∧ (s.modPort g f).inbox = s.inbox ∧
    (s.modPort g f).routes = s.routes ∧ (s.modPort g f).routeActive = s.routeActive ∧ (s.modPort g f).routeSwitched = s.routeSwitched ∧
    (s.modPort g f).sched = s.sched ∧ (s.modPort g f).triplex = s.triplex ∧ (s.modPort g f).sec = s.sec ∧ (s.modPort g f).kept = s.kept ∧
    (s.modPort g f).burning = s.burning ∧ (s.modPort g f).boot = s.boot ∧ (s.modPort g f).cxl = s.cxl ∧ (s.modPort g f).intc = s.intc ∧
    (s.modPort g f).bell = s.bell ∧ (s.modPort g f).diag = s.diag ∧ (s.modPort g f).draws = s.draws ∧ (s.modPort g f).outbox = s.outbox ∧
    (s.modPort g f).pending = s.pending := by
  and_intros <;> rfl

@[simp] theorem State.modFaultQ_rest (g : Nat) (f : FaultQueue → FaultQueue) :
    (s.modFaultQ g f).clk = s.clk ∧ (s.modFaultQ g f).net = s.net ∧ (s.modFaultQ g f).stages = s.stages ∧ (s.modFaultQ g f).cmds = s.cmds ∧
    (s.modFaultQ g f).nextOrder = s.nextOrder ∧ (s.modFaultQ g f).windows = s.windows ∧ (s.modFaultQ g f).cuOut = s.cuOut ∧
    (s.modFaultQ g f).openReplies = s.openReplies ∧ (s.modFaultQ g f).ctxs = s.ctxs ∧ (s.modFaultQ g f).destroys = s.destroys ∧
    (s.modFaultQ g f).cords = s.cords ∧ (s.modFaultQ g f).frees = s.frees ∧ (s.modFaultQ g f).regions = s.regions ∧ (s.modFaultQ g f).gmap = s.gmap ∧
    (s.modFaultQ g f).grants = s.grants ∧ (s.modFaultQ g f).caches = s.caches ∧ (s.modFaultQ g f).stampQ = s.stampQ ∧
    (s.modFaultQ g f).fillQ = s.fillQ ∧ (s.modFaultQ g f).flits = s.flits ∧ (s.modFaultQ g f).mesh = s.mesh ∧
    (s.modFaultQ g f).completions = s.completions ∧ (s.modFaultQ g f).openStamps = s.openStamps ∧ (s.modFaultQ g f).dir = s.dir ∧
    (s.modFaultQ g f).locks = s.locks ∧ (s.modFaultQ g f).excused = s.excused ∧ (s.modFaultQ g f).wayWait = s.wayWait ∧
    (s.modFaultQ g f).answerWait = s.answerWait ∧ (s.modFaultQ g f).slices = s.slices ∧ (s.modFaultQ g f).partitions = s.partitions ∧
    (s.modFaultQ g f).shadow = s.shadow ∧ (s.modFaultQ g f).syncWaits = s.syncWaits ∧ (s.modFaultQ g f).arms = s.arms ∧
    (s.modFaultQ g f).resends = s.resends ∧ (s.modFaultQ g f).tripWrites = s.tripWrites ∧ (s.modFaultQ g f).tripReads = s.tripReads ∧
    (s.modFaultQ g f).chans = s.chans ∧ (s.modFaultQ g f).mem = s.mem ∧ (s.modFaultQ g f).valid = s.valid ∧ (s.modFaultQ g f).code = s.code ∧
    (s.modFaultQ g f).bmCode = s.bmCode ∧ (s.modFaultQ g f).scrubs = s.scrubs ∧ (s.modFaultQ g f).embers = s.embers ∧
    (s.modFaultQ g f).plans = s.plans ∧ (s.modFaultQ g f).starts = s.starts ∧ (s.modFaultQ g f).ends = s.ends ∧ (s.modFaultQ g f).ports = s.ports ∧
    (s.modFaultQ g f).openReqs = s.openReqs ∧ (s.modFaultQ g f).nextTxn = s.nextTxn ∧ (s.modFaultQ g f).inbox = s.inbox ∧
    (s.modFaultQ g f).routes = s.routes ∧ (s.modFaultQ g f).routeActive = s.routeActive ∧ (s.modFaultQ g f).routeSwitched = s.routeSwitched ∧
    (s.modFaultQ g f).sched = s.sched ∧ (s.modFaultQ g f).triplex = s.triplex ∧ (s.modFaultQ g f).sec = s.sec ∧ (s.modFaultQ g f).kept = s.kept ∧
    (s.modFaultQ g f).burning = s.burning ∧ (s.modFaultQ g f).boot = s.boot ∧ (s.modFaultQ g f).cxl = s.cxl ∧ (s.modFaultQ g f).intc = s.intc ∧
    (s.modFaultQ g f).bell = s.bell ∧ (s.modFaultQ g f).diag = s.diag ∧ (s.modFaultQ g f).draws = s.draws ∧ (s.modFaultQ g f).outbox = s.outbox ∧
    (s.modFaultQ g f).pending = s.pending := by
  and_intros <;> rfl

@[simp] theorem State.modCord_rest (g : Nat) (f : Cord → Cord) :
    (s.modCord g f).clk = s.clk ∧ (s.modCord g f).net = s.net ∧ (s.modCord g f).stages = s.stages ∧ (s.modCord g f).cmds = s.cmds ∧
    (s.modCord g f).nextOrder = s.nextOrder ∧ (s.modCord g f).windows = s.windows ∧ (s.modCord g f).cuOut = s.cuOut ∧
    (s.modCord g f).openReplies = s.openReplies ∧ (s.modCord g f).ctxs = s.ctxs ∧ (s.modCord g f).destroys = s.destroys ∧
    (s.modCord g f).frees = s.frees ∧ (s.modCord g f).regions = s.regions ∧ (s.modCord g f).gmap = s.gmap ∧ (s.modCord g f).grants = s.grants ∧
    (s.modCord g f).caches = s.caches ∧ (s.modCord g f).stampQ = s.stampQ ∧ (s.modCord g f).fillQ = s.fillQ ∧ (s.modCord g f).flits = s.flits ∧
    (s.modCord g f).mesh = s.mesh ∧ (s.modCord g f).completions = s.completions ∧ (s.modCord g f).openStamps = s.openStamps ∧
    (s.modCord g f).dir = s.dir ∧ (s.modCord g f).locks = s.locks ∧ (s.modCord g f).excused = s.excused ∧ (s.modCord g f).wayWait = s.wayWait ∧
    (s.modCord g f).answerWait = s.answerWait ∧ (s.modCord g f).slices = s.slices ∧ (s.modCord g f).partitions = s.partitions ∧
    (s.modCord g f).shadow = s.shadow ∧ (s.modCord g f).syncWaits = s.syncWaits ∧ (s.modCord g f).arms = s.arms ∧
    (s.modCord g f).resends = s.resends ∧ (s.modCord g f).tripWrites = s.tripWrites ∧ (s.modCord g f).tripReads = s.tripReads ∧
    (s.modCord g f).chans = s.chans ∧ (s.modCord g f).mem = s.mem ∧ (s.modCord g f).valid = s.valid ∧ (s.modCord g f).code = s.code ∧
    (s.modCord g f).bmCode = s.bmCode ∧ (s.modCord g f).scrubs = s.scrubs ∧ (s.modCord g f).faultQs = s.faultQs ∧ (s.modCord g f).embers = s.embers ∧
    (s.modCord g f).plans = s.plans ∧ (s.modCord g f).starts = s.starts ∧ (s.modCord g f).ends = s.ends ∧ (s.modCord g f).ports = s.ports ∧
    (s.modCord g f).openReqs = s.openReqs ∧ (s.modCord g f).nextTxn = s.nextTxn ∧ (s.modCord g f).inbox = s.inbox ∧
    (s.modCord g f).routes = s.routes ∧ (s.modCord g f).routeActive = s.routeActive ∧ (s.modCord g f).routeSwitched = s.routeSwitched ∧
    (s.modCord g f).sched = s.sched ∧ (s.modCord g f).triplex = s.triplex ∧ (s.modCord g f).sec = s.sec ∧ (s.modCord g f).kept = s.kept ∧
    (s.modCord g f).burning = s.burning ∧ (s.modCord g f).boot = s.boot ∧ (s.modCord g f).cxl = s.cxl ∧ (s.modCord g f).intc = s.intc ∧
    (s.modCord g f).bell = s.bell ∧ (s.modCord g f).diag = s.diag ∧ (s.modCord g f).draws = s.draws ∧ (s.modCord g f).outbox = s.outbox ∧
    (s.modCord g f).pending = s.pending := by
  and_intros <;> rfl

@[simp] theorem State.modRegion_rest (g : Nat) (f : Region → Region) :
    (s.modRegion g f).clk = s.clk ∧ (s.modRegion g f).net = s.net ∧ (s.modRegion g f).stages = s.stages ∧ (s.modRegion g f).cmds = s.cmds ∧
    (s.modRegion g f).nextOrder = s.nextOrder ∧ (s.modRegion g f).windows = s.windows ∧ (s.modRegion g f).cuOut = s.cuOut ∧
    (s.modRegion g f).openReplies = s.openReplies ∧ (s.modRegion g f).ctxs = s.ctxs ∧ (s.modRegion g f).destroys = s.destroys ∧
    (s.modRegion g f).cords = s.cords ∧ (s.modRegion g f).frees = s.frees ∧ (s.modRegion g f).gmap = s.gmap ∧ (s.modRegion g f).grants = s.grants ∧
    (s.modRegion g f).caches = s.caches ∧ (s.modRegion g f).stampQ = s.stampQ ∧ (s.modRegion g f).fillQ = s.fillQ ∧
    (s.modRegion g f).flits = s.flits ∧ (s.modRegion g f).mesh = s.mesh ∧ (s.modRegion g f).completions = s.completions ∧
    (s.modRegion g f).openStamps = s.openStamps ∧ (s.modRegion g f).dir = s.dir ∧ (s.modRegion g f).locks = s.locks ∧
    (s.modRegion g f).excused = s.excused ∧ (s.modRegion g f).wayWait = s.wayWait ∧ (s.modRegion g f).answerWait = s.answerWait ∧
    (s.modRegion g f).slices = s.slices ∧ (s.modRegion g f).partitions = s.partitions ∧ (s.modRegion g f).shadow = s.shadow ∧
    (s.modRegion g f).syncWaits = s.syncWaits ∧ (s.modRegion g f).arms = s.arms ∧ (s.modRegion g f).resends = s.resends ∧
    (s.modRegion g f).tripWrites = s.tripWrites ∧ (s.modRegion g f).tripReads = s.tripReads ∧ (s.modRegion g f).chans = s.chans ∧
    (s.modRegion g f).mem = s.mem ∧ (s.modRegion g f).valid = s.valid ∧ (s.modRegion g f).code = s.code ∧ (s.modRegion g f).bmCode = s.bmCode ∧
    (s.modRegion g f).scrubs = s.scrubs ∧ (s.modRegion g f).faultQs = s.faultQs ∧ (s.modRegion g f).embers = s.embers ∧
    (s.modRegion g f).plans = s.plans ∧ (s.modRegion g f).starts = s.starts ∧ (s.modRegion g f).ends = s.ends ∧ (s.modRegion g f).ports = s.ports ∧
    (s.modRegion g f).openReqs = s.openReqs ∧ (s.modRegion g f).nextTxn = s.nextTxn ∧ (s.modRegion g f).inbox = s.inbox ∧
    (s.modRegion g f).routes = s.routes ∧ (s.modRegion g f).routeActive = s.routeActive ∧ (s.modRegion g f).routeSwitched = s.routeSwitched ∧
    (s.modRegion g f).sched = s.sched ∧ (s.modRegion g f).triplex = s.triplex ∧ (s.modRegion g f).sec = s.sec ∧ (s.modRegion g f).kept = s.kept ∧
    (s.modRegion g f).burning = s.burning ∧ (s.modRegion g f).boot = s.boot ∧ (s.modRegion g f).cxl = s.cxl ∧ (s.modRegion g f).intc = s.intc ∧
    (s.modRegion g f).bell = s.bell ∧ (s.modRegion g f).diag = s.diag ∧ (s.modRegion g f).draws = s.draws ∧ (s.modRegion g f).outbox = s.outbox ∧
    (s.modRegion g f).pending = s.pending := by
  and_intros <;> rfl

@[simp] theorem State.modCtx_rest (g : Nat) (f : Ctx → Ctx) :
    (s.modCtx g f).clk = s.clk ∧ (s.modCtx g f).net = s.net ∧ (s.modCtx g f).stages = s.stages ∧ (s.modCtx g f).cmds = s.cmds ∧
    (s.modCtx g f).nextOrder = s.nextOrder ∧ (s.modCtx g f).windows = s.windows ∧ (s.modCtx g f).cuOut = s.cuOut ∧
    (s.modCtx g f).openReplies = s.openReplies ∧ (s.modCtx g f).destroys = s.destroys ∧ (s.modCtx g f).cords = s.cords ∧
    (s.modCtx g f).frees = s.frees ∧ (s.modCtx g f).regions = s.regions ∧ (s.modCtx g f).gmap = s.gmap ∧ (s.modCtx g f).grants = s.grants ∧
    (s.modCtx g f).caches = s.caches ∧ (s.modCtx g f).stampQ = s.stampQ ∧ (s.modCtx g f).fillQ = s.fillQ ∧ (s.modCtx g f).flits = s.flits ∧
    (s.modCtx g f).mesh = s.mesh ∧ (s.modCtx g f).completions = s.completions ∧ (s.modCtx g f).openStamps = s.openStamps ∧
    (s.modCtx g f).dir = s.dir ∧ (s.modCtx g f).locks = s.locks ∧ (s.modCtx g f).excused = s.excused ∧ (s.modCtx g f).wayWait = s.wayWait ∧
    (s.modCtx g f).answerWait = s.answerWait ∧ (s.modCtx g f).slices = s.slices ∧ (s.modCtx g f).partitions = s.partitions ∧
    (s.modCtx g f).shadow = s.shadow ∧ (s.modCtx g f).syncWaits = s.syncWaits ∧ (s.modCtx g f).arms = s.arms ∧ (s.modCtx g f).resends = s.resends ∧
    (s.modCtx g f).tripWrites = s.tripWrites ∧ (s.modCtx g f).tripReads = s.tripReads ∧ (s.modCtx g f).chans = s.chans ∧ (s.modCtx g f).mem = s.mem ∧
    (s.modCtx g f).valid = s.valid ∧ (s.modCtx g f).code = s.code ∧ (s.modCtx g f).bmCode = s.bmCode ∧ (s.modCtx g f).scrubs = s.scrubs ∧
    (s.modCtx g f).faultQs = s.faultQs ∧ (s.modCtx g f).embers = s.embers ∧ (s.modCtx g f).plans = s.plans ∧ (s.modCtx g f).starts = s.starts ∧
    (s.modCtx g f).ends = s.ends ∧ (s.modCtx g f).ports = s.ports ∧ (s.modCtx g f).openReqs = s.openReqs ∧ (s.modCtx g f).nextTxn = s.nextTxn ∧
    (s.modCtx g f).inbox = s.inbox ∧ (s.modCtx g f).routes = s.routes ∧ (s.modCtx g f).routeActive = s.routeActive ∧
    (s.modCtx g f).routeSwitched = s.routeSwitched ∧ (s.modCtx g f).sched = s.sched ∧ (s.modCtx g f).triplex = s.triplex ∧
    (s.modCtx g f).sec = s.sec ∧ (s.modCtx g f).kept = s.kept ∧ (s.modCtx g f).burning = s.burning ∧ (s.modCtx g f).boot = s.boot ∧
    (s.modCtx g f).cxl = s.cxl ∧ (s.modCtx g f).intc = s.intc ∧ (s.modCtx g f).bell = s.bell ∧ (s.modCtx g f).diag = s.diag ∧
    (s.modCtx g f).draws = s.draws ∧ (s.modCtx g f).outbox = s.outbox ∧ (s.modCtx g f).pending = s.pending := by
  and_intros <;> rfl

@[simp] theorem State.modPlan_rest (g : Nat) (f : Plan → Plan) :
    (s.modPlan g f).clk = s.clk ∧ (s.modPlan g f).net = s.net ∧ (s.modPlan g f).stages = s.stages ∧ (s.modPlan g f).cmds = s.cmds ∧
    (s.modPlan g f).nextOrder = s.nextOrder ∧ (s.modPlan g f).windows = s.windows ∧ (s.modPlan g f).cuOut = s.cuOut ∧
    (s.modPlan g f).openReplies = s.openReplies ∧ (s.modPlan g f).ctxs = s.ctxs ∧ (s.modPlan g f).destroys = s.destroys ∧
    (s.modPlan g f).cords = s.cords ∧ (s.modPlan g f).frees = s.frees ∧ (s.modPlan g f).regions = s.regions ∧ (s.modPlan g f).gmap = s.gmap ∧
    (s.modPlan g f).grants = s.grants ∧ (s.modPlan g f).caches = s.caches ∧ (s.modPlan g f).stampQ = s.stampQ ∧ (s.modPlan g f).fillQ = s.fillQ ∧
    (s.modPlan g f).flits = s.flits ∧ (s.modPlan g f).mesh = s.mesh ∧ (s.modPlan g f).completions = s.completions ∧
    (s.modPlan g f).openStamps = s.openStamps ∧ (s.modPlan g f).dir = s.dir ∧ (s.modPlan g f).locks = s.locks ∧ (s.modPlan g f).excused = s.excused ∧
    (s.modPlan g f).wayWait = s.wayWait ∧ (s.modPlan g f).answerWait = s.answerWait ∧ (s.modPlan g f).slices = s.slices ∧
    (s.modPlan g f).partitions = s.partitions ∧ (s.modPlan g f).shadow = s.shadow ∧ (s.modPlan g f).syncWaits = s.syncWaits ∧
    (s.modPlan g f).arms = s.arms ∧ (s.modPlan g f).resends = s.resends ∧ (s.modPlan g f).tripWrites = s.tripWrites ∧
    (s.modPlan g f).tripReads = s.tripReads ∧ (s.modPlan g f).chans = s.chans ∧ (s.modPlan g f).mem = s.mem ∧ (s.modPlan g f).valid = s.valid ∧
    (s.modPlan g f).code = s.code ∧ (s.modPlan g f).bmCode = s.bmCode ∧ (s.modPlan g f).scrubs = s.scrubs ∧ (s.modPlan g f).faultQs = s.faultQs ∧
    (s.modPlan g f).embers = s.embers ∧ (s.modPlan g f).starts = s.starts ∧ (s.modPlan g f).ends = s.ends ∧ (s.modPlan g f).ports = s.ports ∧
    (s.modPlan g f).openReqs = s.openReqs ∧ (s.modPlan g f).nextTxn = s.nextTxn ∧ (s.modPlan g f).inbox = s.inbox ∧
    (s.modPlan g f).routes = s.routes ∧ (s.modPlan g f).routeActive = s.routeActive ∧ (s.modPlan g f).routeSwitched = s.routeSwitched ∧
    (s.modPlan g f).sched = s.sched ∧ (s.modPlan g f).triplex = s.triplex ∧ (s.modPlan g f).sec = s.sec ∧ (s.modPlan g f).kept = s.kept ∧
    (s.modPlan g f).burning = s.burning ∧ (s.modPlan g f).boot = s.boot ∧ (s.modPlan g f).cxl = s.cxl ∧ (s.modPlan g f).intc = s.intc ∧
    (s.modPlan g f).bell = s.bell ∧ (s.modPlan g f).diag = s.diag ∧ (s.modPlan g f).draws = s.draws ∧ (s.modPlan g f).outbox = s.outbox ∧
    (s.modPlan g f).pending = s.pending := by
  and_intros <;> rfl

@[simp] theorem State.modStage_rest (g : Nat) (f : Stage → Stage) :
    (s.modStage g f).clk = s.clk ∧ (s.modStage g f).net = s.net ∧ (s.modStage g f).cmds = s.cmds ∧ (s.modStage g f).nextOrder = s.nextOrder ∧
    (s.modStage g f).windows = s.windows ∧ (s.modStage g f).cuOut = s.cuOut ∧ (s.modStage g f).openReplies = s.openReplies ∧
    (s.modStage g f).ctxs = s.ctxs ∧ (s.modStage g f).destroys = s.destroys ∧ (s.modStage g f).cords = s.cords ∧ (s.modStage g f).frees = s.frees ∧
    (s.modStage g f).regions = s.regions ∧ (s.modStage g f).gmap = s.gmap ∧ (s.modStage g f).grants = s.grants ∧ (s.modStage g f).caches = s.caches ∧
    (s.modStage g f).stampQ = s.stampQ ∧ (s.modStage g f).fillQ = s.fillQ ∧ (s.modStage g f).flits = s.flits ∧ (s.modStage g f).mesh = s.mesh ∧
    (s.modStage g f).completions = s.completions ∧ (s.modStage g f).openStamps = s.openStamps ∧ (s.modStage g f).dir = s.dir ∧
    (s.modStage g f).locks = s.locks ∧ (s.modStage g f).excused = s.excused ∧ (s.modStage g f).wayWait = s.wayWait ∧
    (s.modStage g f).answerWait = s.answerWait ∧ (s.modStage g f).slices = s.slices ∧ (s.modStage g f).partitions = s.partitions ∧
    (s.modStage g f).shadow = s.shadow ∧ (s.modStage g f).syncWaits = s.syncWaits ∧ (s.modStage g f).arms = s.arms ∧
    (s.modStage g f).resends = s.resends ∧ (s.modStage g f).tripWrites = s.tripWrites ∧ (s.modStage g f).tripReads = s.tripReads ∧
    (s.modStage g f).chans = s.chans ∧ (s.modStage g f).mem = s.mem ∧ (s.modStage g f).valid = s.valid ∧ (s.modStage g f).code = s.code ∧
    (s.modStage g f).bmCode = s.bmCode ∧ (s.modStage g f).scrubs = s.scrubs ∧ (s.modStage g f).faultQs = s.faultQs ∧
    (s.modStage g f).embers = s.embers ∧ (s.modStage g f).plans = s.plans ∧ (s.modStage g f).starts = s.starts ∧ (s.modStage g f).ends = s.ends ∧
    (s.modStage g f).ports = s.ports ∧ (s.modStage g f).openReqs = s.openReqs ∧ (s.modStage g f).nextTxn = s.nextTxn ∧
    (s.modStage g f).inbox = s.inbox ∧ (s.modStage g f).routes = s.routes ∧ (s.modStage g f).routeActive = s.routeActive ∧
    (s.modStage g f).routeSwitched = s.routeSwitched ∧ (s.modStage g f).sched = s.sched ∧ (s.modStage g f).triplex = s.triplex ∧
    (s.modStage g f).sec = s.sec ∧ (s.modStage g f).kept = s.kept ∧ (s.modStage g f).burning = s.burning ∧ (s.modStage g f).boot = s.boot ∧
    (s.modStage g f).cxl = s.cxl ∧ (s.modStage g f).intc = s.intc ∧ (s.modStage g f).bell = s.bell ∧ (s.modStage g f).diag = s.diag ∧
    (s.modStage g f).draws = s.draws ∧ (s.modStage g f).outbox = s.outbox ∧ (s.modStage g f).pending = s.pending := by
  and_intros <;> rfl

@[simp] theorem State.modCu_rest (g : Nat) (f : Cu → Cu) :
    (s.modCu g f).clk = s.clk ∧ (s.modCu g f).net = s.net ∧ (s.modCu g f).stages = s.stages ∧ (s.modCu g f).cmds = s.cmds ∧
    (s.modCu g f).nextOrder = s.nextOrder ∧ (s.modCu g f).windows = s.windows ∧ (s.modCu g f).cuOut = s.cuOut ∧
    (s.modCu g f).openReplies = s.openReplies ∧ (s.modCu g f).ctxs = s.ctxs ∧ (s.modCu g f).destroys = s.destroys ∧ (s.modCu g f).cords = s.cords ∧
    (s.modCu g f).frees = s.frees ∧ (s.modCu g f).regions = s.regions ∧ (s.modCu g f).gmap = s.gmap ∧ (s.modCu g f).grants = s.grants ∧
    (s.modCu g f).caches = s.caches ∧ (s.modCu g f).stampQ = s.stampQ ∧ (s.modCu g f).fillQ = s.fillQ ∧ (s.modCu g f).flits = s.flits ∧
    (s.modCu g f).mesh = s.mesh ∧ (s.modCu g f).completions = s.completions ∧ (s.modCu g f).openStamps = s.openStamps ∧ (s.modCu g f).dir = s.dir ∧
    (s.modCu g f).locks = s.locks ∧ (s.modCu g f).excused = s.excused ∧ (s.modCu g f).wayWait = s.wayWait ∧ (s.modCu g f).answerWait = s.answerWait ∧
    (s.modCu g f).slices = s.slices ∧ (s.modCu g f).partitions = s.partitions ∧ (s.modCu g f).shadow = s.shadow ∧
    (s.modCu g f).syncWaits = s.syncWaits ∧ (s.modCu g f).arms = s.arms ∧ (s.modCu g f).resends = s.resends ∧
    (s.modCu g f).tripWrites = s.tripWrites ∧ (s.modCu g f).tripReads = s.tripReads ∧ (s.modCu g f).chans = s.chans ∧ (s.modCu g f).mem = s.mem ∧
    (s.modCu g f).valid = s.valid ∧ (s.modCu g f).code = s.code ∧ (s.modCu g f).bmCode = s.bmCode ∧ (s.modCu g f).scrubs = s.scrubs ∧
    (s.modCu g f).faultQs = s.faultQs ∧ (s.modCu g f).embers = s.embers ∧ (s.modCu g f).plans = s.plans ∧ (s.modCu g f).starts = s.starts ∧
    (s.modCu g f).ends = s.ends ∧ (s.modCu g f).ports = s.ports ∧ (s.modCu g f).openReqs = s.openReqs ∧ (s.modCu g f).nextTxn = s.nextTxn ∧
    (s.modCu g f).inbox = s.inbox ∧ (s.modCu g f).routes = s.routes ∧ (s.modCu g f).routeActive = s.routeActive ∧
    (s.modCu g f).routeSwitched = s.routeSwitched ∧ (s.modCu g f).sched = s.sched ∧ (s.modCu g f).sec = s.sec ∧ (s.modCu g f).kept = s.kept ∧
    (s.modCu g f).burning = s.burning ∧ (s.modCu g f).boot = s.boot ∧ (s.modCu g f).cxl = s.cxl ∧ (s.modCu g f).intc = s.intc ∧
    (s.modCu g f).bell = s.bell ∧ (s.modCu g f).diag = s.diag ∧ (s.modCu g f).draws = s.draws ∧ (s.modCu g f).outbox = s.outbox ∧
    (s.modCu g f).pending = s.pending := by
  and_intros <;> rfl

@[simp] theorem State.modGrant_rest (g r : Nat) (f : Grant → Grant) :
    (s.modGrant g r f).clk = s.clk ∧ (s.modGrant g r f).net = s.net ∧ (s.modGrant g r f).stages = s.stages ∧ (s.modGrant g r f).cmds = s.cmds ∧
    (s.modGrant g r f).nextOrder = s.nextOrder ∧ (s.modGrant g r f).windows = s.windows ∧ (s.modGrant g r f).cuOut = s.cuOut ∧
    (s.modGrant g r f).openReplies = s.openReplies ∧ (s.modGrant g r f).ctxs = s.ctxs ∧ (s.modGrant g r f).destroys = s.destroys ∧
    (s.modGrant g r f).cords = s.cords ∧ (s.modGrant g r f).frees = s.frees ∧ (s.modGrant g r f).regions = s.regions ∧
    (s.modGrant g r f).gmap = s.gmap ∧ (s.modGrant g r f).caches = s.caches ∧ (s.modGrant g r f).stampQ = s.stampQ ∧
    (s.modGrant g r f).fillQ = s.fillQ ∧ (s.modGrant g r f).flits = s.flits ∧ (s.modGrant g r f).mesh = s.mesh ∧
    (s.modGrant g r f).completions = s.completions ∧ (s.modGrant g r f).openStamps = s.openStamps ∧ (s.modGrant g r f).dir = s.dir ∧
    (s.modGrant g r f).locks = s.locks ∧ (s.modGrant g r f).excused = s.excused ∧ (s.modGrant g r f).wayWait = s.wayWait ∧
    (s.modGrant g r f).answerWait = s.answerWait ∧ (s.modGrant g r f).slices = s.slices ∧ (s.modGrant g r f).partitions = s.partitions ∧
    (s.modGrant g r f).shadow = s.shadow ∧ (s.modGrant g r f).syncWaits = s.syncWaits ∧ (s.modGrant g r f).arms = s.arms ∧
    (s.modGrant g r f).resends = s.resends ∧ (s.modGrant g r f).tripWrites = s.tripWrites ∧ (s.modGrant g r f).tripReads = s.tripReads ∧
    (s.modGrant g r f).chans = s.chans ∧ (s.modGrant g r f).mem = s.mem ∧ (s.modGrant g r f).valid = s.valid ∧ (s.modGrant g r f).code = s.code ∧
    (s.modGrant g r f).bmCode = s.bmCode ∧ (s.modGrant g r f).scrubs = s.scrubs ∧ (s.modGrant g r f).faultQs = s.faultQs ∧
    (s.modGrant g r f).embers = s.embers ∧ (s.modGrant g r f).plans = s.plans ∧ (s.modGrant g r f).starts = s.starts ∧
    (s.modGrant g r f).ends = s.ends ∧ (s.modGrant g r f).ports = s.ports ∧ (s.modGrant g r f).openReqs = s.openReqs ∧
    (s.modGrant g r f).nextTxn = s.nextTxn ∧ (s.modGrant g r f).inbox = s.inbox ∧ (s.modGrant g r f).routes = s.routes ∧
    (s.modGrant g r f).routeActive = s.routeActive ∧ (s.modGrant g r f).routeSwitched = s.routeSwitched ∧ (s.modGrant g r f).sched = s.sched ∧
    (s.modGrant g r f).triplex = s.triplex ∧ (s.modGrant g r f).sec = s.sec ∧ (s.modGrant g r f).kept = s.kept ∧
    (s.modGrant g r f).burning = s.burning ∧ (s.modGrant g r f).boot = s.boot ∧ (s.modGrant g r f).cxl = s.cxl ∧ (s.modGrant g r f).intc = s.intc ∧
    (s.modGrant g r f).bell = s.bell ∧ (s.modGrant g r f).diag = s.diag ∧ (s.modGrant g r f).draws = s.draws ∧ (s.modGrant g r f).outbox = s.outbox ∧
    (s.modGrant g r f).pending = s.pending := by
  and_intros <;> rfl

@[simp] theorem State.pass_rest (d : Nat) :
    (s.pass d).net = s.net ∧ (s.pass d).stages = s.stages ∧ (s.pass d).cmds = s.cmds ∧ (s.pass d).nextOrder = s.nextOrder ∧
    (s.pass d).windows = s.windows ∧ (s.pass d).cuOut = s.cuOut ∧ (s.pass d).openReplies = s.openReplies ∧ (s.pass d).ctxs = s.ctxs ∧
    (s.pass d).destroys = s.destroys ∧ (s.pass d).cords = s.cords ∧ (s.pass d).frees = s.frees ∧ (s.pass d).regions = s.regions ∧
    (s.pass d).gmap = s.gmap ∧ (s.pass d).grants = s.grants ∧ (s.pass d).caches = s.caches ∧ (s.pass d).stampQ = s.stampQ ∧
    (s.pass d).fillQ = s.fillQ ∧ (s.pass d).flits = s.flits ∧ (s.pass d).mesh = s.mesh ∧ (s.pass d).completions = s.completions ∧
    (s.pass d).openStamps = s.openStamps ∧ (s.pass d).dir = s.dir ∧ (s.pass d).locks = s.locks ∧ (s.pass d).excused = s.excused ∧
    (s.pass d).wayWait = s.wayWait ∧ (s.pass d).answerWait = s.answerWait ∧ (s.pass d).slices = s.slices ∧ (s.pass d).partitions = s.partitions ∧
    (s.pass d).shadow = s.shadow ∧ (s.pass d).syncWaits = s.syncWaits ∧ (s.pass d).arms = s.arms ∧ (s.pass d).resends = s.resends ∧
    (s.pass d).tripWrites = s.tripWrites ∧ (s.pass d).tripReads = s.tripReads ∧ (s.pass d).chans = s.chans ∧ (s.pass d).mem = s.mem ∧
    (s.pass d).valid = s.valid ∧ (s.pass d).code = s.code ∧ (s.pass d).bmCode = s.bmCode ∧ (s.pass d).scrubs = s.scrubs ∧
    (s.pass d).faultQs = s.faultQs ∧ (s.pass d).embers = s.embers ∧ (s.pass d).plans = s.plans ∧ (s.pass d).starts = s.starts ∧
    (s.pass d).ends = s.ends ∧ (s.pass d).ports = s.ports ∧ (s.pass d).openReqs = s.openReqs ∧ (s.pass d).nextTxn = s.nextTxn ∧
    (s.pass d).inbox = s.inbox ∧ (s.pass d).routes = s.routes ∧ (s.pass d).routeActive = s.routeActive ∧ (s.pass d).routeSwitched = s.routeSwitched ∧
    (s.pass d).sched = s.sched ∧ (s.pass d).triplex = s.triplex ∧ (s.pass d).sec = s.sec ∧ (s.pass d).kept = s.kept ∧
    (s.pass d).burning = s.burning ∧ (s.pass d).boot = s.boot ∧ (s.pass d).cxl = s.cxl ∧ (s.pass d).intc = s.intc ∧ (s.pass d).bell = s.bell ∧
    (s.pass d).diag = s.diag ∧ (s.pass d).draws = s.draws ∧ (s.pass d).outbox = s.outbox ∧ (s.pass d).pending = s.pending := by
  and_intros <;> rfl

theorem State.chan_modChan (g : Nat) (f : Chan → Chan) (j : Nat) : (s.modChan g f).chan j = if j = g then f (s.chan g) else s.chan j := Tab.get_modify _ _ _ _ _

theorem State.ember_modEmber (g : Nat) (f : Ember → Ember) (j : Nat) : (s.modEmber g f).ember j = if j = g then f (s.ember g) else s.ember j := Tab.get_modify _ _ _ _ _

theorem State.slice_modSlice (g : Nat) (f : Slice → Slice) (j : Nat) : (s.modSlice g f).slice j = if j = g then f (s.slice g) else s.slice j := Tab.get_modify _ _ _ _ _

theorem State.port_modPort (g : Nat) (f : Port → Port) (j : Nat) : (s.modPort g f).port j = if j = g then f (s.port g) else s.port j := Tab.get_modify _ _ _ _ _

theorem State.faultQ_modFaultQ (g : Nat) (f : FaultQueue → FaultQueue) (j : Nat) : (s.modFaultQ g f).faultQ j = if j = g then f (s.faultQ g) else s.faultQ j := Tab.get_modify _ _ _ _ _

theorem State.cord_modCord (g : Nat) (f : Cord → Cord) (j : Nat) : (s.modCord g f).cord j = if j = g then f (s.cord g) else s.cord j := Tab.get_modify _ _ _ _ _

theorem State.region_modRegion (g : Nat) (f : Region → Region) (j : Nat) : (s.modRegion g f).region j = if j = g then (s.region g).map f else s.region j := Tab.get_modify _ _ _ _ _

theorem State.ctx_modCtx (g : Nat) (f : Ctx → Ctx) (j : Nat) : (s.modCtx g f).ctx j = if j = g then (s.ctx g).map f else s.ctx j := Tab.get_modify _ _ _ _ _

theorem State.plan_modPlan (g : Nat) (f : Plan → Plan) (j : Nat) : (s.modPlan g f).plan j = if j = g then (s.plan g).map f else s.plan j := Tab.get_modify _ _ _ _ _

end

end Sys2Proof.Machine
end

