-- ==== Sys2Proof/WellFormed.lean ====
section
/-! DEFINITION. Well-formed commands: every number names a unit the part has (Table 0.3), every byte list has the length its
rule gives. A command that is not well-formed names nothing, and changes nothing (log 3). -/

set_option Elab.async false

namespace Sys2Proof

/-- Tiles, channels, ports, Hearths, stacks, control units (Table 0.3), stamping points (R113). -/
def tileOk (t : Nat) : Bool := decide (t < 256)
def chanOk (g : Nat) : Bool := decide (g < 512)
def portOk (p : Nat) : Bool := decide (p < 32)
def hearthOk (h : Nat) : Bool := decide (h < 4)
def stackOk (k : Nat) : Bool := decide (k < 16)
def unitOk (u : Nat) : Bool := decide (u < 3)
def pointOk (k : Nat) : Bool := decide (k < 289)
/-- A context and a 32-bit tag (Table 2.1). -/
def cmdOk (c t : Nat) : Bool := decide (c < 4096) && decide (t < 2 ^ 32)
/-- A line of the data map (R60, R62). -/
def lineOk (l : Nat) : Bool := decide (l < 2 ^ 35) && decide (l / 2 ^ 22 % 16 < 12)

/-- The checks of a command's operands. -/
def Instr.wellFormed : Instr → Bool
  | .commandWrite via off _ => decide (off < 2 ^ 24) && (match via with | .bar2 => true | .fabric e _ c => decide (e < 2 ^ 15) && decide (c < 4096))
  | .nop c t | .ctxCreate c t | .ctxDestroy c t | .ctxQuery c t | .ctxSetClass c t | .ctxAttest c t | .ctxBindKey c t
  | .cordAlloc c t _ | .cordFree c t _ | .regionDefine c t _ | .regionShare c t | .regionRevoke c t | .leaseRenew c t
  | .regionMigrate c t | .scrubRange c t | .zeroRange c t | .regionTriple c t | .ptBind c t | .ptSync c t
  | .faultResume c t | .planLoad c t | .planRun c t | .planArm c t | .planCancel c t | .weightIngest c t
  | .weightIngestDone c t | .syncInit c t | .gateInstall c t _ | .routeInstall c t _ _ | .epochSwitch c t
  | .shaperSet c t | .policerSet c t | .selftest c t | .selftestComplete c t _ | .calibrate c t | .retire c t
  | .retireComplete c t | .fwUpdate c t _ | .triplexMode c t | .telemRead c t _ | .logRead c t _
  | .reportSigningDone c t _ | .fwUpdateWriteDone c t => cmdOk c t
  | .ctxDestroyComplete c => decide (c < 4096)
  | .requestStamp k _ | .grantFill k _ _ => pointOk k
  | .epochStep r | .revokePhase2End r => decide (0 < r) && decide (r < 8192)
  | .zeroiseSweep i | .answerPoolAdmit i => tileOk i
  | .cordZeroised n | .cordCopyBlock n | .cordCutover n => decide (n < 6144)
  | .hostSnoopResponse l _ | .minHoldExpiry l | .recallTimeout l | .probeResend l => lineOk l
  | .schedulerIssue g | .stokeLevelChange g _ | .partialWriteEntry g | .mergeRmwComplete g | .blockFillDone g
  | .refreshDebtTick g | .calibrationDue g _ | .channelEdgeGuard g | .memInjCtrl _ g _ | .controllerFault g => chanOk g
  | .readDecode g noise => chanOk g && noise.all (fun p => decide (p.1 < 72))
  | .mergeEntryAgeOut g l => chanOk g && lineOk l
  | .bitmapLineFetch g i a b => chanOk g && decide (i < 1536) && (a ++ b).all (fun p => decide (p.1 < 72))
  | .frequencyChange k => stackOk k
  | .stackTrainingDone k l => stackOk k && l.all (fun c => decide (c < 32))
  | .tbMissWalkDone t | .gemvStream t | .attnDecode t | .softmaxMerge t | .reduceAdd t | .gather t | .scatterAcc t
  | .convert t | .topk t | .wait t | .waitLimitExpiry t | .signal t | .repeatRange t | .endPlan t | .emberError t _
  | .emberQuantumExpiry t | .emberEdgeGuard t | .emberFaultFence t | .embInjCtrl _ t _ | .tilePowerGoodTimeout t => tileOk t
  | .meshFlit t o _ _ => tileOk t && decide (o < 6)
  | .faultQueuePost h | .stallListRewalk h | .xlatFqMark _ h _ | .hearthLost h | .supplyWarningDetect h _ => hearthOk h
  | .linkSignalDetect p l | .trainingEnd p l _ => portOk p && l.all (fun x => decide (x < 5))
  | .detectRetry p | .train p _ _ | .errorRateTestEnd p _
  | .retrainEnd p | .retrainTimeout p | .linkSilenceTimeout p | .sequencedCell p _
  | .cellCrcFail p _ | .ack p _ _ | .ackSend p | .replayTimer p _ | .hold p _ | .idle p _
  | .packetRoute p | .packetDeliver p | .fabCtrlReset _ p | .fabCtrlRetrain _ p | .fabCtrlDisable _ p _ | .fabInjCtrl _ p _
  | .time p _ | .timeCellSend p | .portEdgeGuard p => portOk p
  | .retrainThreshold p l _ => portOk p && decide (l < 5)
  | .credit p vc _ => portOk p && decide (vc < 3)
  | .gateSlotEdge l | .usableShareEnd l => decide (l < 289)
  | .staleClaimNotice u | .cuParityError u | .unitRejoin u | .kindlingVerify u => unitOk u
  | .tileWave w => decide (w < 8)
  | .sessionKeyRetire c p => decide (c < 4096) && decide (p < 2 ^ 15)
  | .intcClaim _ k | .intcComplete _ k _ => decide (k < 8)
  | .intcSrcWrite _ n _ => decide (n < 1024)
  | .clockPresenceChange d _ => decide (0 < d) && decide (d ≤ 18)
  | .getVersion r | .getCapabilities r | .negotiateAlgorithms r | .getDigests r | .getCertificate r | .challenge r | .getMeasurements r =>
    decide (r.length ≤ 4096)
  | .jtagUnlock l key sig => decide (l ≤ 2) && decide (key.length = 64) && decide (sig.length = 64)
  | .getEventRecords l | .clearEventRecords l _ => decide (l < 5)
  | .setEventInterruptPolicy p => decide (p.length = 5)
  | .counterReadClear _ o | .lowWordLatchRead _ o | .highWordWrite _ o _ | .registerWrite _ o _
  | .registerAliasWrite _ _ o _ => decide (o < 2 ^ 28)
  | .commandDispatch | .epochSwitchAtT | .cuOutput _ | .replyWriteError _ | .completionPassesStamp _ | .leaseExamination
  | .rdShared _ | .rdOwn _ | .upgrade _ | .rdCur _ | .wb _ | .evict _ | .wrInv _ | .wrPart _ | .accLine _ | .writeFill _
  | .readDrain _ | .readFull _ | .addSat _ | .fence _ | .rspData _ | .rspAck _ | .rspNone _ | .syncWaitTimeout _
  | .resendEntryExpiry _ | .tripletWriteIssue _ | .tripletReadVote _ | .planStart _ | .endNotice _ | .pending _
  | .pendingTimer _ | .requestResendTimer _ | .requestCompletion _ | .parentSilenceTimeout | .holdoverExpiry | .shaperRefill
  | .throttleCause _ | .throttleLevelTick _ | .tokenRenewal | .tokenLeaseExpiry | .lockstepVote _ _ _ | .hotStandbyDelta
  | .secDebugRelock _ | .secDebugDisable _ | .powerOnReset | .externalReset | .supplyReset | .clkrstReset _ _
  | .decodeTableBroadcast _ _ | .firmwareReady | .clkrstHreset _ _ | .partialResetComplete | .clkrstEnvelope _ _
  | .envelopeBurnDone | .supplyBankTimer | .supplyRelease | .supplyEpisodeEnd | .perstHotReset | .flr | .cxlMemRequest _ _
  | .getEventInterruptPolicy | .getFwInfo | .getTimestamp | .setTimestamp _ | .getSupportedLogs | .getLog
  | .identifyMemoryDevice | .getHealthInfo | .getPoisonList | .getDcConfiguration | .getDcExtentList | .addDcResponse _
  | .releaseDynamicCapacity _ | .releaseDcComplete | .mailboxUnsupported _ | .dcOfferTimeout | .doeDiscovery _
  | .cdatTableAccess _
  | .intcTest _ _ | .bellowsControlTick _ | .bellClearFailsafe _ | .bellInjCtrl _ _ | .bellInjExpiry | .lifetimeSecondTick
  | .checkpointWriteDone _ | .pmbusPoll _ | .pmbAlert _ | .errSel _ _ | .errEntryAdvance _ | .errInjCtrl _ _
  | .telemCapture _ | .telemCaptureDone | .trstNAssert | .jtagChallengeRead | .cxlLinkTrained _ _ _
  | .cxlLinkDown | .coolantPulse _ | .vddAonLoss | .internalResetRelease => true

/-- A well-formed command. -/
abbrev Instr.WellFormed (i : Instr) : Prop := i.wellFormed = true

end Sys2Proof
end

