-- ==== Sys2Proof/Tests/Slice0.lean ====
section
/-! SUPPORT. Tests: an ill-formed command for each check of WellFormed, small tests of single steps, and for each statement with hypotheses a
state and operands that meet them. Expected values come from the manual's text and worked examples. -/

set_option Elab.async false
set_option linter.unusedVariables false

namespace Sys2Proof.Tests
open Sys2Proof Sys2Proof.Machine

/-! ## Ill-formed commands -/

theorem test_illFormed_tile : Instr.wellFormed (.zeroiseSweep 256) = false := by decide
theorem test_illFormed_channel : Instr.wellFormed (.schedulerIssue 512) = false := by decide
theorem test_illFormed_port : Instr.wellFormed (.retrainEnd 32) = false := by decide
theorem test_illFormed_hearth : Instr.wellFormed (.faultQueuePost 4) = false := by decide
theorem test_illFormed_stack : Instr.wellFormed (.frequencyChange 16) = false := by decide
theorem test_illFormed_trained_stack_channel : Instr.wellFormed (.stackTrainingDone 0 [32]) = false := by decide
theorem test_illFormed_unit : Instr.wellFormed (.staleClaimNotice 3) = false := by decide
theorem test_illFormed_point : Instr.wellFormed (.requestStamp 289 0) = false := by decide
theorem test_illFormed_command_context : Instr.wellFormed (.nop 4096 0) = false := by decide
theorem test_illFormed_command_tag : Instr.wellFormed (.nop 0 4294967296) = false := by decide
theorem test_illFormed_line_range : Instr.wellFormed (.minHoldExpiry 34359738368) = false := by decide
theorem test_illFormed_line_hole : Instr.wellFormed (.probeResend 50331648) = false := by decide
theorem test_illFormed_packet_offset : Instr.wellFormed (.commandWrite .bar2 (2 ^ 24) []) = false := by decide
theorem test_illFormed_packet_endpoint : Instr.wellFormed (.commandWrite (.fabric (2 ^ 15) 0 0) 0 []) = false := by decide
theorem test_illFormed_packet_context : Instr.wellFormed (.commandWrite (.fabric 0 0 4096) 0 []) = false := by decide
theorem test_illFormed_context : Instr.wellFormed (.ctxDestroyComplete 4096) = false := by decide
theorem test_illFormed_region_zero : Instr.wellFormed (.epochStep 0) = false := by decide
theorem test_illFormed_region_large : Instr.wellFormed (.revokePhase2End 8192) = false := by decide
theorem test_illFormed_cord : Instr.wellFormed (.cordZeroised 6144) = false := by decide
theorem test_illFormed_noise_symbol : Instr.wellFormed (.readDecode 0 [(72, 1)]) = false := by decide
theorem test_illFormed_merge_line : Instr.wellFormed (.mergeEntryAgeOut 0 34359738368) = false := by decide
theorem test_illFormed_bitmap_index : Instr.wellFormed (.bitmapLineFetch 0 1536 [] []) = false := by decide
theorem test_illFormed_mesh_output : Instr.wellFormed (.meshFlit 0 6 0 false) = false := by decide
theorem test_illFormed_lane : Instr.wellFormed (.retrainThreshold 0 5 0) = false := by decide
theorem test_illFormed_virtual_channel : Instr.wellFormed (.credit 0 3 1) = false := by decide
theorem test_illFormed_gate_list : Instr.wellFormed (.gateSlotEdge 289) = false := by decide
theorem test_illFormed_wave : Instr.wellFormed (.tileWave 8) = false := by decide
theorem test_illFormed_peer : Instr.wellFormed (.sessionKeyRetire 0 (2 ^ 15)) = false := by decide
theorem test_illFormed_interrupt_target : Instr.wellFormed (.intcClaim .host 8) = false := by decide
theorem test_illFormed_interrupt_source : Instr.wellFormed (.intcSrcWrite .host 1024 0) = false := by decide
theorem test_illFormed_clock_domain_zero : Instr.wellFormed (.clockPresenceChange 0 true) = false := by decide
theorem test_illFormed_clock_domain_large : Instr.wellFormed (.clockPresenceChange 19 true) = false := by decide
theorem test_illFormed_bitmap_symbol : Instr.wellFormed (.bitmapLineFetch 0 0 [] [(72, 1)]) = false := by decide
theorem test_illFormed_signal_lane : Instr.wellFormed (.linkSignalDetect 0 [5]) = false := by decide
theorem test_illFormed_spdm_length : Instr.wellFormed (.challenge (List.replicate 4097 0)) = false := by decide +kernel
theorem test_illFormed_debug_level : Instr.wellFormed (.jtagUnlock 3 (List.replicate 64 0) (List.replicate 64 0)) = false := by decide
theorem test_illFormed_debug_key : Instr.wellFormed (.jtagUnlock 1 [] (List.replicate 64 0)) = false := by decide
theorem test_illFormed_debug_signature : Instr.wellFormed (.jtagUnlock 1 (List.replicate 64 0) []) = false := by decide
theorem test_illFormed_event_log : Instr.wellFormed (.getEventRecords 5) = false := by decide
theorem test_illFormed_event_policy : Instr.wellFormed (.setEventInterruptPolicy [0, 0, 0, 0]) = false := by decide
theorem test_illFormed_register_offset : Instr.wellFormed (.registerWrite .host (2 ^ 28) 0) = false := by decide
theorem test_illFormed_alias_offset : Instr.wellFormed (.registerAliasWrite .host .set (2 ^ 28) 0) = false := by decide
theorem test_wellFormed_nop : Instr.wellFormed (.nop 4095 7) = true := by decide

/-! ## States of the tests -/

/-- A device out of reset, ready, its CXL link up and bus master. -/
def up : State := { State.reset with boot := { State.reset.boot with inReset := false, ready := true },
                                     cxl := { State.reset.cxl with linkUp := true, busMaster := true } }
/-- A command of opcode `op` with parameters from byte 16, in phase `ph`. -/
def command (op : Nat) (par : Bytes) (ph : CmdPhase) : Cmd := { bytes := padTo 64 (natLE 1 op ++ zeros 15 ++ par), phase := ph }
def withCmd (k : Cmd) (s : State) : State := { s with cmds := [k] }
def taken (op : Nat) (par : Bytes) : State := withCmd (command op par .taken) up
def running (op : Nat) (par : Bytes) : State := withCmd (command op par .running) up
def waiting (op : Nat) (par : Bytes) : State := withCmd (command op par .waiting) up
def withCtx (n : Nat) (x : Ctx) (s : State) : State := { s with ctxs := Tab.set none s.ctxs n (some x) }
def goodPacket : Bytes := zeros 60 ++ natLE 4 (crc32c (zeros 60)).toNat
/-- A device whose context 0 holds grants of every right on region 0, which cord 0 holds at pool address 0. -/
def pooled (s : State) : State :=
  { s with regions := [(1, some { granules := [[0]] })], gmap := [(0, [0])], cords := [(0, { state := .bound, region := 1 })],
           grants := [{ region := 1, rights := 31, expiry := 2 ^ 60 }] }
def confPool (s : State) : State :=
  { pooled s with regions := [(1, some { conf := true, granules := [[0]] })], sec := { weightKeys := [{}] } }
/-- A command on a device that can attest. -/
def attesting (_ : Nat) (par : Bytes) : State := { taken 0x05 par with sec := { attestReady := true } }
/-- A region of no granules, for which REGION_TRIPLE finds nothing missing. -/
def untripled : State := { taken 0x19 [1] with regions := [(1, some {})] }
def syncPool (s : State) : State := { pooled s with regions := [(1, some { sync := true, granules := [[0]] })] }
/-- Ember 0 runs run `r` of plan 1 of context 0, whose descriptor 1 is `d`. -/
def atDesc (r : Run) (d : Bytes) (s : State) : State :=
  { s with embers := [(0, { poweredOff := false, state := .running, run := some r })],
           plans := [(1, some { bytes := [zeros 64, padTo 64 d], tiles := [0], state := .running, active := some { number := 1 } })] }
def run1 : Run := { plan := 1, number := 1 }
def planned (p : Plan) (s : State) : State :=
  { s with embers := [(0, { poweredOff := false })], plans := [(1, some p)] }
/-- The three lines of a plan for tile 0: header, SIGNAL, END. -/
def smallPlan : Bytes := padTo 64 ([0x20, 1, 3, 0] ++ zeros 4 ++ [1]) ++ padTo 64 [0x11] ++ padTo 64 [0x1F]
/-- The plan at pool address 0. -/
def planIn (s : State) : State :=
  { pooled s with mem := [(0, 0x20), (1, 1), (2, 3), (8, 1), (64, 0x11), (128, 0x1F)], valid := [(0, true)], embers := [(0, { poweredOff := false })] }
/-- Ember 0 walks for address 0, and its walk cache knows the last table page, whose first entry is a leaf. -/
def walked : State :=
  { withCtx 0 { ptRoot := 4096, ptRegion := 1 } (atDesc {} [] (pooled up)) with
    mem := [(4096, 7)], valid := [(1, true)],
    embers := [(0, { poweredOff := false, run := some { run1 with walking := some (0, false) }, wc := [{ level := 1, next := 4096 }] })] }
def walkedLeaf : TbEnt := leafEntry 0 0 0 7
/-- The default lists as a gate image (Table 10.6) of a grandmaster. -/
def routerWord (x : Slot) : Nat := x.len + 2 ^ 17 * (((List.range x.owners.length).zip x.owners).map fun p => p.2 * 2 ^ (13 * p.1)).sum
def gateImage : Bytes :=
  natLE 4 0x47415445 ++ natLE 2 1 ++ zeros 2 ++ natLE 4 12500 ++ zeros 4 ++ [0xFF, 0xFF] ++ zeros 46 ++
  (List.range 289).flatMap fun k => natLE 8 2 ++ (defaultList k).flatMap fun x => natLE (if k < 256 then 16 else 8) (routerWord x)
def gateCmd : Bytes := zeros 7 ++ [0x80] ++ natLE 4 11096
def routeCmd : Bytes := zeros 7 ++ [0x80] ++ zeros 7 ++ [0x80]
theorem gateImage_reads : (readGates gateImage).map (fun g => (g.cycle, g.lists)) = some (12500, (List.range 289).map fun k => (k, defaultList k)) := by
  decide +kernel
theorem default_step5 (g : Gates) (hc : g.cycle = 12500) (h : ∀ k < 256, g.list k = defaultList 0) : gateStep5 g = none := by
  unfold gateStep5
  rw [List.findSome?_eq_none_iff]
  intro k hk
  have hk : k < 256 := by simpa using hk
  have e : ∀ i < 16, g.list (16 * (k / 16) + i) = defaultList 0 := fun i hi => h _ (by omega)
  simp only [h k hk, hc]
  rw [if_pos]
  simp only [Bool.and_eq_true]
  refine ⟨⟨by decide, ?_⟩, by decide⟩
  rw [List.any_eq_true]
  refine ⟨(11300, { len := 1200, owners := ownerMaint :: ownerMaint :: List.replicate 5 ownerShared }), by decide, ?_⟩
  simp only [Bool.and_eq_true, List.all_eq_true]
  refine ⟨by decide, fun i hi => ?_⟩
  rw [e i (by simpa using hi)]
  decide
theorem gateImage_checks (s : State) (hs : s.cords = [] ∧ s.regions = []) :
    (readGates gateImage).isSome = true ∧ s.gateChecks ((readGates gateImage).getD {}) = none := by
  have h := gateImage_reads
  cases hg : readGates gateImage with
  | none => rw [hg] at h; simp at h
  | some g =>
    rw [hg] at h
    obtain ⟨hc, hl⟩ : g.cycle = 12500 ∧ g.lists = (List.range 289).map fun k => (k, defaultList k) := by simpa using h
    refine ⟨rfl, ?_⟩
    have hall : ∀ k < 256, Tab.get [] ((List.range 289).map fun k => (k, defaultList k)) k = defaultList 0 := by decide +kernel
    have h5 := default_step5 g hc (by simpa [Gates.list, hl] using hall)
    have e : ∀ f : Gates → Option GateFail, (∀ a b, a.cycle = b.cycle → a.lists = b.lists → f a = f b) →
        f { cycle := 12500, lists := (List.range 289).map fun k => (k, defaultList k) } = none → f g = none := by
      intro f hf h; rw [← h]; exact hf _ _ hc hl
    have h3 : gateStep3 g = none := e gateStep3 (by intro a b h1 h2; simp [gateStep3, firstBad, h1, h2]) (by decide +kernel)
    have h4 : s.gateStep4 g = none := by
      have : s.gateStep4 g = firstBad g 4 fun _ _ x => x.owners.all fun o => !isoOwner o || s.ctxIso o := by
        unfold State.gateStep4; simp [hs.1, hs.2]; split <;> simp_all
      rw [this, firstBad, hl]
      have : ∀ p ∈ (List.range 289).map (fun k => (k, defaultList k)), ∀ x ∈ p.2, ∀ o ∈ x.owners, isoOwner o = false := by decide +kernel
      rw [List.findSome?_eq_none_iff]; intro p hp; rw [List.findSome?_eq_none_iff]; intro x hx
      rw [if_pos]; rw [List.all_eq_true]; intro o ho
      have := this p hp x.2 (List.of_mem_zip hx).2 o ho; simp [this]
    have h6 : s.gateStep6 g = none := by
      rw [State.gateStep6, firstBad, hl]
      have : ∀ p ∈ (List.range 289).map (fun k => (k, defaultList k)), ∀ x ∈ p.2, isoOwner (x.owners.getD 0 0) = false ∧ (p.1 < 256 → isoOwner (x.owners.getD 1 0) = false) := by decide +kernel
      rw [List.findSome?_eq_none_iff]; intro p hp; rw [List.findSome?_eq_none_iff]; intro x hx
      obtain ⟨q1, q2⟩ := this p hp x.2 (List.of_mem_zip hx).2
      rw [if_pos]
      simp only [q1]
      split <;> simp_all
    have hi : gateIsos g = [] := by rw [gateIsos, hl]; decide +kernel
    have h7 : gateStep7 g = none := by simp [gateStep7, hi]
    simp [State.gateChecks, h3, h4, h5, h6, h7]
/-- A table whose words are all zero but the first. -/
theorem fieldAt_zeros (n o k : Nat) : fieldAt (zeros n) o k = 0 := by
  have h0 : ∀ m, leNat (zeros m) = 0 := by intro m; induction m with | zero => rfl | succ m ih => simp_all [zeros, List.replicate_succ, leNat]
  simp only [fieldAt]
  simpa [zeros] using h0 _
theorem routes_read (z : Nat) : ∃ r, readRoutes (natLE 8 3 ++ zeros z) (zeros 128) = some r := by
  have f0 : fieldAt (natLE 8 3 ++ zeros z) 0 8 = 3 := by
    simp only [fieldAt, List.drop_zero]
    rw [List.take_append_of_le_length (by decide)]
    decide
  have f1 : ∀ i w, fieldAt (natLE 8 3 ++ zeros z) (8 + i) w = 0 := by
    intro i w
    have : fieldAt (natLE 8 3 ++ zeros z) (8 + i) w = fieldAt (zeros z) i w := by
      simp only [fieldAt]
      rw [List.drop_append]
      have : (natLE 8 3).length = 8 := by decide
      rw [List.drop_eq_nil_of_le (by omega), this]
      simp
    rw [this, fieldAt_zeros]
  have e : ∀ n, wordTable (natLE 8 3 ++ zeros z) (n + 1) 8 = [(0, 3)] := by
    intro n
    unfold wordTable
    rw [List.range_succ_eq_map, List.filterMap_cons]
    simp only [Nat.zero_mul, f0]
    simp only [List.filterMap_map]
    have : List.filterMap ((fun i => if fieldAt (natLE 8 3 ++ zeros z) (i * 8) 8 = 0 then none else some (i, fieldAt (natLE 8 3 ++ zeros z) (i * 8) 8)) ∘ Nat.succ) (List.range n) = [] := by
      rw [List.filterMap_eq_nil_iff]
      intro i _
      have : (i + 1) * 8 = 8 + i * 8 := by omega
      simp [this, f1]
    simp only [this]; rfl
  have f : [((0 : Nat), (3 : Nat))].filter (fun p => reValid p.2 && reLocal p.2) = [(0, 3)] := by decide
  have e' : wordTable (natLE 8 3 ++ zeros z) 32768 8 = [(0, 3)] := e 32767
  unfold readRoutes
  rw [e']
  simp only [f, Option.some.injEq, exists_eq']
theorem readIn_host (s : State) (k : Cmd) (a n : Nat) (b : Bytes) (h1 : bit a 63 = true) (h2 : (s.cxl.busMaster && s.cxl.linkUp) = true)
    (h3 : b.length = n) : s.readIn k a n (some b) = (s, .ok b) := by
  simp only [State.readIn, h1, if_true, h3, Nat.le_refl, decide_true, Bool.and_true, h2]
  rw [List.take_of_length_le (by omega)]
theorem gateImage_length : gateImage.length = 11096 := by decide +kernel
theorem routeImage_length : (natLE 8 3 ++ zeros 263160).length = 263168 := by
  simp only [List.length_append, zeros, List.length_replicate]; decide
/-- A request of context 0 in the mesh, for line 0 of the pool. -/
def request (op : MsgOp) : Req := { op, region := 1 }
def withMesh (m : Req) : State := { pooled up with mesh := [m] }
/-- An answer of endpoint 7 to the open probe of line 0. -/
def answer (op : MsgOp) : Req := { op, src := some 7 }
def probe7 : Probe := { target := 7 }
def lock7 : Lock := { probes := [probe7] }
def probed (m : Req) : State := { withMesh m with locks := [(0, some lock7)] }
def owner7 : DirEnt := { state := .M, sharers := [7] }
def ownedBy7 (m : Req) : State := { withMesh m with dir := [(0, some owner7)] }
def tripled : State :=
  { up with tripReads := [{}], regions := [(1, some { granules := [[0, 1536, 3072]] })], gmap := [(0, [0, 1536, 3072])],
            cords := [(0, { state := .bound, region := 1 }), (1536, { state := .bound, region := 1 }), (3072, { state := .bound, region := 1 })] }
/-- The resend table has taken the answer of endpoint 7. -/
def resent (s : State) : State := { s with resends := s.resends ++ [{ slice := homeTile 0, key := s.poolKey 0, src := 7 }] }
/-- A descriptor: formats A, B and out, tile code, dimensions; operand A at 0, B at 4096, output at 8192. -/
def descr (kind a b o : Nat) (tl d0 d1 d2 par : Nat) : Bytes :=
  natLE 1 kind ++ zeros 1 ++ natLE 1 a ++ natLE 1 b ++ natLE 1 o ++ zeros 1 ++ natLE 1 tl ++ zeros 1 ++ natLE 8 0 ++ natLE 8 4096 ++ natLE 8 8192 ++
  zeros 16 ++ natLE 4 d0 ++ natLE 4 d1 ++ natLE 4 d2 ++ natLE 4 par
/-- Ember 0 stands at descriptor `d` of the only run, and its buffer maps the context's addresses one to one. -/
def atOp (d : Bytes) : State :=
  { atDesc run1 d (pooled up) with
    embers := [(0, { poweredOff := false, state := .running, run := some run1, tb := [{ pages := 4096, read := true, write := true }] })] }
def gemv1 : Bytes := descr 1 4 4 1 16 1 32 1 0x3F800000
def attn1 : Bytes := descr 2 4 4 1 16 0 64 0x10001 0x3F800000
def merge1 : Bytes := descr 3 1 0 1 0 1 64 1 0
def reduce1 : Bytes := descr 4 1 0 0 0 16 0 0 0
def gather1 : Bytes := descr 5 1 0 1 16 1 32 1 0
def scatter1 : Bytes := descr 6 1 0 0 0 1 16 1 0
def convert1 : Bytes := descr 7 1 0 1 16 32 1 0 0
def topk1 : Bytes := descr 8 1 0 0 16 1 1 0 0
/-- A device whose list 0 and list 256 give context 1, isolated, the first slot. -/
def gated : State :=
  { withCtx 1 { isolated := true } up with
    sched := { up.sched with defaultLists := false, active := 0, versions := [{ installed := true, lists :=
      [(0, [{ len := 1000, owners := List.replicate 7 1 }, { len := 11500, owners := List.replicate 7 ownerShared }]),
       (256, [{ len := 1000, owners := [1] }, { len := 11500, owners := [ownerShared] }])] }, {}] } }
/-- Channel 0 with a waiting request. -/
def queued (q : MemReq) : State := { up with chans := [(0, { waiting := [q] })], valid := [(0, true)] }
/-- Ember 0 at a descriptor whose sync word lies at address 0 of a sync region. -/
def syncAt (d : Bytes) : State :=
  { atDesc run1 d (syncPool up) with
    embers := [(0, { poweredOff := false, state := .running, run := some run1, tb := [{ pages := 4096, read := true, write := true }] })] }
/-- A PENDING that passes its end-to-end check. -/
def packet0 : Packet := { opcode := msgCode .pending, check := packetCheck { opcode := msgCode .pending } }
/-- Context 1, of which endpoint 5 is a sender, and a whole NOP packet for it. -/
def sentTo1 : State := withCtx 1 { senders := [(5, 1)] } up
def packetOf1 : Bytes := zeros 2 ++ [1] ++ zeros 57 ++ natLE 4 (crc32c (zeros 2 ++ [1] ++ zeros 57)).toNat
/-- An interrupt controller with these sources. -/
def claimable (l : List (Nat × Src)) : State := { up with intc := { up.intc with srcs := l } }
def src9 : Src := { enable := true, state := .pending, target := 0, priority := 3 }
/-- Throttle level 3 at the start of a stack maintenance slot of stack 0. -/
def maintaining : State :=
  { up with clk := { up.clk with nt := 90400 }, sched := { up.sched with level := 3, pos := (List.range 16).map fun t => (t, { entry := 1 }) } }

/-! ## Single steps -/

/-- R32: the check value of CRC-32C, of the nine characters 1 to 9. -/
theorem test_crc32c_check : crc32c [0x31, 0x32, 0x33, 0x34, 0x35, 0x36, 0x37, 0x38, 0x39] = 0xE3069283 := by decide +kernel
/-- Worked example "decoding one address": DPA 0x01D07A5BC7C0 lies in channel 464 and cord 5,575, homed at H3.T40. -/
theorem test_address_decode :
    lineChan (0x01D07A5BC7C0 / 64) = 464 ∧ lineCord (0x01D07A5BC7C0 / 64) = 5575 ∧ homeTile (0x01D07A5BC7C0 / 64) = 3 * 64 + 40 := by decide +kernel
/-- Worked example "a pool address": granule 0x122 of region 243 is cord 5,575. -/
theorem test_pool_address :
    State.resolve { State.reset with gmap := [(0x122, [5575])], cords := [(5575, { state := .bound, region := 243 })] } 0x00122A5BC7C0 =
      some (243, 0x01D07A5BC7C0) := by decide +kernel
/-- Worked example "one host load". -/
theorem test_host_load :
    decodeHpa 0x008000123440 [{ committed := true, base := 0x008000000000, size := 2 ^ 32, skip := 0x082000000000 }] 0 = some 0x082000123440 := by
  decide +kernel
/-- Table 17.2, steps 1 to 4. -/
def src577 : State := up.modSrc 577 fun x => { x with priority := 5, target := 1 }
def aliasStep (s : State) (w : AliasWindow) (v : Nat) : State := s.bar0Write .host (some w) 0x10904 v
def src577Word (s : State) : Nat := s.regWord .intc 0 (577 * 4) % 2 ^ 7
theorem test_alias_writes :
    let a := aliasStep src577 .set 0x40
    let b := aliasStep a .clear 7
    let c := aliasStep b .toggle 0x20
    let d := aliasStep c .toggle 0x40
    [src577, a, b, c, d].map src577Word = [0x0D, 0x4D, 0x48, 0x48, 0x08] := by decide +kernel
/-- Table 13.11: after two postings a claim returns count 1; two more, a completion and a claim return count 1 again. -/
def src241 : State := up.modSrc 0x241 fun x => { x with priority := 5, target := 1, enable := true }
theorem test_fault_postings :
    let c1 := ((src241.rise 0x241).rise 0x241).claim 1
    let c2 := (((c1.2.rise 0x241).rise 0x241).completeSrc 1 0x241).claim 1
    (c1.1, c2.1, ((c2.2.completeSrc 1 0x241).src 0x241).state) = (claimValue 0x241 { priority := 5, count := 1 }, claimValue 0x241 { priority := 5, count := 1 },
      SrcState.idle) := by decide +kernel
/-- Table 10.8: a refill of 100,000 Mbit/s adds 800 bytes, clamped to the burst of 4,096. -/
def shaper100 (bytes : Int) : Shaper := { ctx := 40, rate := 100000, burst := 4096, overhead := 20, credit := 1024 * bytes }
theorem test_shaper_refills :
    ([0, 4000, -48, -136, -76].map fun b => (shaper100 b).refill.credit) = [1024 * 800, 1024 * 4096, 1024 * 752, 1024 * 664, 1024 * 724] := by decide +kernel
/-- Table 16.11: the first 28 bytes of the packet that arms a plan. -/
theorem test_arm_packet :
    let p := natLE 1 0x32 ++ natLE 1 0 ++ natLE 2 17 ++ natLE 4 0x310 ++ natLE 8 0x0042000080000040 ++ natLE 2 12 ++ natLE 1 1 ++ natLE 1 0 ++ natLE 8 0x001300000040
    p = [0x32, 0, 0x11, 0, 0x10, 3, 0, 0, 0x40, 0, 0, 0x80, 0, 0, 0x42, 0, 0x0C, 0, 1, 0, 0x40, 0, 0, 0, 0x13, 0, 0, 0] ∧
      (pktCtx p, pktTag p) = (17, 0x310) := by decide +kernel
/-- Worked example "translating one stream address". -/
theorem test_leaf_entry :
    let e := leafEntry 17 1 0x00400A5BC7C0 0x000000122A4000C7
    e.base = 0x004008000000 ∧ e.pages = 64 ∧ e.target = 0x001228000000 ∧ e.set = 1 ∧ e.target + (0x00400A5BC7C0 - e.base) = 0x00122A5BC7C0 ∧
      e.read = true ∧ e.write = false := by decide +kernel
/-- Worked example "where is H2.T17": its router is at (1, 10). -/
theorem test_tile_place : (tileX (2 * 64 + 17), tileY (2 * 64 + 17)) = (1, 10) := by decide
/-- R18: the longest minimal path takes 68 cycles of the mesh. -/
theorem test_longest_path : pathCycles (tileAt 0 0) (tileAt 15 15) = 68 := by decide
/-- R273: the check value of this CRC-32, of the nine characters 1 to 9. -/
theorem test_link_crc_check : linkCrc [0x31, 0x32, 0x33, 0x34, 0x35, 0x36, 0x37, 0x38, 0x39] = 0xCBF43926 := by decide +kernel

/-! ## The hypotheses of the statements can be met -/

theorem meets_FrontCommandRuns_1 : ∃ (s : State) (c : Instr) (rest : List Instr), s.pending = c :: rest := ⟨{ up with pending := [.commandDispatch] }, .commandDispatch, [], rfl⟩
theorem meets_IdleStepPassesATick_1 : ∃ s : State, s.pending = [] := ⟨up, rfl⟩
theorem meets_MemoryStaysCanonical_1 : ∃ s t : State, Memory.wf s.mem = true ∧ step s = .next t := ⟨{ up with mem := [(3, 1), (5, 2)] }, _, by decide, rfl⟩
theorem meets_FusesStayConsistent_1 : ∃ s t : State, s.FuseOk ∧ step s = .next t := ⟨{ up with burning := some 2, pending := [.externalReset] }, _, by decide, rfl⟩
theorem meets_SealedEnvelopeHolds_1 : ∃ (s t : State) (e : Nat), s.SealedAt e ∧ step s = .next t := ⟨{ up with kept := { up.kept with envBurned := 2, envSealed := true } }, _, 2, by decide, rfl⟩
theorem meets_SealedEnvelopeHolds_2 : ∃ (s : State) (e : Nat), s.SealedAt e ∧ s.boot.inReset = true := ⟨{ State.reset with kept := { State.reset.kept with envBurned := 1, envSealed := true } }, 1, by decide⟩
theorem meets_RowsThatStoreNothing_1 : ∃ (c : Instr) (s t : State), storesNothing c = true ∧ exec c s = .next t := ⟨.detectRetry 0, up, _, rfl, rfl⟩
theorem meets_RowsThatBurnNothing_1 : ∃ (c : Instr) (s t : State), burnsNothing c = true ∧ exec c s = .next t := ⟨.hearthLost 1, up, _, rfl, rfl⟩
theorem meets_PrivilegeIsChecked_1 : ∃ (s : State) (c o : Nat) (b : Bytes), c < 4096 ∧ o < 64 ∧ b.length = 64 ∧ s.StageOpen c ∧ s.cxl.linkUp = true ∧ s.PassesNine c b := by
  refine ⟨up, 0, 0, goodPacket, ?_⟩; decide +kernel
theorem meets_PrivilegeIsChecked_2 : ∃ (s u : State) (c o ep txn sent : Nat) (b : Bytes), c < 4096 ∧ o < 64 ∧ b.length = 64 ∧ s.StageOpen c ∧ u = (s.source { opcode := msgCode .cmp, dst := ep, ctx := sent, txn := txn, addr := 0xFF0000000000 + (4096 * c + 64 * o) }).1 ∧ ((s.ctx c).map fun x => x.hasSender ep) = some true ∧ c ≠ 0 ∧ u.PassesNine c b := by
  refine ⟨sentTo1, (sentTo1.source { opcode := msgCode .cmp, dst := 5, ctx := 1, txn := 0, addr := 0xFF0000000000 + (4096 * 1 + 64 * 0) }).1, 1, 0, 5, 0, 1, packetOf1, ?_⟩; exact ⟨by decide, by decide, by decide +kernel, by decide +kernel, rfl, by decide +kernel, by decide, by decide +kernel⟩
theorem meets_PrivilegeIsChecked_3 : ∃ (s : State) (c o ep : Nat) (b : Bytes), c < 4096 ∧ o < 64 ∧ b.length = 64 ∧ s.StageOpen c ∧ (c = 0 ∨ ((s.ctx c).map fun x => x.hasSender ep) ≠ some true) := by
  refine ⟨up, 0, 63, 5, goodPacket, ?_⟩; decide +kernel
theorem meets_RepeatedPacketsAreNotExecuted_1 : ∃ (s : State) (c o : Nat) (b : Bytes) (w : WinEntry), c < 4096 ∧ o < 64 ∧ b.length = 64 ∧ s.StageOpen c ∧ s.cxl.linkUp = true ∧ s.WellSent c b ∧ (s.window c).find? (fun w => w.tag == pktTag b) = some w := by
  refine ⟨{ up with windows := [(0, [{ tag := 0 }])] }, 0, 0, goodPacket, { tag := 0 }, ?_⟩; decide +kernel
theorem meets_EpochsAreChecked_1 : ∃ (s : State) (n : Nat) (m : Req), s.mesh[n]? = some m ∧ m.op = .wrInv ∧ s.cycleTurn m = true ∧ s.serves (homeTile (m.dpa / 64)) resChannel m.holder = true ∧ (s.cord (lineCord (m.dpa / 64))).cutover = false ∧ s.stillHome m = true ∧ (s.cord (lineCord (m.dpa / 64))).admits m = false := by
  refine ⟨withMesh { request .wrInv with epoch := 5 }, 0, { request .wrInv with epoch := 5 }, ?_⟩; decide
theorem meets_EpochsAreChecked_2 : ∃ (s u : State) (n : Nat) (m : Req), s.mesh[n]? = some m ∧ m.op = .rdShared ∧ s.cycleTurn m = true ∧ s.serves (homeTile (m.dpa / 64)) resChannel m.holder = true ∧ (s.cord (lineCord (m.dpa / 64))).cutover = false ∧ s.stillHome m = true ∧ (s.cord (lineCord (m.dpa / 64))).admits m = true ∧ s.resendCheck m = .taken u ∧ (u.enqueue (m.dpa / 64) m).2 = true := by
  refine ⟨withMesh (request .rdShared), withMesh (request .rdShared), 0, request .rdShared, ?_⟩
  exact ⟨by decide, by decide, by decide, by decide, by decide, by decide, by decide, rfl, by decide⟩
theorem meets_EpochsAreChecked_3 : ∃ (s u : State) (n : Nat) (m : Req) (d : DirEnt), s.OwnerGivesUp n .wb m d u ∧ m.epoch = 9 := by
  refine ⟨ownedBy7 { answer .wb with epoch := 9 }, resent (ownedBy7 { answer .wb with epoch := 9 }), 0, { answer .wb with epoch := 9 }, owner7, ?_⟩
  exact ⟨⟨by decide, by decide, by decide, by decide, rfl, by decide, by decide, by decide, by decide⟩, rfl⟩
theorem meets_EpochsAreChecked_4 : ∃ (s u : State) (n : Nat) (m : Req) (d : DirEnt), s.OwnerGivesUp n .evict m d u ∧ m.epoch = 9 := by
  refine ⟨ownedBy7 { answer .evict with epoch := 9 }, ownedBy7 { answer .evict with epoch := 9 }, 0, { answer .evict with epoch := 9 }, owner7, ?_⟩
  exact ⟨⟨by decide, by decide, by decide, by decide, rfl, by decide, by decide, by decide, by decide⟩, rfl⟩
theorem meets_EnvelopeFieldRules_1 : ∃ s : State, s.boot.inReset = true ∧ s.kept.envSealed = false := ⟨State.reset, by decide⟩
theorem meets_EnvelopeFieldRules_2 : ∃ (s : State) (v : Reg), s.kept.envSealed = false ∧ s.burning = none ∧ s.reached .host false = true ∧ bits v.toNat 8 8 = 0xE7 ∧ bits v.toNat 0 2 ≠ 0 := ⟨up, 0xE702, by decide⟩
theorem meets_EnvelopeFieldRules_3 : ∃ s : State, s.kept.envSealed = true := ⟨{ up with kept := { up.kept with envSealed := true } }, rfl⟩
theorem meets_ClaimsAndCompletions_1 : ∃ (s : State) (rd : Reader) (t : Nat), t < 8 ∧ s.mayWrite rd false = true ∧ Reader.isHost rd = true ∧ 4 ≤ t ∧ t ≤ 6 := ⟨up, .host, 4, by decide⟩
theorem meets_ClaimsAndCompletions_2 : ∃ (s : State) (rd : Reader) (t : Nat), t < 8 ∧ s.mayWrite rd false = true ∧ ¬ (Reader.isHost rd = true ∧ 4 ≤ t ∧ t ≤ 6) ∧ ∀ p ∈ s.intc.srcs, ¬ (p.2.enable = true ∧ p.2.state = .pending ∧ p.2.target = t ∧ (s.intc.targets.getD t {}).threshold ≤ p.2.priority) := by
  refine ⟨claimable [], .host, 0, ?_⟩; decide
theorem meets_ClaimsAndCompletions_3 : ∃ (s : State) (rd : Reader) (t : Nat), t < 8 ∧ s.mayWrite rd false = true ∧ ∃ p ∈ s.intc.srcs, (p.2.enable = true ∧ p.2.state = .pending ∧ p.2.target = t ∧ (s.intc.targets.getD t {}).threshold ≤ p.2.priority) ∧ ∀ q ∈ s.intc.srcs, q.2.enable = true ∧ q.2.state = .pending ∧ q.2.target = t ∧ (s.intc.targets.getD t {}).threshold ≤ q.2.priority → q = p ∨ q.2.priority < p.2.priority ∨ (q.2.priority = p.2.priority ∧ p.1 < q.1) := by
  refine ⟨claimable [(3, src9), (7, src9)], .host, 0, ?_⟩; decide
theorem meets_ClaimsAndCompletions_4 : ∃ (s : State) (t : Nat) (v : Reg), t < 8 ∧ s.mayWrite .host false = true ∧ (s.src (bits v.toNat 0 10)).state = .active ∧ (s.src (bits v.toNat 0 10)).claimer = t := by
  refine ⟨claimable [(3, { src9 with state := .active, claimer := 0 })], 0, 3, ?_⟩; decide
theorem meets_ClaimsAndCompletions_5 : ∃ (s : State) (t : Nat) (v : Reg), t < 8 ∧ s.mayWrite .host false = true ∧ 4 ≤ (s.src (bits v.toNat 0 10)).claimer ∧ (s.src (bits v.toNat 0 10)).claimer ≤ 6 := by
  refine ⟨claimable [(3, { src9 with state := .active, claimer := 5 })], 0, 3, ?_⟩; decide
theorem meets_AliasReadsAndShadows_1 : ∃ (s : State) (rd : Reader) (off : Nat), 0x1000000 ≤ off ∧ off < 0x4000000 ∧ s.reached rd false = true := ⟨up, .host, 0x1000000, by decide⟩
theorem meets_AliasReadsAndShadows_2 : ∃ (s : State) (rd : Reader) (b : RegBlock) (off u o : Nat), off < 0x1000000 ∧ regAt off = some (b, u, o) ∧ off % 4 = 0 ∧ s.reached rd b.hostOnly = true ∧ lowWord b (o + 4) = some o ∧ claimReg b o = none ∧ lowWord b o = none := ⟨up, .host, .ident, 0x20, 0, 0x20, by decide⟩
theorem meets_AliasReadsAndShadows_3 : ∃ (s : State) (rd : Reader) (b : RegBlock) (off u o : Nat), off < 0x1000000 ∧ regAt off = some (b, u, o) ∧ off % 4 = 0 ∧ s.reached rd b.hostOnly = true ∧ lowWord b o = some (o - 4) := ⟨up, .host, .ident, 0x24, 0, 0x24, by decide⟩
theorem meets_DebugUnlockRules_1 : ∃ (s : State) (level : Nat), s.jtagReached = true ∧ level ≠ 0 ∧ 3 ≤ s.sec.unlockFails := ⟨{ up with sec := { up.sec with unlockFails := 3 } }, 1, by decide⟩
theorem meets_DebugUnlockRules_2 : ∃ (s : State) (level : Nat), s.jtagReached = true ∧ level ≠ 0 ∧ s.kept.debugDisabled = true := ⟨{ up with kept := { up.kept with debugDisabled := true } }, 2, by decide⟩
theorem meets_DebugUnlockRules_3 : ∃ s : State, s.reached .host true = true := ⟨up, by decide⟩
theorem meets_DebugUnlockRules_4 : ∃ rd : Reader, rd ≠ .host := ⟨.jtag, by decide⟩
theorem meets_TransportRowsTakeEffect_1 : ∃ (s : State) (c : Nat) (b : Bytes), (s.Accepts c b) := by
  refine ⟨up, 0, goodPacket, ?_⟩
  decide +kernel
theorem meets_TransportRowsTakeEffect_2 : ∃ (s : State) (k : Cmd), (s.complexActs = true) ∧ let u := (s.untilElapsed s.triplex.gapEnd).deferHeld; (u.nextCtx = some k) := by
  refine ⟨waiting 0x00 [], command 0x00 [] .waiting, ?_⟩
  decide
theorem meets_TransportRowsTakeEffect_3 : ∃ (s : State) (n : Nat) (o : CuOut), (s.cuOut[n]? = some o) ∧ (o.released = true) ∧ let u := s.untilElapsed s.triplex.gapEnd; (o.claim = (u.stage (u.stageOf o.ctx)).claimSeen % 65536) := by
  refine ⟨{ up with cuOut := [{ released := true }] }, 0, { released := true }, ?_⟩
  decide
theorem meets_TransportRowsTakeEffect_4 : ∃ (s : State) (n : Nat) (o : OpenReply) (p : Packet), (s.openReplies[n]? = some o) ∧ (s.inbox.find? (fun (p : Packet) => p.opcode == msgCode .err && o.txns.contains p.txn) = some p) := by
  refine ⟨{ up with openReplies := [{ txns := [1] }], inbox := [{ opcode := msgCode .err, txn := 1 }] }, 0, { txns := [1] }, { opcode := msgCode .err, txn := 1 }, ?_⟩
  decide
theorem meets_ContextRowsTakeEffect_1 : ∃ (s : State) (c t : Nat) (k : Cmd), (s.Taken c t 0x00 k) := by
  refine ⟨(taken 0x00 []), 0, 0, command 0x00 [] .taken, ?_⟩
  decide
theorem meets_ContextRowsTakeEffect_2 : ∃ (s : State) (c t : Nat) (k : Cmd) (n : Nat), (s.Taken c t 0x01 k) ∧ let conf := bit (k.par 18 1) 0; let iso := bit (k.par 18 1) 1; ((if k.par 16 2 % 4096 ≠ 0 then some (k.par 16 2 % 4096) else ((List.range 4096).drop 1).find? fun n => (s.ctx n).isNone) = some n) ∧ (k.par 19 1 ≤ 8) ∧ (k.ranges.findIdx? (fun r => !rangeOk r) = none) ∧ (k.unusedAt (20 + 4 * k.par 19 1) 52 = none) ∧ ((iso = true ∨ k.par 52 8 = 0)) ∧ (s.ctx n = none) ∧ ((conf = true → s.sec.jtagLevel ≠ 2 ∧ s.keysLost = false)) ∧ let x := ({ conf, isolated := iso, senders := k.ranges, createdSeq := s.diag.nextSeq, measure := zeros 32 } : Ctx).withReserve (k.bytes.drop 52); ((iso = true → s.reserveMet n x = true)) := by
  refine ⟨(taken 0x01 [1]), 0, 0, command 0x01 [1] .taken, 1, ?_⟩
  decide
theorem meets_ContextRowsTakeEffect_3 : ∃ (s : State) (c t : Nat) (k : Cmd) (x : Ctx), (s.Taken c t 0x03 k) ∧ ((k.par 16 2 = k.ctx ∨ k.mgmt = true)) ∧ (s.ctx (k.par 16 2) = some x) := by
  refine ⟨(taken 0x03 []), 0, 0, command 0x03 [] .taken, {}, ?_⟩
  decide
theorem meets_ContextRowsTakeEffect_4 : ∃ (s : State) (c t : Nat) (k : Cmd) (x : Ctx), (s.Taken c t 0x04 k) ∧ let n := k.par 16 2; let iso := bit (k.par 18 1) 0; (s.ctx n = some x) ∧ (x.destroying = false) ∧ ((iso = true → n ≠ 0)) ∧ ((iso = false → k.unusedAt 20 28 = none)) ∧ (x.isolated ≠ iso) ∧ (s.grants.any (fun g => g.holder == n && !g.tombstone) = false) ∧ (s.cords.any (fun p => p.2.state == CordState.allocated && p.2.ctx == n) = false) ∧ (s.plansOf n = []) ∧ (s.gatesName n = false) ∧ let y := if iso then ({ x with isolated := true } : Ctx).withReserve (k.bytes.drop 20) else ({ x with isolated := false } : Ctx).withReserve (zeros 8); ((iso = true → s.reserveMet n y = true)) := by
  refine ⟨(withCtx 1 {} (taken 0x04 [1, 0, 1])), 0, 0, command 0x04 [1, 0, 1] .taken, {}, ?_⟩
  decide
theorem meets_ContextRowsTakeEffect_5 : ∃ (s : State) (c t : Nat) (k : Cmd) (x : Ctx), (s.Taken c t 0x04 k) ∧ (s.ctx (k.par 16 2) = some x) ∧ (x.destroying = false) ∧ (x.isolated = bit (k.par 18 1) 0) ∧ ((k.par 16 2 = 0 → x.isolated = false)) ∧ ((x.isolated = false → k.unusedAt 20 28 = none)) := by
  refine ⟨(taken 0x04 []), 0, 0, command 0x04 [] .taken, {}, ?_⟩
  decide
theorem meets_ContextRowsTakeEffect_6 : ∃ (s : State) (c t : Nat) (k : Cmd) (x : Ctx), (s.Taken c t 0x02 k) ∧ let n := k.par 16 2; (s.ctx n = some x) ∧ (n ≠ 0) ∧ (x.destroying = false) := by
  refine ⟨(withCtx 1 {} (taken 0x02 [1])), 0, 0, command 0x02 [1] .taken, {}, ?_⟩
  decide
theorem meets_ContextRowsTakeEffect_7 : ∃ (s : State) (c : Nat) (d e : Destroy), (Tab.get none s.destroys c = some d) ∧ let u := s.settleCords; (Tab.get none u.destroys c = some e) ∧ (e.cords = []) ∧ (u.grants.any (fun g => g.holder == c && !g.tombstone) = false) ∧ (u.cmds.any (fun (k : Cmd) => k.ctx == c) = false) ∧ (u.regions.any (fun p => (p.2.map fun r => r.steps.any fun st => st.destroyOf == some c).getD false) = false) := by
  refine ⟨{ withCtx 1 {} up with destroys := [(1, some { tag := 1 })] }, 1, { tag := 1 }, { tag := 1 }, ?_⟩
  decide
theorem meets_KeyRowsTakeEffect_1 : ∃ (s : State) (c t : Nat) (k : Cmd) (x : Ctx), (s.Taken c t 0x05 k) ∧ (s.ctx k.ctx = some x) ∧ (s.engineLost = false) ∧ (s.sec.attestReady = true) ∧ (k.par 16 8 % 8 = 0) ∧ let chain := bit (k.par 59 1) 0; let need := 704 + 48 * x.log.length + (if chain then s.chain.length else 0); (need ≤ k.par 56 3) ∧ ((bit (k.par 16 8) 63 = true ∨ s.rangeStatus k.ctx (k.par 16 8 % 2 ^ 48) need rightWrite = none)) := by
  refine ⟨(attesting 0 (zeros 7 ++ [0x80] ++ zeros 32 ++ [0xFF, 0xFF, 0xFF])), 0, 0, command 0x05 (zeros 7 ++ [0x80] ++ zeros 32 ++ [0xFF, 0xFF, 0xFF]) .taken, {}, ?_⟩
  decide
theorem meets_KeyRowsTakeEffect_2 : ∃ (s : State) (c t : Nat) (k : Cmd) (g : Signing) (h : Bool), (s.Running c t 0x05 k) ∧ (s.sec.signings.find? (fun g => g.ctx == k.ctx && g.tag == k.tag) = some g) ∧ (s.engineLost = false) := by
  refine ⟨{ running 0x05 (zeros 7 ++ [0x80]) with sec := { signings := [{}] } }, 0, 0, command 0x05 (zeros 7 ++ [0x80]) .running, {}, true, ?_⟩
  decide
theorem meets_KeyRowsTakeEffect_3 : ∃ (s : State) (c t : Nat) (k : Cmd) (x : Ctx) (blob : Bytes), (s.Taken c t 0x06 k) ∧ (s.ctx k.ctx = some x) ∧ (x.conf = true) ∧ (x.attested = true) ∧ (s.keysLost = false) ∧ let r := s.poolRead k.ctx (k.par 16 8) 128 rightRead; (r.2 = .ok blob) ∧ ((blob.drop 121).all (· == 0) = true) ∧ (x.logFull = false) := by
  refine ⟨withCtx 0 { conf := true, attested := true } (pooled (taken 0x06 [])), 0, 0, command 0x06 [] .taken, { conf := true, attested := true }, zeros 128, ?_⟩
  decide
theorem meets_KeyRowsTakeEffect_4 : ∃ (s : State) (c peer : Nat) (k : SessionKey) (o : Bytes × Nat), (s.sessionKey c peer = some k) ∧ (k.olds.getLast? = some o) := by
  refine ⟨{ up with sec := { sessionKeys := [{ olds := [([], 0)] }] } }, 0, 0, { olds := [([], 0)] }, ([], 0), ?_⟩
  decide
theorem meets_KeyRowsTakeEffect_5 : ∃ (s : State) (c t : Nat) (k : Cmd) (x : Ctx) (w : WeightKey) (rn dpa : Nat) (r : Region), (s.Taken c t 0x34 k) ∧ (s.ctx k.ctx = some x) ∧ (s.keysLost = false) ∧ ((x.conf = true → x.attested = true)) ∧ let src := k.par 16 8; let dst := k.par 24 8; let len := k.par 32 8; (src % 64 = 0) ∧ (dst % 64 = 0) ∧ (len % 64 = 0) ∧ (64 ≤ len) ∧ (len ≤ 2 ^ 40) ∧ (s.sec.weightKeys.find? (fun w => w.ctx == k.ctx && w.slot == k.par 40 1) = some w) ∧ (s.rangeStatus k.ctx src (len + 16) rightRead = none) ∧ (s.rangeStatus k.ctx dst len rightWrite = none) ∧ (s.resolve dst = some (rn, dpa)) ∧ (s.region rn = some r) ∧ (r.conf = true) := by
  refine ⟨(confPool (taken 0x34 (natLE 8 256 ++ natLE 8 128 ++ natLE 8 64))), 0, 0, command 0x34 (natLE 8 256 ++ natLE 8 128 ++ natLE 8 64) .taken, {}, {}, 1, 128, { conf := true, granules := [[0]] }, ?_⟩
  decide
theorem meets_KeyRowsTakeEffect_6 : ∃ (s : State) (c t : Nat) (k : Cmd) (x : Ctx) (g : Ingest) (b : Bytes), (s.Running c t 0x34 k) ∧ (s.sec.ingests.find? (fun g => g.ctx == k.ctx && g.tag == k.tag) = some g) ∧ (s.ctx k.ctx = some x) ∧ (s.engineLost = false) ∧ (g.running = true) ∧ let r := s.poolRead k.ctx g.source (g.len + 16) rightRead; (r.2 = .ok b) ∧ let f := r.1.rangeFree k.ctx g.dest g.len; (f.2 = true) ∧ let w := { f.1 with sec := { f.1.sec with ingests := startIngest (f.1.sec.ingests.filter (· != g)) } }; let plain := (Config.sm4Gcm g.key g.iv [] (b.take g.len)).1; (w.rangeStatus k.ctx g.dest g.len rightWrite = none) ∧ (x.logFull = false) := by
  refine ⟨{ pooled (running 0x34 []) with sec := { ingests := [{ source := 256, dest := 128, len := 64, running := true }] } }, 0, 0, command 0x34 [] .running, {}, { source := 256, dest := 128, len := 64, running := true }, zeros 80, ?_⟩
  decide
theorem meets_CordAndRegionRowsTakeEffect_1 : ∃ (s : State) (c t : Nat) (k : Cmd) (l : List Nat), (s.Taken c t 0x10 k) ∧ let h := k.par 22 2 % 4096; (k.allocFault = none) ∧ (s.ctxLive h = true) ∧ (s.place k = some l) ∧ let r := s.writeOut k (2 ^ 63 + k.par 16 6) (l.flatMap (natLE 2)) true; (r.2 = none) := by
  refine ⟨(taken 0x10 (zeros 6 ++ natLE 2 0x3000 ++ natLE 2 1 ++ zeros 2 ++ [0, 0, 0xFF, 0xFF])), 0, 0, command 0x10 (zeros 6 ++ natLE 2 0x3000 ++ natLE 2 1 ++ zeros 2 ++ [0, 0, 0xFF, 0xFF]) .taken, [0], ?_⟩
  decide
theorem meets_CordAndRegionRowsTakeEffect_2 : ∃ (s : State) (c t : Nat) (k : Cmd) (hostData : Option Bytes) (b : Bytes), (s.Taken c t 0x11 k) ∧ let h := k.par 22 2 % 4096; let count := k.par 24 2; (k.par 16 6 % 8 = 0) ∧ (count ≠ 0) ∧ (count ≤ 6144) ∧ (s.ctxLive h = true) ∧ let r := s.readIn k (2 ^ 63 + k.par 16 6) (2 * count) hostData; (r.2 = .ok b) ∧ let l := cordNumbers b count; (l.Nodup) ∧ ((∀ n ∈ l, r.1.allocatedTo n h = true)) := by
  refine ⟨{ taken 0x11 (zeros 8 ++ natLE 2 1) with cords := [(5, { state := .allocated })] }, 0, 0, command 0x11 (zeros 8 ++ natLE 2 1) .taken, some [5, 0], [5, 0], ?_⟩
  decide
theorem meets_CordAndRegionRowsTakeEffect_3 : ∃ (s : State) (c t : Nat) (k : Cmd) (hostData : Option Bytes) (b : Bytes) (lease n g : Nat), (s.Taken c t 0x12 k) ∧ let count := k.par 24 2; let conf := bit (k.par 26 1) 1; (k.par 26 1 % 2 = 0) ∧ (s.ctxIso k.ctx = false) ∧ ((conf = true → s.ctxConf k.ctx = true)) ∧ (k.par 26 1 < 4) ∧ (count ≠ 0) ∧ (count ≤ 6144) ∧ (k.par 28 2 ≤ 0x3FFF) ∧ (leasePeriod (k.par 32 4) = some lease) ∧ let r := s.readIn k (k.par 16 8) (2 * count) hostData; (r.2 = .ok b) ∧ let l := cordNumbers b count; (l.Nodup) ∧ ((∀ m ∈ l, r.1.allocatedTo m k.ctx = true)) ∧ (r.1.regionRoom k.ctx = true) ∧ (r.1.grantRoom k.ctx = true) ∧ (r.1.freeRegion = some n) ∧ (r.1.chooseBase (k.par 28 2) count = some g) := by
  refine ⟨{ taken 0x12 (zeros 7 ++ [0x80] ++ natLE 2 1) with cords := [(5, { state := .allocated })] }, 0, 0, command 0x12 (zeros 7 ++ [0x80] ++ natLE 2 1) .taken, some [5, 0], [5, 0], 100, 1, 0, ?_⟩
  decide +kernel
theorem meets_CordAndRegionRowsTakeEffect_4 : ∃ (s : State) (c t : Nat) (k : Cmd) (lease : Nat) (r : Region), (s.Taken c t 0x13 k) ∧ let n := k.par 16 2; let h := k.par 18 2; (leasePeriod (k.par 24 4) = some lease) ∧ (s.region n = some r) ∧ (r.state ≠ RegionState.reclaiming) ∧ (s.shareFault k n h (k.par 20 1) (k.par 21 1) (some r) = none) ∧ (s.grant h n = none) ∧ (h ≠ 4096) ∧ (s.grantRoom h = true) := by
  refine ⟨(withCtx 1 {} (pooled (taken 0x13 [1, 0, 1, 0, 3, 0xFF]))), 0, 0, command 0x13 [1, 0, 1, 0, 3, 0xFF] .taken, 100, { granules := [[0]] }, ?_⟩
  decide
theorem meets_CordAndRegionRowsTakeEffect_5 : ∃ (s : State) (c t : Nat) (k : Cmd) (r : Region) (g : Grant), (s.Taken c t 0x14 k) ∧ let n := k.par 16 2; let h := k.par 18 2; (s.region n = some r) ∧ (s.grant h n = some g) ∧ (g.tombstone = false) ∧ ((k.ctx = h ∨ g.issuers.contains k.ctx = true ∨ s.hasRight k.ctx n rightOwn = true ∨ k.mgmt = true)) ∧ (r.steps.any (fun st => st.holder == h) = false) ∧ ((k.mgmt = true ∨ ((s.grant k.ctx n).map (·.lapsed)).getD false = false)) := by
  refine ⟨(pooled (taken 0x14 [1])), 0, 0, command 0x14 [1] .taken, { granules := [[0]] }, { region := 1, rights := 31, expiry := 2 ^ 60 }, ?_⟩
  decide
theorem meets_CordAndRegionRowsTakeEffect_6 : ∃ (s : State) (c t : Nat) (k : Cmd) (g : Grant), (s.Taken c t 0x15 k) ∧ (k.par 16 2 = k.ctx) ∧ (k.par 18 1 = 1) ∧ (k.unusedAt 22 52 = none) ∧ (k.par 20 2 ≠ 0) ∧ ((s.grants.filter fun g => g.holder == k.ctx).find? (fun g => g.region == k.par 20 2) = some g) ∧ (g.tombstone = false) ∧ (g.leaving = false) ∧ (k.acceptedAt < g.expiry) := by
  refine ⟨(pooled (taken 0x15 [0, 0, 1, 0, 1, 0])), 0, 0, command 0x15 [0, 0, 1, 0, 1, 0] .taken, { region := 1, rights := 31, expiry := 2 ^ 60 }, ?_⟩
  decide
theorem meets_MemoryCommandRowsTakeEffect_1 : ∃ (s : State) (c t : Nat) (k : Cmd) (r : Region), (s.Taken c t 0x16 k) ∧ let n := k.par 16 2; let m := k.par 20 2; (s.region n = some r) ∧ (r.cords.contains m = true) ∧ ((s.cord m).state ≠ .migrating) ∧ ((s.cord m).state ≠ .zeroising) ∧ (r.tripling = none) ∧ (k.par 22 2 = 0xFFFF) := by
  refine ⟨(pooled (taken 0x16 [1, 0, 0, 0, 0, 0, 0xFF, 0xFF])), 0, 0, command 0x16 [1, 0, 0, 0, 0, 0, 0xFF, 0xFF] .taken, { granules := [[0]] }, ?_⟩
  decide
theorem meets_MemoryCommandRowsTakeEffect_2 : ∃ (s : State) (c t : Nat) (k : Cmd) (r : Region), (s.Taken c t 0x16 k) ∧ let n := k.par 16 2; let m := k.par 20 2; let g := k.par 22 2; (s.region n = some r) ∧ (r.cords.contains m = true) ∧ ((s.cord m).state ≠ .migrating) ∧ ((s.cord m).state ≠ .zeroising) ∧ (r.tripling = none) ∧ (g < 512) ∧ ((s.chan g).state = ChanState.inService) ∧ ((s.chan g).retiring = none) := by
  refine ⟨(pooled (taken 0x16 [1, 0, 0, 0, 0, 0, 5, 0])), 0, 0, command 0x16 [1, 0, 0, 0, 0, 0, 5, 0] .taken, { granules := [[0]] }, ?_⟩
  decide
theorem meets_MemoryCommandRowsTakeEffect_3 : ∃ (s : State) (c t : Nat) (k : Cmd), (s.Taken c t 0x17 k) ∧ (s.rangeFault k rightRead = none) := by
  refine ⟨(pooled (taken 0x17 (natLE 8 0 ++ natLE 8 64))), 0, 0, command 0x17 (natLE 8 0 ++ natLE 8 64) .taken, ?_⟩
  decide
theorem meets_MemoryCommandRowsTakeEffect_4 : ∃ (s : State) (c t : Nat) (k : Cmd) (rn dpa : Nat), (s.Taken c t 0x17 k) ∧ (s.rangeFault k rightRead = none) ∧ let a := k.par 16 8; let hi := a + k.par 24 8; (a < hi) ∧ (s.resolve a = some (rn, dpa)) ∧ (((s.copiesOf (dpa / 64)).any fun l => s.banked (lineChan l)) = false) ∧ let r : Scrub := { ctx := c, tag := t, next := a }; let q := s.portTurn (s.scrubReq r (dpa / 64)); (q.2 = true) := by
  refine ⟨(pooled (taken 0x17 (natLE 8 0 ++ natLE 8 64))), 0, 0, command 0x17 (natLE 8 0 ++ natLE 8 64) .taken, 1, 0, ?_⟩
  decide
theorem meets_MemoryCommandRowsTakeEffect_5 : ∃ (s : State) (c t : Nat) (k : Cmd) (r : Scrub), (s.Running c t 0x17 k) ∧ (s.scrubs.find? (fun x => x.ctx == c && x.tag == t) = some r) := by
  refine ⟨{ running 0x17 [] with scrubs := [{}] }, 0, 0, command 0x17 [] .running, {}, ?_⟩
  decide
theorem meets_MemoryCommandRowsTakeEffect_6 : ∃ (s : State) (c t : Nat) (k : Cmd), (s.Taken c t 0x18 k) ∧ (k.par 32 1 = 0) ∧ (s.rangeFault k rightWrite = none) := by
  refine ⟨(pooled (taken 0x18 (natLE 8 0 ++ natLE 8 64))), 0, 0, command 0x18 (natLE 8 0 ++ natLE 8 64) .taken, ?_⟩
  decide
theorem meets_MemoryCommandRowsTakeEffect_7 : ∃ (s : State) (c t : Nat) (k : Cmd), (s.Taken c t 0x18 k) ∧ (k.par 32 1 = 1) ∧ (k.mgmt = true) ∧ (k.unusedAt 18 32 = none) ∧ let n := k.par 16 2; (n < 6144) := by
  refine ⟨(taken 0x18 (zeros 16 ++ [1])), 0, 0, command 0x18 (zeros 16 ++ [1]) .taken, ?_⟩
  decide
theorem meets_MemoryCommandRowsTakeEffect_8 : ∃ (s : State) (c t : Nat) (k : Cmd) (r : Region), (s.Taken c t 0x19 k) ∧ let m := k.par 16 2; (s.region m = some r) ∧ (r.sync = false) ∧ (r.state = RegionState.active) ∧ (r.tripling = none) ∧ (r.cords.any (fun n => (s.cord n).state == .migrating) = false) := by
  refine ⟨untripled, 0, 0, command 0x19 [1] .taken, {}, ?_⟩
  decide
theorem meets_MemoryCommandRowsTakeEffect_9 : ∃ (s : State) (c t : Nat) (k : Cmd) (rn dpa : Nat), (s.Taken c t 0x38 k) ∧ let a := k.par 16 8; let n := k.par 24 4; (s.resolve a = some (rn, dpa)) ∧ (a % 8 = 0) ∧ (s.syncArea dpa = true) ∧ (s.hasRight k.ctx rn rightSync = true) ∧ (n ≠ 0) ∧ (n ≤ 4194304) ∧ (dpa % 2 ^ 28 + 8 * n ≤ 2 ^ 25) := by
  refine ⟨(syncPool (taken 0x38 (natLE 8 0 ++ [1]))), 0, 0, command 0x38 (natLE 8 0 ++ [1]) .taken, 1, 0, ?_⟩
  decide
theorem meets_TranslationRowsTakeEffect_1 : ∃ (s : State) (c t : Nat) (k : Cmd), (s.Taken c t 0x20 k) ∧ let root := k.par 16 8; let n := k.par 24 2; (root % 4096 = 0) ∧ ((root ≠ 0 → s.tableRegionOk k.ctx n = true ∧ (s.resolve root).map Prod.fst = some n)) ∧ (k.awaits = none) := by
  refine ⟨(taken 0x20 []), 0, 0, command 0x20 [] .taken, ?_⟩
  decide
theorem meets_TranslationRowsTakeEffect_2 : ∃ (s : State) (c t : Nat) (k : Cmd) (l : List Nat × List (Nat × Nat)), (s.Taken c t 0x20 k) ∧ (k.awaits = some l) := by
  refine ⟨(let q : Cmd := { command 0x20 [] .taken with awaits := some ([], []) }; (withCmd q up)), 0, 0, { command 0x20 [] .taken with awaits := some ([], []) }, ([], []), ?_⟩
  decide
theorem meets_TranslationRowsTakeEffect_3 : ∃ (s : State) (c t : Nat) (k : Cmd), (s.Taken c t 0x21 k) ∧ let a := k.par 16 8; let n := k.par 24 4; (a % 4096 = 0) ∧ (a < 2 ^ 48) ∧ (k.awaits = none) := by
  refine ⟨(taken 0x21 []), 0, 0, command 0x21 [] .taken, ?_⟩
  decide
theorem meets_TranslationRowsTakeEffect_4 : ∃ (s : State) (c t : Nat) (k : Cmd) (l : List Nat × List (Nat × Nat)), (s.Taken c t 0x21 k) ∧ (k.par 16 8 % 4096 = 0) ∧ (k.par 16 8 < 2 ^ 48) ∧ (k.awaits = some l) := by
  refine ⟨(let q : Cmd := { command 0x21 [] .taken with awaits := some ([], []) }; (withCmd q up)), 0, 0, { command 0x21 [] .taken with awaits := some ([], []) }, ([], []), ?_⟩
  decide
theorem meets_TranslationRowsTakeEffect_5 : ∃ (s : State) (c t : Nat) (k : Cmd) (e : FqEnt), (s.Taken c t 0x22 k) ∧ (k.par 16 1 < 4) ∧ (k.par 17 1 < 2) ∧ (k.par 18 2 < 1024) ∧ (Tab.get none (s.faultQ (k.par 16 1)).slots (k.par 18 2) = some e) ∧ (e.seq = k.par 20 4) ∧ ((k.ctx = e.fault.ctx ∨ k.ctx = 0)) := by
  refine ⟨{ taken 0x22 [] with faultQs := [(0, { slots := [(0, some { mask := [3] })] })] }, 0, 0, command 0x22 [] .taken, { mask := [3] }, ?_⟩
  decide
theorem meets_TranslationRowsTakeEffect_6 : ∃ (s : State) (i : Nat) (r : Run) (a : Nat) (w : Bool) (e : TbEnt), ((s.ember i).run = some r) ∧ (r.walking = some (a, w)) ∧ (r.fault = none) ∧ (r.err = none) ∧ let q := s.walk i r.ctx a w; (q.2 = .leaf e) := by
  refine ⟨walked, 0, { run1 with walking := some (0, false) }, 0, false, walkedLeaf, ?_⟩
  decide +kernel
theorem meets_TranslationRowsTakeEffect_7 : ∃ (s : State) (i : Nat) (r : Run) (a : Nat) (w : Bool) (l cause reason p : Nat), ((s.ember i).run = some r) ∧ (r.walking = some (a, w)) ∧ (r.fault = none) ∧ (r.err = none) ∧ let q := s.walk i r.ctx a w; (q.2 = .fault l cause reason p) := by
  refine ⟨atDesc { run1 with walking := some (0, false) } [] up, 0, { run1 with walking := some (0, false) }, 0, false, 3, causeNoTable, 0, noAddr, ?_⟩
  decide
theorem meets_TranslationRowsTakeEffect_8 : ∃ (s : State) (h : Nat), (h < 4) := by
  refine ⟨up, 0, ?_⟩
  decide
theorem meets_TranslationRowsTakeEffect_9 : ∃ (s : State) (h : Nat), (h < 4) ∧ ((s.faultQ h).rewalk = true) := by
  refine ⟨{ up with faultQs := [(0, { rewalk := true })] }, 0, ?_⟩
  decide
theorem meets_PlanRowsTakeEffect_1 : ∃ (s : State) (c t : Nat) (k : Cmd) (h b : Bytes) (ts : List Nat) (n : Nat), (s.Taken c t 0x30 k) ∧ let a := k.par 16 8; (a % 64 = 0) ∧ (s.rangeStatus k.ctx a 64 rightRead = none) ∧ let p := s.poolRead k.ctx a 64 rightRead; (p.2 = .ok h) ∧ (headerOk h = true) ∧ let count := fieldAt h 2 2; (s.rangeStatus k.ctx a (64 * count) rightRead = none) ∧ let q := (if 64 < count then p.1.deferOnce k else p.1).poolRead k.ctx a (64 * count) rightRead; (q.2 = .ok b) ∧ let l := chunks 64 4096 b; (q.1.planCheck k.ctx l = .ok ts) ∧ (((q.1.ctx k.ctx).map Ctx.logFull).getD false = false) ∧ (q.1.freePlan = some n) := by
  refine ⟨planIn (taken 0x30 []), 0, 0, command 0x30 [] .taken, smallPlan.take 64, smallPlan, [0], 1, ?_⟩
  decide +kernel
theorem meets_PlanRowsTakeEffect_2 : ∃ (s : State) (c t : Nat) (k : Cmd) (p : Plan), (s.Taken c t 0x31 k) ∧ let n := k.par 16 2; (s.ownPlan k.ctx n = some p) ∧ (p.state = .loaded) ∧ (s.planFenced p = false) := by
  refine ⟨planned { tiles := [0] } (taken 0x31 [1]), 0, 0, command 0x31 [1] .taken, { tiles := [0] }, ?_⟩
  decide
theorem meets_PlanRowsTakeEffect_3 : ∃ (s : State) (c t : Nat) (k : Cmd) (p : Plan) (rn dpa : Nat), (s.Taken c t 0x32 k) ∧ let n := k.par 16 2; let a := k.par 20 8; (s.ownPlan k.ctx n = some p) ∧ (k.par 18 1 < 2) ∧ (s.resolve a = some (rn, dpa)) ∧ (a % 8 = 0) ∧ (s.syncArea dpa = true) ∧ (s.hasRight k.ctx rn rightSync = true) ∧ (p.state = .loaded) ∧ (s.planFenced p = false) ∧ let i := homeTile (dpa / 64); let key := s.poolKey (dpa / 64); (s.armsUsed i key < s.poolShare i key 32) := by
  refine ⟨planned { tiles := [0] } (syncPool (taken 0x32 [1])), 0, 0, command 0x32 [1] .taken, { tiles := [0] }, 1, 0, ?_⟩
  decide
theorem meets_PlanRowsTakeEffect_4 : ∃ (s : State) (c t : Nat) (k : Cmd) (p : Plan), (s.Taken c t 0x33 k) ∧ let n := k.par 16 2; (s.ownPlan k.ctx n = some p) ∧ (p.state ≠ .cancelling) ∧ (s.arms.any (fun a => a.plan == n && (s.lock (a.word / 64)).isSome) = false) := by
  refine ⟨planned { tiles := [0] } (taken 0x33 [1]), 0, 0, command 0x33 [1] .taken, { tiles := [0] }, ?_⟩
  decide
theorem meets_PlanRowsTakeEffect_5 : ∃ (s : State) (n : Nat) (st : Start) (p : Plan), (s.starts[n]? = some st) ∧ (s.plan st.plan = some p) ∧ (p.active.map (fun a => a.number) = some st.number) ∧ ((s.ember st.tile).inService = true) := by
  refine ⟨{ planned { active := some { number := 1 } } up with starts := [{ plan := 1, number := 1 }] }, 0, { plan := 1, number := 1 }, { active := some { number := 1 } }, ?_⟩
  decide
theorem meets_PlanRowsTakeEffect_6 : ∃ (s : State) (n : Nat) (m : EndMsg) (p : Plan) (a : ActiveRun), (s.ends[n]? = some m) ∧ (s.plan m.plan = some p) ∧ (p.active = some a) ∧ (a.number = m.number) := by
  refine ⟨{ planned { active := some { number := 1 } } up with ends := [{ plan := 1, number := 1 }] }, 0, { plan := 1, number := 1 }, { active := some { number := 1 } }, { number := 1 }, ?_⟩
  decide
theorem meets_ScheduleRowsTakeEffect_1 : ∃ (s : State) (c t : Nat) (k : Cmd) (hostData : Option Bytes) (b : Bytes), (s.Taken c t 0x40 k) ∧ let n := 1 - s.sched.active; let old := s.sched.versions.getD n {}; (s.restedSince old.lastActive = true) ∧ (s.sched.pendingGates = false) ∧ let r := s.readIn k (k.par 16 8) (k.par 24 4) hostData; (r.2 = .ok b) ∧ ((readGates b).isSome = true) ∧ let g := (readGates b).getD {}; (r.1.gateChecks g = none) := by
  refine ⟨taken 0x40 gateCmd, 0, 0, command 0x40 gateCmd .taken, some gateImage, gateImage, ?_⟩
  have h := readIn_host (taken 0x40 gateCmd) (command 0x40 gateCmd .taken) ((command 0x40 gateCmd .taken).par 16 8) ((command 0x40 gateCmd .taken).par 24 4) gateImage
    (by decide) (by decide) (gateImage_length.trans (by decide))
  refine ⟨by decide, by decide, by decide, ?_⟩
  rw [h]
  exact ⟨rfl, gateImage_checks (taken 0x40 gateCmd) (by decide)⟩
theorem meets_ScheduleRowsTakeEffect_2 : ∃ (s : State) (c t : Nat) (k : Cmd) (hostImage hostTopology : Option Bytes) (img topo : Bytes) (r : Routes), (s.Taken c t 0x41 k) ∧ let n := 1 - s.routeActive; let old := s.routes.getD n {}; (s.restedSince old.lastActive = true) ∧ (s.sched.pendingRoutes = false) ∧ let p := s.readIn k (k.par 16 8) 263168 hostImage; (p.2 = .ok img) ∧ let q := p.1.readIn k (k.par 24 8) 128 hostTopology; (q.2 = .ok topo) ∧ (readRoutes img topo = some r) := by
  refine ⟨taken 0x41 routeCmd, 0, 0, command 0x41 routeCmd .taken, some (natLE 8 3 ++ zeros 263160), some (zeros 128), natLE 8 3 ++ zeros 263160, zeros 128, (routes_read 263160).choose, ?_⟩
  have h := readIn_host (taken 0x41 routeCmd) (command 0x41 routeCmd .taken) ((command 0x41 routeCmd .taken).par 16 8) 263168 (natLE 8 3 ++ zeros 263160)
    (by decide) (by decide) routeImage_length
  have h' := readIn_host (taken 0x41 routeCmd) (command 0x41 routeCmd .taken) ((command 0x41 routeCmd .taken).par 24 8) 128 (zeros 128)
    (by decide) (by decide) (by simp [zeros])
  refine ⟨by decide, by decide, by decide, ?_⟩
  rw [h]
  refine ⟨rfl, ?_⟩
  show Prod.snd (State.readIn (taken 0x41 routeCmd) _ _ _ _) = _ ∧ _
  rw [h']
  exact ⟨rfl, (routes_read 263160).choose_spec⟩
theorem meets_ScheduleRowsTakeEffect_3 : ∃ (s : State) (c t : Nat) (k : Cmd), (s.Taken c t 0x42 k) ∧ let wantR := bit (k.par 16 1) 0; let wantG := bit (k.par 16 1) 1; let at_ := k.par 24 8; let g := s.sched.versions.getD (1 - s.sched.active) {}; ((wantR = true ∨ wantG = true)) ∧ (s.sched.pendingT = none) ∧ (k.acceptedAt + 50000 ≤ at_) ∧ ((wantG = true → g.installed = true ∧ cycleStart (if s.sched.defaultLists then {} else s.gates) at_ = true ∧ cycleStart g at_ = true ∧ (s.net.state = 1 ∨ s.net.grandmaster = true))) ∧ ((wantR = true → (s.routes.getD (1 - s.routeActive) {}).installed = true ∧ s.topologyFault (1 - s.routeActive) = none)) := by
  refine ⟨{ taken 0x42 (zeros 0 ++ [1] ++ zeros 7 ++ natLE 8 60000) with routes := [{}, { installed := true }] }, 0, 0, command 0x42 (zeros 0 ++ [1] ++ zeros 7 ++ natLE 8 60000) .taken, ?_⟩
  decide
theorem meets_ScheduleRowsTakeEffect_4 : ∃ (s : State) (c t : Nat) (k : Cmd) (i : Nat), (s.Taken c t 0x43 k) ∧ let h := k.par 16 2; let p := k.par 18 1; let rate := k.par 20 4; let burst := k.par 24 4; let l := Tab.get [] s.sched.shapers p; (h < 4096) ∧ (s.ctxLive h = true) ∧ (p < 32) ∧ (rate ≠ 0) ∧ (rate ≤ 1600000) ∧ (256 ≤ burst) ∧ (burst ≤ 1048576) ∧ (k.par 28 1 < 64) ∧ (slotFor l (fun x => x.bound && x.ctx == h) (fun x => !x.bound) = some i) := by
  refine ⟨taken 0x43 (zeros 4 ++ natLE 4 1 ++ natLE 4 256), 0, 0, command 0x43 (zeros 4 ++ natLE 4 1 ++ natLE 4 256) .taken, 0, ?_⟩
  decide
theorem meets_ScheduleRowsTakeEffect_5 : ∃ (s : State) (c t : Nat) (k : Cmd) (i : Nat), (s.Taken c t 0x44 k) ∧ let h := k.par 16 2; let p := k.par 18 1; let cir := k.par 20 4; let pir := k.par 24 4; let l := Tab.get [] s.sched.policers p; (h < 4096) ∧ (s.ctxLive h = true) ∧ (p < 32) ∧ (cir ≠ 0) ∧ (cir ≤ pir) ∧ (pir ≤ 1600000) ∧ (256 ≤ k.par 28 4) ∧ (k.par 28 4 ≤ 1048576) ∧ (256 ≤ k.par 32 4) ∧ (k.par 32 4 ≤ 1048576) ∧ (k.par 36 1 < 64) ∧ let used := fun (x : Policer) => x.cir != 0 || x.pending.isSome; (slotFor l (fun x => used x && x.ctx == h) (fun x => !used x) = some i) := by
  refine ⟨taken 0x44 (zeros 4 ++ natLE 4 1 ++ natLE 4 1 ++ natLE 4 256 ++ natLE 4 256), 0, 0, command 0x44 (zeros 4 ++ natLE 4 1 ++ natLE 4 1 ++ natLE 4 256 ++ natLE 4 256) .taken, 0, ?_⟩
  decide
theorem meets_MaintenanceRowsTakeEffect_1 : ∃ (s : State) (c t : Nat) (k : Cmd), (s.Taken c t 0x50 k) ∧ (k.par 16 1 = 0) ∧ let n := k.par 18 2; (n < 256) ∧ ((s.ember n).inService = true) ∧ (s.emberNamed n = false) := by
  refine ⟨{ planned {} (taken 0x50 []) with plans := [] }, 0, 0, command 0x50 [] .taken, ?_⟩
  decide
theorem meets_MaintenanceRowsTakeEffect_2 : ∃ (s : State) (c t : Nat) (k : Cmd), (s.Taken c t 0x50 k) := by
  refine ⟨(taken 0x50 []), 0, 0, command 0x50 [] .taken, ?_⟩
  decide
theorem meets_MaintenanceRowsTakeEffect_3 : ∃ (s : State) (c t : Nat) (k : Cmd) (pass : Bool), (s.Running c t 0x50 k) ∧ let kind := k.par 16 1; let n := k.par 18 2; (s.testRun kind n = true) := by
  refine ⟨(running 0x50 [1]), 0, 0, command 0x50 [1] .running, true, ?_⟩
  decide
theorem meets_MaintenanceRowsTakeEffect_4 : ∃ (s : State) (c t : Nat) (k : Cmd), (s.Taken c t 0x51 k) ∧ let g := k.par 16 2; let tasks := k.par 18 1; (tasks ≠ 0) ∧ (g < 512) ∧ (((s.chan g).state = .inService ∨ (s.chan g).state = .migrating)) := by
  refine ⟨(taken 0x51 [0, 0, 1]), 0, 0, command 0x51 [0, 0, 1] .taken, ?_⟩
  decide
theorem meets_MaintenanceRowsTakeEffect_5 : ∃ (s : State) (c t : Nat) (k : Cmd), (s.Taken c t 0x52 k) ∧ (k.par 16 1 = 0) ∧ let n := k.par 18 2; (n < 256) ∧ (s.underTest 0 n = false) ∧ ((s.ember n).retired = false) := by
  refine ⟨(taken 0x52 []), 0, 0, command 0x52 [] .taken, ?_⟩
  decide
theorem meets_MaintenanceRowsTakeEffect_6 : ∃ (s : State) (c t : Nat) (k : Cmd), (s.Taken c t 0x52 k) ∧ (k.par 16 1 = 2) ∧ let n := k.par 18 2; (n < 32) ∧ (s.underTest 2 n = false) ∧ ((s.port n).retired = false) := by
  refine ⟨(taken 0x52 [2]), 0, 0, command 0x52 [2] .taken, ?_⟩
  decide
theorem meets_MaintenanceRowsTakeEffect_7 : ∃ (s : State) (c t : Nat) (k : Cmd), (s.Running c t 0x52 k) ∧ (k.par 16 1 = 1) ∧ let g := k.par 18 2; let x := s.chan g; (x.retiring = some (k.ctx, k.tag)) ∧ (x.retireCords = []) ∧ ((List.range 12).any (fun i => (s.cord (12 * g + i)).state == .zeroising) = false) := by
  refine ⟨{ running 0x52 [1] with chans := [(0, { retiring := some (0, 0) })] }, 0, 0, command 0x52 [1] .running, ?_⟩
  decide
theorem meets_MaintenanceRowsTakeEffect_8 : ∃ (s : State) (c t : Nat) (k : Cmd) (hostData : Option Bytes) (b : Bytes), (s.Taken c t 0x54 k) ∧ (s.diag.updating = none) ∧ (s.hearthLost 2 = false) ∧ (k.par 28 1 = 0) ∧ (k.par 24 4 ≤ 3670016) ∧ let r := s.readIn k (k.par 16 8) (k.par 24 4) hostData; (r.2 = .ok b) := by
  refine ⟨taken 0x54 (zeros 7 ++ [0x80, 1]), 0, 0, command 0x54 (zeros 7 ++ [0x80, 1]) .taken, some [7], [7], ?_⟩
  decide
theorem meets_MaintenanceRowsTakeEffect_9 : ∃ (s : State) (c t : Nat) (k : Cmd) (hostData : Option Bytes), (s.Taken c t 0x54 k) ∧ (s.diag.updating = none) ∧ (k.par 28 1 = 1) ∧ let n := max s.kept.svnFloor s.activeCu.svn; (n ≤ 64) := by
  refine ⟨(taken 0x54 (zeros 12 ++ [1])), 0, 0, command 0x54 (zeros 12 ++ [1]) .taken, none, ?_⟩
  decide
theorem meets_MaintenanceRowsTakeEffect_10 : ∃ (s : State) (c t : Nat) (k : Cmd) (b : Bytes), (s.Running c t 0x54 k) ∧ (s.hearthLost 2 = false) ∧ (s.diag.updating = some (k.ctx, k.tag, b)) := by
  refine ⟨{ running 0x54 [] with diag := { updating := some (0, 0, []) } }, 0, 0, command 0x54 [] .running, [], ?_⟩
  decide
theorem meets_StatusRowsTakeEffect_1 : ∃ (s : State) (c t : Nat) (k : Cmd), (s.Taken c t 0x55 k) ∧ let n := k.par 17 1; (k.par 16 1 = 0) ∧ (n < 2) := by
  refine ⟨(taken 0x55 []), 0, 0, command 0x55 [] .taken, ?_⟩
  decide
theorem meets_StatusRowsTakeEffect_2 : ∃ (s : State) (c t : Nat) (k : Cmd), (s.Taken c t 0x55 k) ∧ let n := k.par 17 1; (k.par 16 1 = 1) ∧ (n < 3) ∧ ((s.cu n).state = .serving) ∧ (s.triplexBusy = false) ∧ (s.othersServe n = true) := by
  refine ⟨(taken 0x55 [1]), 0, 0, command 0x55 [1] .taken, ?_⟩
  decide
theorem meets_StatusRowsTakeEffect_3 : ∃ (s : State) (c t : Nat) (k : Cmd), (s.Taken c t 0x55 k) ∧ let n := k.par 17 1; (k.par 16 1 = 4) ∧ (n < 3) ∧ ((s.cu n).state = .serving) := by
  refine ⟨(taken 0x55 [4]), 0, 0, command 0x55 [4] .taken, ?_⟩
  decide
theorem meets_StatusRowsTakeEffect_4 : ∃ (s : State) (n : Nat), (n < 3) ∧ ((s.cu n).state = .syncing) ∧ ((s.cu n).syncCmd = none) := by
  refine ⟨up.modCu 0 fun c => { c with state := .syncing }, 0, ?_⟩
  decide
theorem meets_StatusRowsTakeEffect_5 : ∃ (s : State) (c t : Nat) (k : Cmd) (l : List Nat), (s.Taken c t 0x60 k) ∧ let g := k.par 16 1; let i := k.par 18 2; ((telemPrivate g = true → k.ctx = 0)) ∧ (s.telemValues k.ctx g i = some l) ∧ let need := 16 + 8 * l.length; (k.par 20 8 % 8 = 0) ∧ (need ≤ k.par 28 4) ∧ let r := s.writeOut k (k.par 20 8) (natLE 1 g ++ zeros 1 ++ natLE 2 i ++ natLE 4 l.length ++ natLE 8 s.clk.nt ++ l.flatMap (natLE 8)) true; (r.2 = none) := by
  refine ⟨taken 0x60 ([1, 0, 0, 0] ++ zeros 7 ++ [0x80, 64]), 0, 0, command 0x60 ([1, 0, 0, 0] ++ zeros 7 ++ [0x80, 64]) .taken, [0, 0, 0, 0, 0, 0], ?_⟩
  decide
theorem meets_StatusRowsTakeEffect_6 : ∃ (s : State) (c t : Nat) (k : Cmd), (s.Taken c t 0x61 k) ∧ let seen := s.diag.log.filter fun e => decide (k.par 28 4 ≤ e.seq) && s.mayRead k.ctx e; let l := seen.take (k.par 24 4 / 32); let next := match seen[l.length]? with | some e => e.seq | none => max s.diag.nextSeq (k.par 28 4); let r := s.writeOut k (k.par 16 8) (l.flatMap fun e => e.bytes (s.addrFor k.ctx e) e.detail) true; (r.2 = none) := by
  refine ⟨taken 0x61 (zeros 7 ++ [0x80, 32]), 0, 0, command 0x61 (zeros 7 ++ [0x80, 32]) .taken, ?_⟩
  decide
theorem meets_StatusRowsTakeEffect_7 : ∃ (s : State) (rd : Reader), (s.mayWrite rd false = true) := by
  refine ⟨up, .host, ?_⟩
  decide
theorem meets_StatusRowsTakeEffect_8 : ∃ (s : State) (l : List Nat), (s.diag.telemGo = true) ∧ let u : State := { s with diag := { s.diag with telemGo := false, telemTime := s.clk.nt } }; (u.telemValues 0 s.diag.telemGroup s.diag.telemIndex = some l) := by
  refine ⟨{ up with diag := { telemGo := true, telemGroup := 1 } }, [0, 0, 0, 0, 0, 0], ?_⟩
  decide
theorem meets_StampRowsTakeEffect_1 : ∃ (s : State) (p n : Nat) (m : Req), ((Tab.get [] s.stampQ p)[n]? = some m) := by
  refine ⟨{ up with stampQ := [(0, [{}])] }, 0, 0, {}, ?_⟩
  decide
theorem meets_StampRowsTakeEffect_2 : ∃ (s : State) (p h n : Nat) (g : Grant) (r : Region), let mine := fun (m : Req) => m.holder == h && ((s.resolve m.pool).map (·.1)).getD 0 == n; ((Tab.get [] s.fillQ p).filter mine ≠ []) ∧ (s.grant h n = some g) ∧ (s.region n = some r) ∧ ((g.accepted = true ∨ g.tombstone = true)) := by
  refine ⟨{ pooled up with fillQ := [(0, [{}])] }, 0, 0, 1, { region := 1, rights := 31, expiry := 2 ^ 60 }, { granules := [[0]] }, ?_⟩
  decide
theorem meets_StampRowsTakeEffect_3 : ∃ (s : State) (p h n : Nat) (g : Grant), let mine := fun (m : Req) => m.holder == h && ((s.resolve m.pool).map (·.1)).getD 0 == n; ((s.grant h n = none ∨ (s.grant h n = some g ∧ g.accepted = false ∧ g.tombstone = false))) ∧ ((s.region n).isSome = true) := by
  refine ⟨{ up with fillQ := [(0, [{}])], regions := [(1, some { granules := [[0]] })], gmap := [(0, [0])] }, 0, 0, 1, {}, ?_⟩
  decide
theorem meets_StampRowsTakeEffect_4 : ∃ (s : State) (n : Nat) (x : Completion), (s.completions[n]? = some x) := by
  refine ⟨{ up with completions := [{}] }, 0, {}, ?_⟩
  decide
theorem meets_StampRowsTakeEffect_5 : ∃ (s : State) (n : Nat) (r : Region) (st : Step) (l : List Step), (s.region n = some r) ∧ (r.steps = st :: l) ∧ (st.started = false) ∧ (∀ c, st.destroyOf = some c → s.cmds.any (fun (k : Cmd) => k.ctx == c) = false) := by
  refine ⟨{ up with regions := [(1, some { steps := [{}] })] }, 1, { steps := [{}] }, {}, [], ?_⟩
  exact ⟨by decide, by decide, by decide, by simp⟩
theorem meets_StampRowsTakeEffect_6 : ∃ (s : State) (n : Nat) (r : Region) (st : Step) (l : List Step), (s.region n = some r) ∧ (r.steps = st :: l) ∧ (st.started = true) ∧ (s.phase2Done n st.holder = true) ∧ (st.destroyOf = none) := by
  refine ⟨{ running 0x14 [] with regions := [(1, some { steps := [{ started := true, waiters := [(0, 0)] }] })] }, 1, { steps := [{ started := true, waiters := [(0, 0)] }] }, { started := true, waiters := [(0, 0)] }, [], ?_⟩
  decide
theorem meets_StampRowsTakeEffect_7 : ∃ (s : State), (s.complexActs = true) ∧ (s.held = false) := by
  refine ⟨up, ?_⟩
  decide
theorem meets_CordMaintenanceRowsTakeEffect_2 : ∃ (s : State) (n : Nat), let x := s.cord n; (x.state = .zeroising) ∧ (x.zeroPending = true) ∧ (x.swept = true) := by
  refine ⟨{ up with cords := [(0, { state := .zeroising, zeroPending := true, swept := true })] }, 0, ?_⟩
  decide
theorem meets_CordMaintenanceRowsTakeEffect_3 : ∃ (s : State) (n d : Nat), let x := s.cord n; (x.state = .migrating) ∧ (x.copied < 65536) ∧ (x.dest = some d) := by
  refine ⟨{ up with cords := [(0, { state := .migrating, dest := some 1 })] }, 0, 1, ?_⟩
  decide
theorem meets_CordMaintenanceRowsTakeEffect_4 : ∃ (s : State) (n d : Nat) (r : Region), let x := s.cord n; (s.region x.region = some r) ∧ (x.dest = some d) ∧ (x.state = .migrating) ∧ (65536 ≤ x.copied) ∧ (r.state = .active) := by
  refine ⟨{ pooled up with cords := [(0, { state := .migrating, region := 1, dest := some 1, copied := 65536 })] }, 0, 1, { granules := [[0]] }, ?_⟩
  decide
theorem meets_HomeRequestsTakeEffect_1 : ∃ (s : State) (n : Nat) (m : Req) (u : State), (s.AtHome n .rdShared m u) := by
  refine ⟨withMesh (request .rdShared), 0, request .rdShared, withMesh (request .rdShared), ?_⟩
  exact ⟨by decide, by decide, by decide, by decide, by decide, by decide, by decide, rfl, by decide⟩
theorem meets_HomeRequestsTakeEffect_2 : ∃ (s : State) (n : Nat) (m : Req) (u : State), (s.AtHome n .rdOwn m u) := by
  refine ⟨withMesh (request .rdOwn), 0, request .rdOwn, withMesh (request .rdOwn), ?_⟩
  exact ⟨by decide, by decide, by decide, by decide, by decide, by decide, by decide, rfl, by decide⟩
theorem meets_HomeRequestsTakeEffect_3 : ∃ (s : State) (n : Nat) (m : Req) (u : State), (s.AtHome n .upgrade m u) := by
  refine ⟨withMesh (request .upgrade), 0, request .upgrade, withMesh (request .upgrade), ?_⟩
  exact ⟨by decide, by decide, by decide, by decide, by decide, by decide, by decide, rfl, by decide⟩
theorem meets_HomeRequestsTakeEffect_4 : ∃ (s : State) (n : Nat) (m : Req) (u : State), (s.AtHome n .rdCur m u) := by
  refine ⟨withMesh (request .rdCur), 0, request .rdCur, withMesh (request .rdCur), ?_⟩
  exact ⟨by decide, by decide, by decide, by decide, by decide, by decide, by decide, rfl, by decide⟩
theorem meets_HomeRequestsTakeEffect_5 : ∃ (s : State) (n : Nat) (m : Req) (u : State), (s.AtHome n .wrInv m u) := by
  refine ⟨withMesh (request .wrInv), 0, request .wrInv, withMesh (request .wrInv), ?_⟩
  exact ⟨by decide, by decide, by decide, by decide, by decide, by decide, by decide, rfl, by decide⟩
theorem meets_HomeRequestsTakeEffect_6 : ∃ (s : State) (n : Nat) (m : Req) (u : State), (s.AtHome n .wrPart m u) := by
  refine ⟨withMesh (request .wrPart), 0, request .wrPart, withMesh (request .wrPart), ?_⟩
  exact ⟨by decide, by decide, by decide, by decide, by decide, by decide, by decide, rfl, by decide⟩
theorem meets_HomeRequestsTakeEffect_7 : ∃ (s : State) (n : Nat) (m : Req) (u : State), (s.AtHome n .accLine m u) := by
  refine ⟨withMesh (request .accLine), 0, request .accLine, withMesh (request .accLine), ?_⟩
  exact ⟨by decide, by decide, by decide, by decide, by decide, by decide, by decide, rfl, by decide⟩
theorem meets_SyncRequestsTakeEffect_1 : ∃ (s : State) (n : Nat) (m : Req) (u : State), (s.AtHome n .writeFill m u) := by
  refine ⟨withMesh (request .writeFill), 0, request .writeFill, withMesh (request .writeFill), ?_⟩
  exact ⟨by decide, by decide, by decide, by decide, by decide, by decide, by decide, rfl, by decide⟩
theorem meets_SyncRequestsTakeEffect_2 : ∃ (s : State) (n : Nat) (m : Req) (u : State), (s.AtHome n .readDrain m u) := by
  refine ⟨withMesh (request .readDrain), 0, request .readDrain, withMesh (request .readDrain), ?_⟩
  exact ⟨by decide, by decide, by decide, by decide, by decide, by decide, by decide, rfl, by decide⟩
theorem meets_SyncRequestsTakeEffect_3 : ∃ (s : State) (n : Nat) (m : Req) (u : State), (s.AtHome n .readFull m u) := by
  refine ⟨withMesh (request .readFull), 0, request .readFull, withMesh (request .readFull), ?_⟩
  exact ⟨by decide, by decide, by decide, by decide, by decide, by decide, by decide, rfl, by decide⟩
theorem meets_SyncRequestsTakeEffect_4 : ∃ (s : State) (n : Nat) (m : Req) (u : State), (s.AtHome n .addSat m u) := by
  refine ⟨withMesh (request .addSat), 0, request .addSat, withMesh (request .addSat), ?_⟩
  exact ⟨by decide, by decide, by decide, by decide, by decide, by decide, by decide, rfl, by decide⟩
theorem meets_SyncRequestsTakeEffect_5 : ∃ (s : State) (n : Nat) (m : Req), (s.mesh[n]? = some m) ∧ (m.op = .fence) ∧ (s.cycleTurn m = true) := by
  refine ⟨withMesh (request .fence), 0, request .fence, ?_⟩
  decide
theorem meets_HomeAnswersTakeEffect_1 : ∃ (s : State) (n : Nat) (m : Req) (e : DirEnt) (u : State), (s.OwnerGivesUp n .wb m e u) := by
  refine ⟨ownedBy7 (answer .wb), 0, answer .wb, owner7, resent (ownedBy7 (answer .wb)), ?_⟩
  exact ⟨by decide, by decide, by decide, by decide, rfl, by decide, by decide, by decide, by decide⟩
theorem meets_HomeAnswersTakeEffect_2 : ∃ (s : State) (n : Nat) (m : Req) (e : DirEnt) (u : State), (s.OwnerGivesUp n .evict m e u) := by
  refine ⟨ownedBy7 (answer .evict), 0, answer .evict, owner7, ownedBy7 (answer .evict), ?_⟩
  exact ⟨by decide, by decide, by decide, by decide, rfl, by decide, by decide, by decide, by decide⟩
theorem meets_HomeAnswersTakeEffect_3 : ∃ (s : State) (n : Nat) (m : Req) (k : Lock) (p : Probe), (s.AnswersProbe n .rspData m k p) := by
  refine ⟨probed (answer .rspData), 0, answer .rspData, lock7, probe7, ?_⟩
  decide
theorem meets_HomeAnswersTakeEffect_4 : ∃ (s : State) (n : Nat) (m : Req) (k : Lock) (p : Probe), (s.AnswersProbe n .rspAck m k p) := by
  refine ⟨probed (answer .rspAck), 0, answer .rspAck, lock7, probe7, ?_⟩
  decide
theorem meets_HomeAnswersTakeEffect_5 : ∃ (s : State) (n : Nat) (m : Req) (k : Lock) (p : Probe), (s.AnswersProbe n .rspNone m k p) := by
  refine ⟨probed (answer .rspNone), 0, answer .rspNone, lock7, probe7, ?_⟩
  decide
theorem meets_HomeAnswersTakeEffect_6 : ∃ (s : State) (l : Nat), (s.cxl.linkUp = true) := by
  refine ⟨up, 0, ?_⟩
  decide
theorem meets_HomeAnswersTakeEffect_7 : ∃ (s : State) (l : Nat), (s.cxl.linkUp = true) := by
  refine ⟨up, 0, ?_⟩
  decide
theorem meets_HomeAnswersTakeEffect_8 : ∃ (s : State) (l : Nat) (d : Bytes), (s.cxl.linkUp = true) := by
  refine ⟨up, 0, [], ?_⟩
  decide
theorem meets_HomeAnswersTakeEffect_9 : ∃ (s : State) (l : Nat), (s.cxl.linkUp = true) := by
  refine ⟨up, 0, ?_⟩
  decide
theorem meets_HomeAnswersTakeEffect_10 : ∃ (s : State) (i n : Nat) (m : Req), let fits := fun (m : Req) => [MsgOp.rspData, .rspAck, .rspNone, .wb, .evict].contains m.op && homeTile (m.dpa / 64) == i && decide (s.answersHeld i (s.poolKey (m.dpa / 64)) < s.poolShare i (s.poolKey (m.dpa / 64)) 512); (s.mesh.findIdx? fits = some n) ∧ (s.mesh[n]? = some m) := by
  refine ⟨probed (answer .rspAck), 0, 0, answer .rspAck, ?_⟩
  decide
theorem meets_HomeTimersTakeEffect_1 : ∃ (s : State) (l : Nat) (e : DirEnt), (s.dirEnt l = some e) := by
  refine ⟨ownedBy7 {}, 0, owner7, ?_⟩
  decide
theorem meets_HomeTimersTakeEffect_2 : ∃ (s : State) (l : Nat) (k : Lock), (s.lock l = some k) ∧ (k.probes.any (fun p => !p.answered) = true) ∧ ((k.deadline ≤ s.clk.timer ∨ s.boot.episode = none)) := by
  refine ⟨probed {}, 0, lock7, ?_⟩
  decide
theorem meets_HomeTimersTakeEffect_3 : ∃ (s : State) (n : Nat) (w : SyncWait), (s.syncWaits[n]? = some w) ∧ ((w.deadline ≤ s.clk.timer ∨ s.boot.episode = none)) := by
  refine ⟨{ up with syncWaits := [{}] }, 0, {}, ?_⟩
  decide
theorem meets_HomeTimersTakeEffect_4 : ∃ (s : State) (l : Nat) (k : Lock) (q : Probe) (qs : List Probe), (s.lock l = some k) ∧ let still := k.probes.filter fun p => !p.answered && p.target != 0x7FFF && decide (p.resends < 3); (still = q :: qs) ∧ let due := (q :: qs).foldl (fun t p => min t (p.sentAt + 20000)) (q.sentAt + 20000); ((due ≤ s.clk.timer ∨ s.boot.episode = none)) := by
  refine ⟨probed {}, 0, lock7, probe7, [], ?_⟩
  decide
theorem meets_HomeTimersTakeEffect_5 : ∃ (s : State) (n : Nat) (e : ResendEnt), (s.resends[n]? = some e) ∧ (e.done.isSome = true) := by
  refine ⟨{ up with resends := [{ done := some {} }] }, 0, { done := some {} }, ?_⟩
  decide
theorem meets_TripleRowsTakeEffect_1 : ∃ (s : State) (n : Nat) (m : Req), (s.tripWrites[n]? = some m) := by
  refine ⟨{ up with tripWrites := [{ op := .wrInv }] }, 0, { op := .wrInv }, ?_⟩
  decide
theorem meets_TripleRowsTakeEffect_2 : ∃ (s : State) (n : Nat) (m : Req), (s.tripReads[n]? = some m) ∧ let l := m.dpa / 64; ((s.copies l).any (fun c => (s.chan (lineChan c.2)).banked) = false) := by
  refine ⟨tripled, 0, {}, ?_⟩
  decide
theorem meets_ChannelSchedulerRowsTakeEffect_1 : ∃ (s : State) (g : Nat) (q : MemReq), let u := s.modChan g fun c => c.restoke s.clk.elapsed; (u.banked g = false) ∧ (u.nextIssue g = some q) := by
  refine ⟨queued {}, 0, {}, ?_⟩
  decide
theorem meets_ChannelSchedulerRowsTakeEffect_2 : ∃ (s : State) (g n : Nat) (q : MemReq), (((s.chan g).waiting ++ (s.chan g).partials)[n]? = some q) ∧ (q.level < 3) := by
  refine ⟨queued {}, 0, 0, {}, ?_⟩
  decide
theorem meets_ChannelSchedulerRowsTakeEffect_3 : ∃ (s : State) (g : Nat) (noise : List (Nat × Byte)) (q : MemReq) (l : List MemReq), ((s.chan g).reads = q :: l) := by
  refine ⟨{ up with chans := [(0, { reads := [{}] })] }, 0, [], {}, [], ?_⟩
  decide
theorem meets_ChannelSchedulerRowsTakeEffect_4 : ∃ (s : State) (g : Nat) (q : MemReq) (l : List MemReq), ((s.chan g).filling = q :: l) := by
  refine ⟨{ up with chans := [(0, { filling := [{}] })] }, 0, {}, [], ?_⟩
  decide
theorem meets_ChannelSchedulerRowsTakeEffect_5 : ∃ (s : State) (g : Nat) (q : MemReq), let u := s.modChan g fun c => c.restoke s.clk.elapsed; (u.banked g = false) ∧ ((u.chan g).guard = false) ∧ (u.nextPartial g = some q) := by
  refine ⟨{ up with chans := [(0, { partials := [{}] })] }, 0, {}, ?_⟩
  decide
theorem meets_ChannelUpkeepRowsTakeEffect_1 : ∃ (s : State) (g l : Nat) (e : MergeEnt), ((s.chan g).merge.find? (fun x => x.line == l) = some e) ∧ (s.banked g = false) := by
  refine ⟨{ up with chans := [(0, { merge := [{}] })] }, 0, 0, {}, ?_⟩
  decide
theorem meets_ChannelUpkeepRowsTakeEffect_2 : ∃ (s : State) (g : Nat) (e : MergeEnt) (l : List MergeEnt), ((s.chan g).rmw = e :: l) := by
  refine ⟨{ up with chans := [(0, { rmw := [{}] })] }, 0, {}, [], ?_⟩
  decide
theorem meets_ChannelUpkeepRowsTakeEffect_3 : ∃ (s : State) (g i : Nat) (a b : List (Nat × Byte)), let c := s.chan g; (c.bmCache.any (fun x => x.idx == i) = false) ∧ (c.poisoned.contains i = false) ∧ (c.state ≠ .fenced) ∧ (c.state ≠ .retired) ∧ (c.banked = false) := by
  refine ⟨up, 0, 0, [], [], ?_⟩
  decide
theorem meets_ChannelUpkeepRowsTakeEffect_4 : ∃ (s : State) (g : Nat), (s.guardedEdge (chanTile g) resChannel = true) := by
  refine ⟨gated, 0, ?_⟩
  decide
theorem meets_ChannelUpkeepRowsTakeEffect_5 : ∃ (s : State) (g : Nat), ((s.chan g).refreshed = true) := by
  refine ⟨{ up with chans := [(0, { trained := true })] }, 0, ?_⟩
  decide
theorem meets_ChannelUpkeepRowsTakeEffect_6 : ∃ (s : State) (g : Nat), ((s.chan g).trained = true) ∧ ((s.chan g).zqDue = false) := by
  refine ⟨{ up with chans := [(0, { trained := true })] }, 0, ?_⟩
  decide
theorem meets_ChannelUpkeepRowsTakeEffect_7 : ∃ (s : State) (g : Nat), ((s.chan g).trained = true) ∧ ((s.chan g).rtDue = false) := by
  refine ⟨{ up with chans := [(0, { trained := true })] }, 0, ?_⟩
  decide
theorem meets_ChannelUpkeepRowsTakeEffect_8 : ∃ (s : State) (k : Nat), ((stackChans k).findSome? (fun g => (s.chan g).changing) = none) ∧ (s.changeDue k = true) ∧ (s.changeStarts k = true) := by
  refine ⟨maintaining, 0, ?_⟩
  decide +kernel
theorem meets_ChannelUpkeepRowsTakeEffect_9 : ∃ (s : State) (k t0 : Nat), ((stackChans k).findSome? (fun g => (s.chan g).changing) = some t0) := by
  refine ⟨{ up with chans := [(0, { changing := some 0 })] }, 0, 0, ?_⟩
  decide
theorem meets_ChannelUpkeepRowsTakeEffect_10 : ∃ (s : State) (k : Nat), ((stackChans k).findSome? (fun g => (s.chan g).changing) = none) ∧ (s.changeDue k = false) := by
  refine ⟨up, 0, ?_⟩
  decide
theorem meets_ChannelUpkeepRowsTakeEffect_11 : ∃ (s : State) (g : Nat), ((s.chan g).state ≠ .retired) ∧ ((s.chan g).state ≠ .fenced) := by
  refine ⟨up, 0, ?_⟩
  decide
theorem meets_EmberEventRowsTakeEffect_1 : ∃ (s : State) (t : Nat) (parity : Bool) (r : Run), (t < 256) ∧ let u := if parity && ((s.ember t).run.map Run.live).getD false then s.parityError t else s; (((u.ember t).run.toList ++ (u.ember t).queue).find? (fun r => ((u.ember t).ending r).isSome) = some r) := by
  refine ⟨atDesc { run1 with err := some {} } [] up, 0, false, { run1 with err := some {} }, ?_⟩
  decide
theorem meets_EmberEventRowsTakeEffect_2 : ∃ (s : State) (t : Nat) (r : Run) (d : Bytes), (s.AtDesc t 0x1F r d) := by
  refine ⟨atDesc run1 [0x1F] up, 0, run1, padTo 64 [0x1F], ?_⟩
  decide
theorem meets_EmberEventRowsTakeEffect_3 : ∃ (s : State) (t : Nat), (t < 256) ∧ ((s.ember t).run.isSome = true) ∧ (s.waitingRuns t ≠ []) := by
  refine ⟨{ up with embers := [(0, { run := some {}, queue := [{}] })] }, 0, ?_⟩
  decide
theorem meets_EmberEventRowsTakeEffect_4 : ∃ (s : State) (t : Nat), (t < 256) ∧ (s.guardedEdge t resEmber = true) := by
  refine ⟨gated, 0, ?_⟩
  decide
theorem meets_EmberEventRowsTakeEffect_5 : ∃ (s : State) (t : Nat), (t < 256) ∧ ((s.ember t).inService = true) := by
  refine ⟨planned {} up, 0, ?_⟩
  decide
theorem meets_EmberSyncRowsTakeEffect_1 : ∃ (s : State) (t : Nat) (r : Run) (d : Bytes), (s.AtDesc t 0x10 r d) := by
  refine ⟨syncAt [0x10], 0, run1, padTo 64 [0x10], ?_⟩
  decide +kernel
theorem meets_EmberSyncRowsTakeEffect_2 : ∃ (s : State) (t : Nat) (r : Run) (n t0 : Nat), ((s.ember t).run = some r) ∧ (dKind (s.descOf r) = 0x10) ∧ (waitLimit (s.descOf r) = some n) ∧ (r.waitSince = some t0) ∧ (r.live = true) ∧ (r.fault = none) ∧ ((t0 + n ≤ s.clk.timer ∨ s.boot.episode = none)) := by
  refine ⟨atDesc { run1 with waitSince := some 0 } (0x10 :: zeros 47 ++ [1]) up, 0, { run1 with waitSince := some 0 }, 1000, 0, ?_⟩
  decide
theorem meets_EmberSyncRowsTakeEffect_3 : ∃ (s : State) (t : Nat) (r : Run) (d : Bytes), (s.AtDesc t 0x11 r d) := by
  refine ⟨syncAt [0x11], 0, run1, padTo 64 [0x11], ?_⟩
  decide +kernel
theorem meets_EmberSyncRowsTakeEffect_4 : ∃ (s : State) (t : Nat) (r : Run) (d : Bytes), (s.AtDesc t 0x12 r d) := by
  refine ⟨atDesc run1 [0x12] up, 0, run1, padTo 64 [0x12], ?_⟩
  decide
theorem meets_EmberSyncRowsTakeEffect_5 : ∃ (s : State) (n : Nat) (p : Packet) (q : OpenReq), (s.inbox[n]? = some p) ∧ (s.openReqs.find? (fun q => q.pkt.txn == p.txn && (q.pkt.dst == p.src || p.src == s.routing.localIdx)) = some q) ∧ ((q.tile.isSome = true ∨ p.opcode ≠ msgCode .err)) := by
  refine ⟨{ up with inbox := [{}], openReqs := [{ tile := some 0 }] }, 0, {}, { tile := some 0 }, ?_⟩
  decide
theorem meets_OperationRowsTakeEffect_1 : ∃ (s : State) (t : Nat) (r : Run) (d : Bytes), (s.AtDesc t 0x01 r d) := by
  refine ⟨atOp gemv1, 0, run1, gemv1, ?_⟩
  decide +kernel
theorem meets_OperationRowsTakeEffect_2 : ∃ (s : State) (t : Nat) (r : Run) (d : Bytes), (s.AtDesc t 0x02 r d) := by
  refine ⟨atOp attn1, 0, run1, attn1, ?_⟩
  decide +kernel
theorem meets_OperationRowsTakeEffect_3 : ∃ (s : State) (t : Nat) (r : Run) (d : Bytes), (s.AtDesc t 0x03 r d) := by
  refine ⟨{ atOp merge1 with mem := [(12, 1)], valid := [(0, true)] }, 0, run1, merge1, ?_⟩
  decide +kernel
theorem meets_OperationRowsTakeEffect_4 : ∃ (s : State) (t : Nat) (r : Run) (d : Bytes), (s.AtDesc t 0x04 r d) := by
  refine ⟨atOp reduce1, 0, run1, reduce1, ?_⟩
  decide +kernel
theorem meets_OperationRowsTakeEffect_5 : ∃ (s : State) (t : Nat) (r : Run) (d : Bytes), (s.AtDesc t 0x05 r d) := by
  refine ⟨atOp gather1, 0, run1, gather1, ?_⟩
  decide +kernel
theorem meets_OperationRowsTakeEffect_6 : ∃ (s : State) (t : Nat) (r : Run) (d : Bytes), (s.AtDesc t 0x06 r d) := by
  refine ⟨atOp scatter1, 0, run1, scatter1, ?_⟩
  decide +kernel
theorem meets_OperationRowsTakeEffect_7 : ∃ (s : State) (t : Nat) (r : Run) (d : Bytes), (s.AtDesc t 0x07 r d) := by
  refine ⟨atOp convert1, 0, run1, convert1, ?_⟩
  decide +kernel
theorem meets_OperationRowsTakeEffect_8 : ∃ (s : State) (t : Nat) (r : Run) (d : Bytes), (s.AtDesc t 0x08 r d) := by
  refine ⟨atOp topk1, 0, run1, topk1, ?_⟩
  decide +kernel
theorem meets_LinkStatesTakeEffect_1 : ∃ (s : State) (p : Nat), (p < 32) ∧ ((s.port p).state = .down) ∧ (s.portUsable p = true) := by
  refine ⟨{ up with routes := [{}, { installed := true, topology := [(0, 32768)] }] }, 0, ?_⟩
  decide
theorem meets_LinkStatesTakeEffect_2 : ∃ (s : State) (p : Nat) (lanes : List Nat), (p < 32) ∧ ((s.port p).state = .detect) ∧ (lanes ≠ []) ∧ (s.clk.elapsed ≤ (s.port p).enteredAt + 1000000) := by
  refine ⟨{ up with ports := [(0, { state := .detect })] }, 0, [0], ?_⟩
  decide
theorem meets_LinkStatesTakeEffect_3 : ∃ (s : State) (p : Nat), (p < 32) ∧ ((s.port p).state = .detect) := by
  refine ⟨{ up with ports := [(0, { state := .detect })] }, 0, ?_⟩
  decide
theorem meets_LinkStatesTakeEffect_4 : ∃ (s : State) (p : Nat) (purpose : Nat) (partner : TrainInfo), (p < 32) ∧ ((s.port p).state = .train) := by
  refine ⟨{ up with ports := [(0, { state := .train })] }, 0, 0, {}, ?_⟩
  decide
theorem meets_LinkStatesTakeEffect_5 : ∃ (s : State) (p : Nat) (partner : TrainInfo), (p < 32) ∧ ((s.port p).state.takes = true) := by
  refine ⟨{ up with ports := [(0, { state := .active })] }, 0, {}, ?_⟩
  decide
theorem meets_LinkStatesTakeEffect_6 : ∃ (s : State) (p : Nat) (partner : TrainInfo), (p < 32) ∧ ((s.port p).state = .active) := by
  refine ⟨{ up with ports := [(0, { state := .active })] }, 0, {}, ?_⟩
  decide
theorem meets_LinkStatesTakeEffect_7 : ∃ (s : State) (p : Nat) (received : List Nat) (x : TrainInfo), (p < 32) ∧ ((s.port p).state = .train) := by
  refine ⟨{ up with ports := [(0, { state := .train })] }, 0, [], {}, ?_⟩
  decide
theorem meets_LinkStatesTakeEffect_8 : ∃ (s : State) (p : Nat) (received : List Nat), (p < 32) ∧ ((s.port p).state = .train) := by
  refine ⟨{ up with ports := [(0, { state := .train })] }, 0, [], ?_⟩
  decide
theorem meets_LinkStatesTakeEffect_9 : ∃ (s : State) (p : Nat) (lanes : List LaneResult), (p < 32) ∧ ((s.port p).state = .check) ∧ ((s.port p).mgmt = false) := by
  refine ⟨{ up with ports := [(0, { state := .check })] }, 0, [], ?_⟩
  decide
theorem meets_LinkStatesTakeEffect_10 : ∃ (s : State) (p : Nat) (lane corrected : Nat), (p < 32) ∧ ((s.port p).state = .active) ∧ ((s.port p).laneMap.contains lane = true) ∧ ((s.port p).retrainThresh ≠ 0) ∧ ((s.port p).retrainThresh < corrected) := by
  refine ⟨{ up with ports := [(0, { state := .active, laneMap := [0], retrainThresh := 1 })] }, 0, 0, 2, ?_⟩
  decide
theorem meets_LinkStatesTakeEffect_11 : ∃ (s : State) (p : Nat), (p < 32) ∧ ((s.port p).state = .retrain) ∧ (s.clk.elapsed ≤ (s.port p).enteredAt + 1000000) := by
  refine ⟨{ up with ports := [(0, { state := .retrain })] }, 0, ?_⟩
  decide
theorem meets_LinkStatesTakeEffect_12 : ∃ (s : State) (p : Nat), (p < 32) ∧ ((s.port p).state = .retrain) := by
  refine ⟨{ up with ports := [(0, { state := .retrain })] }, 0, ?_⟩
  decide
theorem meets_LinkStatesTakeEffect_13 : ∃ (s : State) (p : Nat), (p < 32) ∧ ((s.port p).state.takes = true) := by
  refine ⟨{ up with ports := [(0, { state := .active })] }, 0, ?_⟩
  decide
theorem meets_CellRowsTakeEffect_1 : ∃ (s : State) (p : Nat) (cell : Cell), (p < 32) ∧ (((s.port p).state = .active ∨ (s.port p).state = .hold)) := by
  refine ⟨{ up with ports := [(0, { state := .active })] }, 0, {}, ?_⟩
  decide
theorem meets_CellRowsTakeEffect_2 : ∃ (s : State) (p : Nat) (raw : Bytes), (p < 32) ∧ (((s.port p).state.takes = true ∨ (s.port p).state = .check)) ∧ (linkCrcHolds raw = false) := by
  refine ⟨{ up with ports := [(0, { state := .active })] }, 0, natLE 8 1, ?_⟩
  decide +kernel
theorem meets_CellRowsTakeEffect_3 : ∃ (s : State) (p : Nat) (cum bitmap : Nat), (p < 32) ∧ (((s.port p).state = .active ∨ (s.port p).state = .hold)) := by
  refine ⟨{ up with ports := [(0, { state := .active })] }, 0, 0, 0, ?_⟩
  decide
theorem meets_CellRowsTakeEffect_4 : ∃ (s : State) (p : Nat), (p < 32) ∧ ((s.port p).ackDue = true) ∧ (((s.port p).state = .active ∨ (s.port p).state = .hold)) := by
  refine ⟨{ up with ports := [(0, { state := .active, ackDue := true })] }, 0, ?_⟩
  decide
theorem meets_CellRowsTakeEffect_5 : ∃ (s : State) (p : Nat) (seq : Nat) (x : SentCell), (p < 32) ∧ (((s.port p).state = .active ∨ ((s.port p).state = .hold ∧ x.cell.pkt.opcode = msgCode .pending))) ∧ ((s.port p).replay.find? (fun y => y.cell.seq == seq) = some x) ∧ ((x.sentAt + 2000 ≤ s.clk.timer ∨ s.boot.episode = none)) := by
  refine ⟨{ up with ports := [(0, { state := .active, replay := [{ cell := {}, sentAt := 0 }] })] }, 0, 0, { cell := {}, sentAt := 0 }, ?_⟩
  decide
theorem meets_CellRowsTakeEffect_6 : ∃ (s : State) (p : Nat) (vc units : Nat), (p < 32) ∧ (((s.port p).state = .active ∨ (s.port p).state = .hold ∨ (s.port p).state = .check)) := by
  refine ⟨{ up with ports := [(0, { state := .check })] }, 0, 0, 1, ?_⟩
  decide
theorem meets_CellRowsTakeEffect_7 : ∃ (s : State) (p : Nat) (cause : Nat), (p < 32) ∧ ((s.port p).state.takes = true) ∧ ((cause = 1 ∨ cause = 2)) := by
  refine ⟨{ up with ports := [(0, { state := .active })] }, 0, 1, ?_⟩
  decide
theorem meets_CellRowsTakeEffect_8 : ∃ (s : State) (p : Nat), (p < 32) ∧ ((s.port p).state = .active) := by
  refine ⟨{ up with ports := [(0, { state := .active })] }, 0, ?_⟩
  decide
theorem meets_CellRowsTakeEffect_9 : ∃ (s : State) (p : Nat), (p < 32) ∧ ((s.port p).state = .hold) := by
  refine ⟨{ up with ports := [(0, { state := .hold })] }, 0, ?_⟩
  decide
theorem meets_CellRowsTakeEffect_10 : ∃ (s : State) (p : Nat), (p < 32) ∧ ((s.port p).state.takes = true) := by
  refine ⟨{ up with ports := [(0, { state := .active })] }, 0, ?_⟩
  decide
theorem meets_PacketRowsTakeEffect_1 : ∃ (s : State) (p : Nat) (k : Packet) (rest : List Packet), (p < 32) ∧ ((s.port p).rxQ = k :: rest) ∧ let u := s.modPort p fun q => { q with rxQ := rest }; (u.way (b2n k.routeEpoch) k.dst k.ctx = .here) := by
  refine ⟨{ up with ports := [(0, { rxQ := [{}] })], routes := [{ installed := true, entries := [(0, 3)] }] }, 0, {}, [], ?_⟩
  decide
theorem meets_PacketRowsTakeEffect_2 : ∃ (s : State) (p : Nat) (k : Packet) (rest : List Packet) (q : Nat), (p < 32) ∧ ((s.port p).rxQ = k :: rest) ∧ let u := s.modPort p fun q => { q with rxQ := rest }; (u.way (b2n k.routeEpoch) k.dst k.ctx = .out q) := by
  refine ⟨{ up with ports := [(0, { rxQ := [{}] }), (1, { state := .active })], routes := [{ installed := true, entries := [(0, 0x111)] }] }, 0, {}, [], 1, ?_⟩
  decide
theorem meets_PacketRowsTakeEffect_3 : ∃ (s : State) (p : Nat) (k : Packet) (rest : List Packet), (p < 32) ∧ ((s.port p).rxQ = k :: rest) ∧ let u := s.modPort p fun q => { q with rxQ := rest }; ((u.way (b2n k.routeEpoch) k.dst k.ctx = .noRoute ∨ ∃ q, u.way (b2n k.routeEpoch) k.dst k.ctx = .down q)) := by
  refine ⟨{ up with ports := [(0, { rxQ := [{}] })] }, 0, {}, [], ?_⟩
  exact ⟨by decide, by decide, Or.inl (by decide)⟩
theorem meets_PacketRowsTakeEffect_4 : ∃ (s : State) (p : Nat) (k : Packet) (rest : List Packet), (p < 32) ∧ ((s.port p).deliverQ = k :: rest) := by
  refine ⟨{ up with ports := [(0, { deliverQ := [packet0] })] }, 0, packet0, [], ?_⟩
  decide +kernel
theorem meets_PacketRowsTakeEffect_5 : ∃ (s : State) (n : Nat) (k : Packet), (s.inbox[n]? = some k) ∧ (k.opcode = msgCode .pending) := by
  refine ⟨{ up with inbox := [{ opcode := msgCode .pending }] }, 0, { opcode := msgCode .pending }, ?_⟩
  decide
theorem meets_PacketRowsTakeEffect_6 : ∃ (s : State) (n : Nat) (m : Req), (s.openStamps[n]? = some m) ∧ (m.fromFabric = true) := by
  refine ⟨{ up with openStamps := [{ src := some 1 }] }, 0, { src := some 1 }, ?_⟩
  decide
theorem meets_PacketRowsTakeEffect_7 : ∃ (s : State) (n : Nat) (q : OpenReq), (s.openReqs[n]? = some q) ∧ (s.answeredReq q = false) ∧ ((q.lastHeard + 20000 ≤ s.clk.timer ∨ s.boot.episode = none)) := by
  refine ⟨{ up with openReqs := [{}] }, 0, {}, ?_⟩
  decide
theorem meets_PacketRowsTakeEffect_8 : ∃ (s : State) (tile output ctx : Nat) (bad : Bool), (tile < 256) ∧ (hasOutput tile output = true) ∧ (s.serves tile (2 + output) ctx = true) := by
  refine ⟨up, 0, 1, 0, true, ?_⟩
  decide
theorem meets_PortRegisterRowsTakeEffect_1 : ∃ (s : State) (rd : Reader) (p : Nat), (p < 32) ∧ (s.mayWrite rd false = true) := by
  refine ⟨up, .host, 0, ?_⟩
  decide
theorem meets_PortRegisterRowsTakeEffect_2 : ∃ (s : State) (rd : Reader) (p : Nat), (p < 32) ∧ (s.mayWrite rd false = true) := by
  refine ⟨up, .host, 0, ?_⟩
  decide
theorem meets_PortRegisterRowsTakeEffect_3 : ∃ (s : State) (rd : Reader) (p : Nat) (on : Bool), (p < 32) ∧ (s.mayWrite rd false = true) := by
  refine ⟨up, .host, 0, true, ?_⟩
  decide
theorem meets_PortRegisterRowsTakeEffect_4 : ∃ (s : State) (rd : Reader) (p : Nat) (v : Reg), (p < 32) ∧ (s.mayWrite rd false = true) := by
  refine ⟨up, .host, 0, 1, ?_⟩
  decide
theorem meets_PortRegisterRowsTakeEffect_5 : ∃ (s : State) (rd : Reader) (g : Nat) (v : Reg), (g < 512) ∧ (s.mayWrite rd false = true) ∧ (s.hearthLost (chanHearth g) = false) := by
  refine ⟨up, .host, 0, 1, ?_⟩
  decide
theorem meets_PortRegisterRowsTakeEffect_6 : ∃ (s : State) (rd : Reader) (tile : Nat) (v : Reg), (tile < 256) ∧ (s.mayWrite rd false = true) ∧ (s.hearthLost (tileHearth tile) = false) := by
  refine ⟨up, .host, 0, 1, ?_⟩
  decide
theorem meets_PortRegisterRowsTakeEffect_7 : ∃ (s : State) (rd : Reader) (h : Nat) (v : Reg), (h < 4) ∧ (s.mayWrite rd false = true) ∧ (s.hearthLost h = false) := by
  refine ⟨up, .host, 0, 1, ?_⟩
  decide
theorem meets_TimeRowsTakeEffect_1 : ∃ (s : State) (p : Nat), (p < 32) ∧ ((s.port p).state = .active) := by
  refine ⟨{ up with ports := [(0, { state := .active })] }, 0, ?_⟩
  decide
theorem meets_TimeRowsTakeEffect_2 : ∃ (s : State) (p : Nat) (body : TimeBody), (p < 32) ∧ ((s.port p).state = .active) := by
  refine ⟨{ up with ports := [(0, { state := .active })] }, 0, {}, ?_⟩
  decide
theorem meets_TimeRowsTakeEffect_3 : ∃ (s : State), (s.timeImage.installed = true) ∧ (s.net.grandmaster = false) ∧ (s.net.state = 1) := by
  refine ⟨{ up with net := { up.net with state := 1, grandmaster := false }, sched := { up.sched with defaultLists := false, active := 0, versions := [{ installed := true, backup := 255 }, {}] } }, ?_⟩
  decide
theorem meets_TimeRowsTakeEffect_4 : ∃ (s : State), (s.net.state = 2) := by
  refine ⟨{ up with net := { up.net with state := 2 } }, ?_⟩
  decide
theorem meets_GateRowsTakeEffect_1 : ∃ (s : State) (list : Nat), (list < 289) ∧ (s.held = false) ∧ (s.switchesAtEdge list = false) := by
  refine ⟨up, 0, ?_⟩
  decide
theorem meets_GateRowsTakeEffect_2 : ∃ (s : State) (p : Nat), (p < 32) ∧ (s.guardedEdge (256 + p) 0 = true) ∧ (s.held = false) := by
  refine ⟨gated, 0, ?_⟩
  decide
theorem meets_GateRowsTakeEffect_3 : ∃ (s : State) (list : Nat), (list < 289) ∧ (s.throttleLevel ≠ 0) ∧ (s.held = false) := by
  refine ⟨{ up with sched := { up.sched with level := 1 } }, 0, ?_⟩
  decide
theorem meets_GateRowsTakeEffect_4 : ∃ (s : State) (t : Nat), (s.sched.pendingT = some t) ∧ (s.held = false) := by
  refine ⟨{ up with sched := { up.sched with pendingT := some 0, pendingRoutes := true } }, 0, ?_⟩
  decide
theorem meets_ControlUnitRowsTakeEffect_1 : ∃ (s : State) (u : Nat), (s.triplex.holder = some u) ∧ ((s.cu u).state = .serving) ∧ (s.triplex.stopped = false) ∧ (s.boot.inReset = false) := by
  refine ⟨up, 0, ?_⟩
  decide
theorem meets_ControlUnitRowsTakeEffect_2 : ∃ (s : State) (i : Nat), (s.triplex.holder.isSome = true) ∧ (s.triplex.stopped = false) ∧ (s.boot.inReset = false) ∧ (s.rankAfter.findIdx? (fun u => (s.cu u).state == .serving) = some i) := by
  refine ⟨up, 0, ?_⟩
  decide
theorem meets_ControlUnitRowsTakeEffect_3 : ∃ (s : State) (unit : Nat) (n : Nat × Nat), (s.triplex.notices.find? (fun x => x.1 == unit) = some n) := by
  refine ⟨{ up with triplex := { up.triplex with notices := [(1, 5)] } }, 1, (1, 5), ?_⟩
  decide
theorem meets_ControlUnitRowsTakeEffect_4 : ∃ (s : State) (a b d : Nat), (s.lockstep = true) ∧ (s.triplex.stopped = false) ∧ (s.boot.inReset = false) := by
  refine ⟨up, 1, 1, 2, ?_⟩
  decide
theorem meets_ControlUnitRowsTakeEffect_5 : ∃ (s : State), (s.lockstep = false) ∧ (s.triplex.stopped = false) ∧ (s.boot.inReset = false) := by
  refine ⟨{ up with triplex := { up.triplex with hotRequested := true } }, ?_⟩
  decide
theorem meets_ControlUnitRowsTakeEffect_6 : ∃ (s : State) (unit : Nat), (unit < 3) ∧ (((s.cu unit).state = .serving ∨ (s.cu unit).state = .syncing)) ∧ (s.boot.inReset = false) := by
  refine ⟨up, 0, ?_⟩
  decide
theorem meets_DebugRowsTakeEffect_1 : ∃ (s : State), (s.jtagReached = true) ∧ (s.engineLost = false) := by
  refine ⟨up, ?_⟩
  decide
theorem meets_DebugRowsTakeEffect_2 : ∃ (s : State) (level : Nat) (key sig : Bytes), (s.jtagReached = true) ∧ (level ≠ 0) := by
  refine ⟨up, 1, [], [], ?_⟩
  decide
theorem meets_DebugRowsTakeEffect_4 : ∃ (s : State), (s.boot.inReset = false) ∧ (s.cxl.linkUp = true) ∧ (s.hearthLost 0 = false) := by
  refine ⟨up, ?_⟩
  decide
theorem meets_DebugRowsTakeEffect_5 : ∃ (s : State), (s.boot.inReset = false) ∧ (s.cxl.linkUp = true) ∧ (s.hearthLost 0 = false) := by
  refine ⟨up, ?_⟩
  decide
theorem meets_ResetRowsTakeEffect_4 : ∃ (s : State) (rd : Reader) (v : Reg), (s.mayWrite rd false = true) ∧ (bit v.toNat 0 = true) ∧ (bits v.toNat 8 8 = 0xD1) := by
  refine ⟨up, .host, 0xD101, ?_⟩
  decide
theorem meets_ResetRowsTakeEffect_5 : ∃ (s : State), (s.boot.inReset = true) := by
  refine ⟨State.reset, ?_⟩
  decide
theorem meets_StartUpRowsTakeEffect_1 : ∃ (s : State) (unit : Nat), (unit < 3) ∧ (s.boot.inReset = false) ∧ ((s.boot.step = 1 ∨ s.boot.step = 2)) ∧ ((s.cu unit).verified = false) ∧ (s.held = false) ∧ (s.boot.halted = false) := by
  refine ⟨{ State.reset with boot := { State.reset.boot with inReset := false, step := 1 } }, 0, ?_⟩
  decide
theorem meets_StartUpRowsTakeEffect_2 : ∃ (s : State) (w : Nat), (s.boot.inReset = false) ∧ (s.boot.step = 4) ∧ (s.boot.waves = w) ∧ (w < 8) ∧ (s.held = false) := by
  refine ⟨{ State.reset with boot := { State.reset.boot with inReset := false, step := 4 } }, 0, ?_⟩
  decide
theorem meets_StartUpRowsTakeEffect_3 : ∃ (s : State) (tile : Nat), (tile < 256) ∧ (s.boot.inReset = false) ∧ (s.boot.step = 4) ∧ (s.boot.waves = tile % 64 / 8 + 1) ∧ (s.hearthLost (tileHearth tile) = false) ∧ (s.held = false) ∧ (((s.chan (2 * tile)).state ≠ .fenced ∨ (s.ember tile).state ≠ .fenced)) := by
  refine ⟨{ State.reset with boot := { State.reset.boot with inReset := false, step := 4, waves := 1 } }, 0, ?_⟩
  decide
theorem meets_StartUpRowsTakeEffect_4 : ∃ (s : State) (first second : List Nat), (s.boot.inReset = false) ∧ (s.boot.step = 4) ∧ (s.boot.waves = 8) ∧ (s.held = false) := by
  refine ⟨{ State.reset with boot := { State.reset.boot with inReset := false, step := 4, waves := 8 } }, [], [], ?_⟩
  decide
theorem meets_StartUpRowsTakeEffect_5 : ∃ (s : State) (stack : Nat) (failed : List Nat), (s.boot.inReset = false) ∧ (s.boot.step = 6) ∧ (s.nextStack = some stack) ∧ (s.held = false) := by
  refine ⟨{ State.reset with boot := { State.reset.boot with inReset := false, step := 6 } }, 0, [], ?_⟩
  decide
theorem meets_StartUpRowsTakeEffect_6 : ∃ (s : State), (s.boot.inReset = false) ∧ (s.boot.step = 7) ∧ (s.held = false) := by
  refine ⟨{ State.reset with boot := { State.reset.boot with inReset := false, step := 7 } }, ?_⟩
  decide
theorem meets_HearthRowsTakeEffect_1 : ∃ (s : State) (rd : Reader) (v : Reg), (s.mayWrite rd false = true) := by
  refine ⟨up, .host, 1, ?_⟩
  decide
theorem meets_HearthRowsTakeEffect_2 : ∃ (s : State) (r : PartialReset), (s.boot.hreset = some r) ∧ (s.held = false) ∧ (s.hearthQuiet r.hearth = true) := by
  refine ⟨{ up with boot := { up.boot with hreset := some {} } }, {}, ?_⟩
  decide
theorem meets_HearthRowsTakeEffect_3 : ∃ (s : State) (v : Reg), (s.boot.inReset = false) ∧ (s.cxl.linkUp = true) ∧ (s.hearthLost 0 = false) ∧ (bits v.toNat 8 8 = 0xE7) ∧ (bits v.toNat 0 2 ≠ 0) ∧ (s.kept.envSealed = false) ∧ (s.burning = none) ∧ (s.kept.envBurned &&& bits v.toNat 0 2 = s.kept.envBurned) := by
  refine ⟨up, 0xE701, ?_⟩
  decide
theorem meets_HearthRowsTakeEffect_4 : ∃ (s : State) (e : Nat), (s.burning = some e) ∧ (s.held = false) := by
  refine ⟨{ up with burning := some 1 }, 1, ?_⟩
  decide
theorem meets_HearthRowsTakeEffect_5 : ∃ (s : State) (h : Nat), (s.boot.inReset = false) ∧ (s.hearthLost h = false) ∧ (h < 4) := by
  refine ⟨up, 3, ?_⟩
  decide
theorem meets_HearthRowsTakeEffect_6 : ∃ (s : State) (domain : Nat) (on : Bool), (1 ≤ domain) ∧ (domain ≤ 18) := by
  refine ⟨up, 1, true, ?_⟩
  decide
theorem meets_SupplyRowsTakeEffect_1 : ∃ (s : State) (h mv : Nat), (s.boot.inReset = false) ∧ (mv < 700) ∧ (h < 4) := by
  refine ⟨up, 0, 650, ?_⟩
  decide
theorem meets_SupplyRowsTakeEffect_2 : ∃ (s : State) (e : Episode), (s.boot.episode = some e) ∧ (e.banked = false) ∧ (e.released = none) := by
  refine ⟨{ up with boot := { up.boot with episode := some {} } }, {}, ?_⟩
  decide
theorem meets_SupplyRowsTakeEffect_3 : ∃ (s : State) (e : Episode), (s.boot.episode = some e) ∧ (e.banked = false) ∧ (e.released = none) := by
  refine ⟨{ up with boot := { up.boot with episode := some {} } }, {}, ?_⟩
  decide
theorem meets_SupplyRowsTakeEffect_4 : ∃ (s : State) (e : Episode), (s.boot.episode = some e) ∧ (e.banked = true) ∧ (e.released = none) := by
  refine ⟨{ up with boot := { up.boot with episode := some { banked := true } } }, { banked := true }, ?_⟩
  decide
theorem meets_SupplyRowsTakeEffect_5 : ∃ (s : State) (e : Episode) (r : Nat), (s.boot.episode = some e) ∧ (e.released = some r) := by
  refine ⟨{ up with boot := { up.boot with episode := some { released := some 0 } } }, { released := some 0 }, 0, ?_⟩
  decide
theorem meets_CxlLinkRowsTakeEffect_1 : ∃ (s : State) (rate width r w : Nat), (s.boot.inReset = false) ∧ (s.hearthLost 0 = false) ∧ (gradeOf rate 64 32 16 = some r) ∧ (gradeOf width 16 8 4 = some w) := by
  refine ⟨up, 64, 16, 64, 16, ?_⟩
  decide
theorem meets_CxlLinkRowsTakeEffect_3 : ∃ (s : State), (s.boot.inReset = false) := by
  refine ⟨up, ?_⟩
  decide
theorem meets_CxlLinkRowsTakeEffect_4 : ∃ (s : State), (s.boot.inReset = false) ∧ (s.cxl.linkUp = true) := by
  refine ⟨up, ?_⟩
  decide
theorem meets_CxlLinkRowsTakeEffect_5 : ∃ (s : State) (hpa : Nat) (op : HostMemOp) (a : Nat), (s.boot.inReset = false) ∧ (s.cxl.linkUp = true) ∧ (decodeHpa hpa s.cxl.decoders 0 = some a) := by
  refine ⟨{ up with cxl := { up.cxl with decoders := [{ committed := true, size := 1 }] } }, 0, .readCur, 0, ?_⟩
  decide
theorem meets_CxlLinkRowsTakeEffect_6 : ∃ (s : State) (hpa : Nat) (op : HostMemOp), (s.boot.inReset = false) ∧ (s.cxl.linkUp = true) ∧ (decodeHpa hpa s.cxl.decoders 0 = none) := by
  refine ⟨up, 0, .readCur, ?_⟩
  decide
theorem meets_MailboxEventRowsTakeEffect_1 : ∃ (s : State) (log : Nat), (s.mailboxOn = true) := by
  refine ⟨up, 0, ?_⟩
  decide
theorem meets_MailboxEventRowsTakeEffect_2 : ∃ (s : State) (log : Nat) (handles : List Nat) (l : EventLog), (s.mailboxOn = true) ∧ (s.cxl.logs[log]? = some l) := by
  refine ⟨up, 0, [], {}, ?_⟩
  decide
theorem meets_MailboxEventRowsTakeEffect_3 : ∃ (s : State) (log : Nat) (handles : List Nat), (s.mailboxOn = true) ∧ (s.cxl.logs[log]? = none) := by
  refine ⟨up, 9, [], ?_⟩
  decide
theorem meets_MailboxEventRowsTakeEffect_4 : ∃ (s : State), (s.mailboxOn = true) := by
  refine ⟨up, ?_⟩
  decide
theorem meets_MailboxEventRowsTakeEffect_5 : ∃ (s : State) (l : List Nat), (s.mailboxOn = true) := by
  refine ⟨up, [1, 0, 1, 0, 1], ?_⟩
  decide
theorem meets_MailboxInfoRowsTakeEffect_1 : ∃ (s : State), (s.mailboxOn = true) := by
  refine ⟨up, ?_⟩
  decide
theorem meets_MailboxInfoRowsTakeEffect_2 : ∃ (s : State), (s.mailboxOn = true) := by
  refine ⟨up, ?_⟩
  decide
theorem meets_MailboxInfoRowsTakeEffect_3 : ∃ (s : State) (n : Nat), (s.mailboxOn = true) := by
  refine ⟨up, 0, ?_⟩
  decide
theorem meets_MailboxInfoRowsTakeEffect_4 : ∃ (s : State), (s.mailboxOn = true) := by
  refine ⟨up, ?_⟩
  decide
theorem meets_MailboxInfoRowsTakeEffect_5 : ∃ (s : State), (s.mailboxOn = true) := by
  refine ⟨up, ?_⟩
  decide
theorem meets_MailboxInfoRowsTakeEffect_6 : ∃ (s : State), (s.mailboxOn = true) := by
  refine ⟨up, ?_⟩
  decide
theorem meets_MailboxInfoRowsTakeEffect_7 : ∃ (s : State), (s.mailboxOn = true) := by
  refine ⟨up, ?_⟩
  decide
theorem meets_MailboxInfoRowsTakeEffect_8 : ∃ (s : State), (s.mailboxOn = true) := by
  refine ⟨up, ?_⟩
  decide
theorem meets_MailboxInfoRowsTakeEffect_9 : ∃ (s : State) (n : Nat), (s.mailboxOn = true) ∧ ([0x0100, 0x0101, 0x0102, 0x0103, 0x0200, 0x0300, 0x0301, 0x0400, 0x0401, 0x4000, 0x4200, 0x4300, 0x4800, 0x4801, 0x4802, 0x4803].contains n = false) := by
  refine ⟨up, 0x5000, ?_⟩
  decide
theorem meets_DynamicCapacityRowsTakeEffect_1 : ∃ (s : State), (s.mailboxOn = true) := by
  refine ⟨up, ?_⟩
  decide
theorem meets_DynamicCapacityRowsTakeEffect_2 : ∃ (s : State), (s.mailboxOn = true) := by
  refine ⟨up, ?_⟩
  decide
theorem meets_DynamicCapacityRowsTakeEffect_3 : ∃ (s : State) (l : List Extent), (s.mailboxOn = true) := by
  refine ⟨up, [], ?_⟩
  decide
theorem meets_DynamicCapacityRowsTakeEffect_4 : ∃ (s : State) (g : Grant), ((s.grants.filter fun g => g.holder == 4096 && g.offered && !g.accepted && !g.tombstone && !g.leaving).foldl (fun (b : Option Grant) g => match b with | some x => if g.offeredAt < x.offeredAt then some g else b | none => some g) none = some g) := by
  refine ⟨{ up with grants := [{ holder := 4096, offered := true, accepted := false }] }, { holder := 4096, offered := true, accepted := false }, ?_⟩
  decide
theorem meets_DynamicCapacityRowsTakeEffect_5 : ∃ (s : State) (l : List Extent), (s.mailboxOn = true) := by
  refine ⟨up, [], ?_⟩
  decide
theorem meets_DynamicCapacityRowsTakeEffect_6 : ∃ (s : State) (r : Release), (s.cxl.release = some r) := by
  refine ⟨{ up with cxl := { up.cxl with release := some {} } }, {}, ?_⟩
  decide
theorem meets_DoeRowsTakeEffect_1 : ∃ (s : State) (n : Nat), (s.mailboxOn = true) := by
  refine ⟨up, 0, ?_⟩
  decide
theorem meets_DoeRowsTakeEffect_2 : ∃ (s : State) (n : Nat), (s.mailboxOn = true) := by
  refine ⟨up, 1, ?_⟩
  decide
theorem meets_DoeRowsTakeEffect_3 : ∃ (s : State) (req : Bytes), (s.mailboxOn = true) ∧ (fieldAt req 1 1 = 0x84) ∧ (fieldAt req 0 1 = 0x10) := by
  refine ⟨up, [0x10, 0x84], ?_⟩
  decide
theorem meets_DoeRowsTakeEffect_4 : ∃ (s : State) (req : Bytes), (s.mailboxOn = true) ∧ (spdmCodes.contains (fieldAt req 1 1) = false) := by
  refine ⟨up, [0x12, 0xFF], ?_⟩
  decide
theorem meets_DoeRowsTakeEffect_5 : ∃ (s : State) (req : Bytes), (s.mailboxOn = true) ∧ (fieldAt req 1 1 = 0xe1) ∧ (fieldAt req 0 1 = 0x12) ∧ (s.sec.spdmStep = 1) := by
  refine ⟨{ up with sec := { up.sec with spdmStep := 1, attestReady := true } }, [0x12, 0xE1], ?_⟩
  decide
theorem meets_DoeRowsTakeEffect_6 : ∃ (s : State) (req : Bytes), (s.mailboxOn = true) ∧ (fieldAt req 1 1 = 0xe3) ∧ (fieldAt req 0 1 = 0x12) ∧ (s.sec.spdmStep = 2) := by
  refine ⟨{ up with sec := { up.sec with spdmStep := 2, attestReady := true } }, [0x12, 0xE3], ?_⟩
  decide
theorem meets_DoeRowsTakeEffect_7 : ∃ (s : State) (req : Bytes), (s.mailboxOn = true) ∧ (fieldAt req 1 1 = 0x81) ∧ (fieldAt req 0 1 = 0x12) ∧ (3 ≤ s.sec.spdmStep) ∧ (s.sec.attestReady = true) ∧ (s.engineLost = false) := by
  refine ⟨{ up with sec := { up.sec with spdmStep := 3, attestReady := true } }, [0x12, 0x81], ?_⟩
  decide
theorem meets_DoeRowsTakeEffect_8 : ∃ (s : State) (req : Bytes), (s.mailboxOn = true) ∧ (fieldAt req 1 1 = 0x82) ∧ (fieldAt req 0 1 = 0x12) ∧ (3 ≤ s.sec.spdmStep) ∧ (s.sec.attestReady = true) ∧ (s.engineLost = false) := by
  refine ⟨{ up with sec := { up.sec with spdmStep := 3, attestReady := true } }, [0x12, 0x82], ?_⟩
  decide
theorem meets_DoeRowsTakeEffect_9 : ∃ (s : State) (req : Bytes), (s.mailboxOn = true) ∧ (fieldAt req 1 1 = 0x83) ∧ (fieldAt req 0 1 = 0x12) ∧ (3 ≤ s.sec.spdmStep) ∧ (s.sec.attestReady = true) ∧ (s.engineLost = false) := by
  refine ⟨{ up with sec := { up.sec with spdmStep := 3, attestReady := true } }, [0x12, 0x83], ?_⟩
  decide
theorem meets_DoeRowsTakeEffect_10 : ∃ (s : State) (req : Bytes) (l : List Nat), (s.mailboxOn = true) ∧ (fieldAt req 1 1 = 0xe0) ∧ (fieldAt req 0 1 = 0x12) ∧ (3 ≤ s.sec.spdmStep) ∧ (s.sec.attestReady = true) ∧ (s.engineLost = false) ∧ let op := fieldAt req 3 1; ((if op = 0 then some [] else if op = 0xFF then some blockNumbers else if op ≤ 7 then some [op] else none) = some l) := by
  refine ⟨{ up with sec := { up.sec with spdmStep := 3, attestReady := true } }, [0x12, 0xE0], [], ?_⟩
  decide
theorem meets_InterruptRowsTakeEffect_1 : ∃ (s : State) (rd : Reader) (t : Nat), (t < 8) ∧ (s.mayWrite rd false = true) ∧ ((Reader.isHost rd && unitTarget t) = false) := by
  refine ⟨up, .host, 0, ?_⟩
  decide
theorem meets_InterruptRowsTakeEffect_2 : ∃ (s : State) (rd : Reader) (t : Nat) (v : Reg), (t < 8) ∧ (s.mayWrite rd false = true) ∧ ((Reader.isHost rd && unitTarget t) = false) := by
  refine ⟨up, .host, 0, 1, ?_⟩
  decide
theorem meets_InterruptRowsTakeEffect_3 : ∃ (s : State) (rd : Reader) (v : Reg), (s.mayWrite rd false = true) := by
  refine ⟨up, .host, 0, ?_⟩
  decide
theorem meets_InterruptRowsTakeEffect_4 : ∃ (s : State) (rd : Reader) (i : Nat) (v : Reg), (i < 1024) ∧ (s.mayWrite rd false = true) := by
  refine ⟨up, .host, 0, 0, ?_⟩
  decide
theorem meets_BellowsRowsTakeEffect_1 : ∃ (s : State) (reads : SensorReads), (s.bellowsOn = true) := by
  refine ⟨up, {}, ?_⟩
  decide
theorem meets_BellowsRowsTakeEffect_2 : ∃ (s : State) (rd : Reader), (s.mayWrite rd true = true) ∧ (s.bellowsOn = true) := by
  refine ⟨up, .host, ?_⟩
  decide
theorem meets_BellowsRowsTakeEffect_3 : ∃ (s : State), (s.bellowsOn = true) ∧ (s.bell.injOn 23 2 = false) := by
  refine ⟨up, ?_⟩
  decide
theorem meets_BellowsRowsTakeEffect_4 : ∃ (s : State), (s.bellowsOn = true) ∧ (s.bell.injOn 22 2 = false) := by
  refine ⟨up, ?_⟩
  decide
theorem meets_BellowsRowsTakeEffect_5 : ∃ (s : State) (rd : Reader) (v : Reg), (s.mayWrite rd true = true) ∧ (s.bellowsOn = true) := by
  refine ⟨up, .host, 1, ?_⟩
  decide
theorem meets_BellowsRowsTakeEffect_6 : ∃ (s : State), (s.bell.injArm = true) := by
  refine ⟨{ up with bell := { up.bell with injArm := true } }, ?_⟩
  decide
theorem meets_RecordRowsTakeEffect_1 : ∃ (s : State), (s.bell.undriven = false) := by
  refine ⟨up, ?_⟩
  decide
theorem meets_RecordRowsTakeEffect_2 : ∃ (s : State) (ok : Bool), (s.bellowsOn = true) ∧ (s.bell.ckptDue = true) ∧ (s.held = false) := by
  refine ⟨{ up with bell := { up.bell with ckptDue := true } }, true, ?_⟩
  decide
theorem meets_RecordRowsTakeEffect_4 : ∃ (s : State) (regs : List Regulator), (s.managed = true) := by
  refine ⟨{ up with boot := { up.boot with step := 8 } }, [], ?_⟩
  decide
theorem meets_RecordRowsTakeEffect_5 : ∃ (s : State) (w : Nat), (s.managed = true) := by
  refine ⟨{ up with boot := { up.boot with step := 8 } }, 0, ?_⟩
  decide
theorem meets_RegisterRowsTakeEffect_1 : ∃ (s : State) (rd : Reader) (v : Reg), (s.mayWrite rd false = true) := by
  refine ⟨up, .host, 0, ?_⟩
  decide
theorem meets_RegisterRowsTakeEffect_2 : ∃ (s : State) (rd : Reader), (s.reached rd false = true) := by
  refine ⟨up, .host, ?_⟩
  decide
theorem meets_RegisterRowsTakeEffect_3 : ∃ (s : State) (rd : Reader) (v : Reg), (s.mayWrite rd false = true) := by
  refine ⟨up, .host, 0, ?_⟩
  decide
theorem meets_RegisterRowsTakeEffect_4 : ∃ (s : State) (rd : Reader) (off u o : Nat) (b : RegBlock), (off < 0x1000000) ∧ (regAt off = some (b, u, o)) ∧ (off % 4 = 0) ∧ (s.reached rd b.hostOnly = true) := by
  refine ⟨up, .host, 0x200040, 0, 0x40, .mem, ?_⟩
  decide
theorem meets_RegisterRowsTakeEffect_5 : ∃ (s : State) (rd : Reader) (off u o : Nat) (b : RegBlock), (off < 0x1000000) ∧ (regAt off = some (b, u, o)) ∧ (off % 4 = 0) ∧ (s.reached rd b.hostOnly = true) := by
  refine ⟨up, .host, 0x200040, 0, 0x40, .mem, ?_⟩
  decide
theorem meets_RegisterRowsTakeEffect_6 : ∃ (s : State) (rd : Reader) (off u o : Nat) (b : RegBlock) (v : Reg), (off < 0x1000000) ∧ (regAt off = some (b, u, o)) ∧ (off % 4 = 0) ∧ (s.mayWrite rd b.hostOnly = true) ∧ ((lowWord b o).isSome = true) := by
  refine ⟨up, .host, 0x50000C, 0, 0x0C, .sec, 0, ?_⟩
  decide
theorem meets_RegisterRowsTakeEffect_7 : ∃ (s : State) (rd : Reader) (win : AliasWindow) (off u o : Nat) (b : RegBlock) (v : Reg), (off < 2 ^ 24) ∧ (regAt off = some (b, u, o)) ∧ (off % 4 = 0) ∧ (s.mayWrite rd b.hostOnly = true) ∧ ((rwBits b o ≠ 0 ∨ scBits b o ≠ 0)) := by
  refine ⟨up, .host, .set, 0x1C, 0, 0x1C, .ident, 0, ?_⟩
  decide
theorem meets_RegisterRowsTakeEffect_8 : ∃ (s : State) (rd : Reader) (off u o : Nat) (b : RegBlock) (v : Reg), (off < 0x1000000) ∧ (regAt off = some (b, u, o)) ∧ (off % 4 = 0) ∧ (s.mayWrite rd b.hostOnly = true) := by
  refine ⟨up, .host, 0x1C, 0, 0x1C, .ident, 7, ?_⟩
  decide

end Sys2Proof.Tests
end

