-- ==== Sys2Proof/Proofs/RegisterRows.lean ====
section
/-! What the register rows do at an offset that the block map names, for a reader that reaches the block. -/

namespace Sys2Proof.Machine

/-! ## Each row is one access (R12, R499, R501, R503, R504, R510, R513) -/

section
variable (s : State) (rd : Reader) (off : Nat) (v : Reg)

theorem exec_errSel : exec (.errSel rd v) s = .next (if s.mayWrite rd false then s.capture v.toNat else s) := rfl

theorem exec_errEntryAdvance : exec (.errEntryAdvance rd) s = .next (s.readAccess rd 0x58003C) := rfl

theorem exec_errInjCtrl : exec (.errInjCtrl rd v) s = .next (if s.mayWrite rd false then s.errInj v.toNat else s) := rfl

theorem exec_counterReadClear : exec (.counterReadClear rd off) s = .next (s.readAccess rd off) := rfl

theorem exec_lowWordLatchRead : exec (.lowWordLatchRead rd off) s = .next (s.readAccess rd off) := rfl

theorem exec_registerWrite : exec (.registerWrite rd off v) s = .next (s.writeAccess rd off v.toNat) := rfl

/-- The write of a high word is a plain register write. -/
theorem exec_highWordWrite_of_lowWord {b : RegBlock} {u o : Nat} (hreg : regAt off = some (b, u, o)) (hlow : (lowWord b o).isSome = true) :
    exec (.highWordWrite rd off v) s = exec (.registerWrite rd off v) s := by
  change execHighWordWrite rd off v s = execRegisterWrite rd off v s
  simp only [execHighWordWrite, execRegisterWrite, hreg, hlow, if_true]

theorem exec_registerAliasWrite_of_lt (win : AliasWindow) (hoff : off < 2 ^ 24) :
    exec (.registerAliasWrite rd win off v) s = .next (s.bar0Write rd (some win) off v.toNat) := by
  change execRegisterAliasWrite rd win off v s = _
  rw [execRegisterAliasWrite, if_pos hoff, done]

end

/-! ## Accesses at an offset that the block map names -/

section
variable {s : State} {rd : Reader} {off u o : Nat} {b : RegBlock}

theorem not_bar4Base_le_of_normal (hoff : off < 0x1000000) : ¬ bar4Base ≤ off := by
  unfold bar4Base
  omega

theorem windowOf_eq_none_of_normal (hoff : off < 0x1000000) : windowOf off = none := by
  have hwin : off / 2 ^ 24 = 0 := Nat.div_eq_of_lt hoff
  simp only [windowOf, hwin]

/-- ERR_ENTRY7 stands in the error block (Table 17.9). -/
theorem regAt_errEntry7 : regAt 0x58003C = some (.err, 0, 0x3C) := by decide

/-- A read that reaches a mapped register shows the register's value on the device after the effects of the read. -/
theorem State.readAccess_of_mapped (hoff : off < 0x1000000) (hreg : regAt off = some (b, u, o)) (halign : off % 4 = 0)
    (hreach : s.reached rd b.hostOnly = true) :
    s.readAccess rd off = (s.readReg rd b u o off).2.emit (.regRead rd off (BitVec.ofNat 32 (s.readReg rd b u o off).1)) := by
  simp only [State.readAccess, if_neg (not_bar4Base_le_of_normal hoff), hreg, hreach, halign, ne_eq, not_true_eq_false, Bool.not_true,
    Bool.false_eq_true, if_false]

/-- A write that reaches a mapped register is passed to its window. -/
theorem State.bar0Write_of_mapped (w : Option AliasWindow) (v : Nat) (hreg : regAt off = some (b, u, o)) (halign : off % 4 = 0)
    (hmay : s.mayWrite rd b.hostOnly = true) :
    s.bar0Write rd w off v = w.elim (s.writeReg rd b u o off v) fun k => s.aliasWrite rd k b u o off v := by
  cases w <;> simp [State.bar0Write, hreg, halign, hmay]

theorem State.aliasWrite_of_fields (w : AliasWindow) (v : Nat) (hfields : rwBits b o ≠ 0 ∨ scBits b o ≠ 0) :
    s.aliasWrite rd w b u o off v = s.writeReg rd b u o off (aliasValue w (rwBits b o) (scBits b o) (s.regWord b u o) v) := by
  rw [State.aliasWrite, if_neg (not_and_or.mpr hfields)]

/-- A write in the normal window is a write of BAR0 outside the alias windows. -/
theorem State.writeAccess_of_normal (v : Nat) (hoff : off < 0x1000000) : s.writeAccess rd off v = s.bar0Write rd none off v := by
  have hmod : off % 2 ^ 24 = off := Nat.mod_eq_of_lt hoff
  rw [State.writeAccess, if_neg (not_bar4Base_le_of_normal hoff), windowOf_eq_none_of_normal hoff, hmod]

theorem exec_registerWrite_of_mapped (v : Reg) (hoff : off < 0x1000000) (hreg : regAt off = some (b, u, o)) (halign : off % 4 = 0)
    (hmay : s.mayWrite rd b.hostOnly = true) :
    exec (.registerWrite rd off v) s = .next (s.writeReg rd b u o off v.toNat) := by
  rw [exec_registerWrite, State.writeAccess_of_normal _ hoff, State.bar0Write_of_mapped none _ hreg halign hmay, Option.elim_none]

end

/-- Settles O60: a read row is one access of a mapped register, a write row one write of it, and the two rows of the log and of injection
act for a reader whose writes change the device. -/
theorem registerRowsTakeEffect : Obligations.RegisterRowsTakeEffect := by
  unfold Obligations.RegisterRowsTakeEffect
  refine ⟨?errSel, ?errEntryAdvance, ?errInjCtrl, ?counterReadClear, ?lowWordLatchRead, ?highWordWrite, ?aliasWrite, ?registerWrite⟩
  case errSel =>
    intro s rd v hmay
    rw [exec_errSel, if_pos hmay, State.capture]
  case errEntryAdvance =>
    intro s rd hreach
    rw [exec_errEntryAdvance, State.readAccess_of_mapped (by decide) regAt_errEntry7 (by decide) hreach]
  case errInjCtrl =>
    intro s rd v hmay
    rw [exec_errInjCtrl, if_pos hmay]
  case counterReadClear =>
    intro s rd off u o b hoff hreg halign hreach
    rw [exec_counterReadClear, State.readAccess_of_mapped hoff hreg halign hreach]
  case lowWordLatchRead =>
    intro s rd off u o b hoff hreg halign hreach
    rw [exec_lowWordLatchRead, State.readAccess_of_mapped hoff hreg halign hreach]
  case highWordWrite =>
    intro s rd off u o b v hoff hreg halign hmay hlow
    rw [exec_highWordWrite_of_lowWord s rd off v hreg hlow, exec_registerWrite_of_mapped v hoff hreg halign hmay]
  case aliasWrite =>
    intro s rd win off u o b v hoff hreg halign hmay hfields
    rw [exec_registerAliasWrite_of_lt s rd off v win hoff, State.bar0Write_of_mapped (some win) _ hreg halign hmay, Option.elim_some,
      State.aliasWrite_of_fields win _ hfields]
  case registerWrite =>
    intro s rd off u o b v hoff hreg halign hmay
    exact exec_registerWrite_of_mapped v hoff hreg halign hmay

end Sys2Proof.Machine
end

