-- ==== Sys2Proof/Proofs/HearthRows.lean ====
section
/-! What the rows of a Hearth's partial reset and loss, of the envelope fuses and of the clocks do where they act. -/

namespace Sys2Proof.Machine

section
variable (s : State)

/-- The host reaches BAR0 over a link that is up, through Hearth 0, once internal reset is released (R507). -/
theorem State.reached_host (hostOnly : Bool) : s.reached .host hostOnly = (!s.boot.inReset && (s.cxl.linkUp && !s.hearthLost 0)) := rfl

theorem exec_clkrstHreset_of_mayWrite (rd : Reader) (v : Reg) (hmay : s.mayWrite rd false = true) :
    exec (.clkrstHreset rd v) s = .next (((List.range 4).filter fun h => bit v.toNat h).foldl (fun (t : State) h => t.askPartial h) s) := by
  change execClkrstHreset rd v s = _
  rw [execClkrstHreset, if_pos hmay, done]

theorem exec_partialResetComplete_of_quiet (r : PartialReset) (hrun : s.boot.hreset = some r) (hheld : s.held = false)
    (hquiet : s.hearthQuiet r.hearth = true) : exec .partialResetComplete s = .next (s.endPartial r) := by
  change execPartialResetComplete s = _
  simp [execPartialResetComplete, done, hrun, hheld, hquiet]

/-- A write with the key burns a nonzero code that holds every bit burned before, in a field with no seal and no burn running (R423). -/
theorem State.burnEnvelope_of_agrees (v : Nat) (hkey : bits v 8 8 = 0xE7) (hcode : bits v 0 2 ≠ 0) (hseal : s.kept.envSealed = false)
    (hburn : s.burning = none) (hagree : s.kept.envBurned &&& bits v 0 2 = s.kept.envBurned) :
    s.burnEnvelope v = { s with burning := some (bits v 0 2) } := by
  simp [State.burnEnvelope, hkey, hcode, hseal, hburn, hagree]

theorem exec_clkrstEnvelope_of_host (v : Reg) (hreach : s.reached .host false = true) :
    exec (.clkrstEnvelope .host v) s = .next (s.burnEnvelope v.toNat) := by
  change execClkrstEnvelope .host v s = _
  simp [execClkrstEnvelope, done, hreach]

theorem exec_envelopeBurnDone_of_burning (e : Nat) (hburn : s.burning = some e) (hheld : s.held = false) :
    exec .envelopeBurnDone s = .next { s with burning := none, kept := { s.kept with envBurned := e, envSealed := true } } := by
  change execEnvelopeBurnDone s = _
  simp [execEnvelopeBurnDone, done, hburn, hheld]

theorem exec_clockPresenceChange_of_domain (domain : Nat) (on : Bool) (hdom : 1 ≤ domain ∧ domain ≤ 18) :
    exec (.clockPresenceChange domain on) s = .next { s with boot := { s.boot with pll := s.boot.pll.set (domain - 1) on } } := by
  change execClockPresenceChange domain on s = _
  rw [execClockPresenceChange, if_pos hdom, done]

end

/-- Settles O50: each row takes the branch of its meaning that the clause's conditions select. -/
theorem hearthRowsTakeEffect : Obligations.HearthRowsTakeEffect := by
  unfold Obligations.HearthRowsTakeEffect
  refine ⟨?clkrstHreset, ?partialResetComplete, ?clkrstEnvelope, ?envelopeBurnDone, ?hearthLost, ?clockPresenceChange⟩
  case clkrstHreset => exact exec_clkrstHreset_of_mayWrite
  case partialResetComplete => exact exec_partialResetComplete_of_quiet
  case clkrstEnvelope =>
    intro s v hreset hlink hlost hkey hcode hseal hburn hagree
    have hreach : s.reached .host false = true := by simp [State.reached_host, hreset, hlink, hlost]
    rw [exec_clkrstEnvelope_of_host s v hreach, s.burnEnvelope_of_agrees _ hkey hcode hseal hburn hagree]
  case envelopeBurnDone => exact exec_envelopeBurnDone_of_burning
  case hearthLost =>
    intro s h hreset hlost hh
    have hacts : ¬ (s.boot.inReset || s.hearthLost h || decide (4 ≤ h)) = true := by simp [hreset, hlost, hh]
    change execHearthLost h s = _
    rw [execHearthLost, if_neg hacts, done]
  case clockPresenceChange => exact fun s domain on hlo hhi => exec_clockPresenceChange_of_domain s domain on ⟨hlo, hhi⟩

end Sys2Proof.Machine
end

