-- ==== Sys2Proof/Proofs/RowsLeaveStill.lean ====
section
/-! Rows that leave the queue, the fuses and the memory as they are: one lemma a row, each from the laws of the operations the row makes. -/

set_option Elab.async false

namespace Sys2Proof.Machine

/-- The row answers a next state in which the queue, the fuses and the memory are as before. -/
def LeavesStill (i : Instr) : Prop := ∀ s : State, ∃ t, exec i s = .next t ∧ t.still = s.still

theorem still_ite {s t : State} {c : Prop} [Decidable c] (h : t.still = s.still) : (if c then t else s).still = s.still := by
  split
  · exact h
  · rfl

/-- A check that refuses the command or lets it go on to `t`. -/
theorem still_refuse_else {s t : State} {c : Prop} [Decidable c] {k : Cmd} {status byte : Nat} {more : Bytes} (h : t.still = s.still) :
    (if c then s.refuse k status byte more else t).still = s.still := by
  split
  · exact State.refuse_still _ _ _ _ _
  · exact h

/-! ## Operations of these rows -/

theorem State.deferHeld_still (s : State) : s.deferHeld.still = s.still :=
  foldl_still _ (fun t k => State.again_still t k) _ s

theorem State.eraseKeys_still (s : State) (c : Nat) : (s.eraseKeys c).still = s.still := by
  unfold State.eraseKeys
  split
  · rfl
  · dsimp only
    split
    · rfl
    · exact State.log_still _ _ _ _ _

theorem State.eraseEngines_still (s : State) (c : Nat) : (s.eraseEngines c).still = s.still := rfl

theorem State.eraseRecords_still (s : State) (c : Nat) : (s.eraseRecords c).still = s.still := rfl

theorem State.reissue_still (s : State) (c : Nat) : (s.reissue c).still = s.still := rfl

theorem State.syncRange_still (s : State) (k : Cmd) (lo hi : Nat) (f : State → State) (h : ∀ u, (f u).still = u.still) :
    (s.syncRange k lo hi f).still = s.still := by
  grind [State.syncRange, State.again_still, State.final_still, State.modCmd_still, State.dropXlat_still, State.reissue_still]

theorem State.destroyWaits_still (s : State) (c : Option Nat) (l : List Nat) : (s.destroyWaits c l).still = s.still := by
  cases c <;> rfl

theorem State.transit_still (s : State) (p q : Nat) (k : Packet) : (s.transit p q k).still = s.still := by
  unfold State.transit
  split
  · exact State.queueOut_still _ _ _
  · rfl

theorem State.spdmCert_still (s : State) (req rsp : Bytes) : (s.spdmCert req rsp).still = s.still := rfl

/-- An answer of the mailbox that reads the device and changes nothing else. -/
theorem leavesStill_of_mbDone {i : Instr} {code : Nat} {r : State → MbReply}
    (h : ∀ s, exec i s = .next (s.onMailbox fun u => u.mbDone code (r u))) : LeavesStill i :=
  fun s => ⟨_, h s, State.onMailbox_still s _ fun _ => State.mbDone_still _ _ _⟩

/-! ## The rows -/

section
variable {via : Sender} {offset n ctx tag c point holder region slice cord line g idx stack tile h p purpose lane corrected cum bitmap seq vc units
  cause output list power unit a b level peer w mv hpa log stamp opcode index entry target src statusWord off rate width domain : Nat}
  {bytes raw key sig req : Bytes} {hostOk pass parity parityBad on ok flit256 tach running : Bool} {hostData hostImage hostTopology : Option Bytes}
  {rsp : SnoopRsp} {noise noiseA noiseB : List (Nat × Byte)} {task : CalTask} {rd : Reader} {v : Reg} {cell : Cell} {body : TimeBody}
  {lanes first second failed handles policy : List Nat} {extents : List Extent} {regs : List Regulator} {op : HostMemOp} {reads : SensorReads}
  {win : AliasWindow}

/-! ### Command transport (chapter 2) -/

@[simp] theorem commandDispatch_leavesStill : LeavesStill .commandDispatch := fun s =>
  ⟨_, rfl, by
    grind [State.still, State.untilElapsed_still, State.deferHeld_still, State.modCmd_still, State.hand_still, State.refuse_still]⟩

@[simp] theorem replyWriteError_leavesStill : LeavesStill (.replyWriteError n) := fun s =>
  ⟨_, rfl, by grind [State.still, State.replyFailed_still]⟩

/-! ### Contexts and their keys (chapters 2 and 11) -/

@[simp] theorem nop_leavesStill : LeavesStill (.nop ctx tag) := fun s =>
  ⟨_, rfl, State.withTaken_still s _ _ _ _ fun _ _ => State.final_still _ _ _ _⟩

@[simp] theorem ctxCreate_leavesStill : LeavesStill (.ctxCreate ctx tag) := fun s =>
  ⟨_, rfl, State.withTaken_still s _ _ _ _ fun _ _ => by grind (splits := 20) [State.still, State.refuse_still, State.final_still, State.draw]⟩

@[simp] theorem ctxDestroy_leavesStill : LeavesStill (.ctxDestroy ctx tag) := fun s =>
  ⟨_, rfl, State.withTaken_still s _ _ _ _ fun _ _ => by
    grind [State.still, State.refuse_still, State.modCtx_still, State.endCommands_still, State.dropRuns_still, foldl_still, State.modRegion_still,
      State.queueStep_still, State.startZeroise_still, State.running_still]⟩

@[simp] theorem ctxDestroyComplete_leavesStill : LeavesStill (.ctxDestroyComplete c) := fun s =>
  ⟨_, rfl, by grind [State.settleCords_still, State.eraseKeys_still, State.eraseEngines_still, State.eraseRecords_still, State.final_still]⟩

@[simp] theorem ctxQuery_leavesStill : LeavesStill (.ctxQuery ctx tag) := fun s =>
  ⟨_, rfl, State.withTaken_still s _ _ _ _ fun _ _ => by grind [State.refuse_still, State.modCtx_still, State.final_still]⟩

@[simp] theorem ctxSetClass_leavesStill : LeavesStill (.ctxSetClass ctx tag) := fun s =>
  ⟨_, rfl, State.withTaken_still s _ _ _ _ fun _ _ => by grind [State.refuse_still, State.final_still, State.modCtx_still]⟩

@[simp] theorem ctxAttest_leavesStill : LeavesStill (.ctxAttest ctx tag) := fun s =>
  ⟨_, rfl, State.withTaken_still s _ _ _ _ fun _ _ => by grind [State.still, State.refuse_still, State.running_still]⟩

/-! ### Cords and regions (chapters 3 and 4) -/

@[simp] theorem regionShare_leavesStill : LeavesStill (.regionShare ctx tag) := fun s =>
  ⟨_, rfl, State.withTaken_still s _ _ _ _ fun k u => by
    extract_lets rn h rights dc
    split
    · exact State.refuse_still _ _ _ _ _
    · split
      · exact State.refuse_still _ _ _ _ _
      · rename_i r live u' after _ _ _ _ _
        have hu' : State.still u' = u.still := by grind [State.still]
        have hafter : ∀ t, after = some t → State.still t = u.still := by grind [State.dropTombstone_still]
        clear_value after r
        split
        · next t _ _ =>
          rw [← hafter t rfl]
          grind [State.still, State.refuse_still, State.final_still, State.dcEvent_still, foldl_still]
        · exact (State.refuse_still _ _ _ _ _).trans hu'⟩

@[simp] theorem regionRevoke_leavesStill : LeavesStill (.regionRevoke ctx tag) := fun s =>
  ⟨_, rfl, State.withTaken_still s _ _ _ _ fun _ _ => by
    grind [State.refuse_still, State.modRegion_still, State.running_still, State.final_still, State.queueStep_still]⟩

@[simp] theorem leaseRenew_leavesStill : LeavesStill (.leaseRenew ctx tag) := fun s =>
  ⟨_, rfl, State.withTaken_still s _ _ _ _ fun _ _ => by grind [State.still, State.refuse_still, State.final_still]⟩

@[simp] theorem regionMigrate_leavesStill : LeavesStill (.regionMigrate ctx tag) := fun s =>
  ⟨_, rfl, State.withTaken_still s _ _ _ _ fun _ _ => by grind [State.refuse_still, State.reserve_still, State.running_still]⟩

@[simp] theorem regionTriple_leavesStill : LeavesStill (.regionTriple ctx tag) := fun s =>
  ⟨_, rfl, State.withTaken_still s _ _ _ _ fun k u => by
    extract_lets rn
    split
    · exact State.refuse_still _ _ _ _ _
    · refine still_refuse_else (still_refuse_else ?_)
      have hr := State.reserveCopies_still (u.modRegion rn fun x => { x with tripling := some (k.ctx, k.tag), triplesDone := 0 }) rn
      split
      · exact State.refuse_still _ _ _ _ _
      · next t ht =>
        rw [State.final_still, State.modRegion_still, hr _ _ _ ht, State.modRegion_still]
      · next t n ht =>
        rw [State.running_still, State.modRegion_still, hr _ _ _ ht, State.modRegion_still]⟩

/-! ### Translation (chapter 5) -/

@[simp] theorem ptBind_leavesStill : LeavesStill (.ptBind ctx tag) := fun s =>
  ⟨_, rfl, State.withTaken_still s _ _ _ _ fun _ _ => by grind [State.refuse_still, State.syncRange_still, State.modCtx_still]⟩

@[simp] theorem ptSync_leavesStill : LeavesStill (.ptSync ctx tag) := fun s =>
  ⟨_, rfl, State.withTaken_still s _ _ _ _ fun _ _ => by grind [State.refuse_still, State.syncRange_still]⟩

@[simp] theorem faultResume_leavesStill : LeavesStill (.faultResume ctx tag) := fun s =>
  ⟨_, rfl, State.withTaken_still s _ _ _ _ fun _ _ => by
    grind [State.refuse_still, State.closeSlot_still, foldl_still, State.walkAgain_still, State.modEmber_still, State.final_still]⟩

/-! ### Plans, weights and sync words -/

@[simp] theorem planRun_leavesStill : LeavesStill (.planRun ctx tag) := fun s =>
  ⟨_, rfl, State.withTaken_still s _ _ _ _ fun _ _ => by grind [State.refuse_still, State.startRun_still, State.running_still]⟩

@[simp] theorem planArm_leavesStill : LeavesStill (.planArm ctx tag) := fun s =>
  ⟨_, rfl, State.withTaken_still s _ _ _ _ fun _ _ => by
    grind [State.still, State.refuse_still, State.modPlan_still, State.preload_still, State.final_still]⟩

@[simp] theorem planCancel_leavesStill : LeavesStill (.planCancel ctx tag) := fun s =>
  ⟨_, rfl, State.withTaken_still s _ _ _ _ fun _ _ => by
    grind [State.still, State.refuse_still, State.again_still, State.modPlan_still, State.running_still, State.endCancel_still,
      State.cancelRuns_still]⟩

/-! ### Routes, gates, shapers and policers (chapters 9 and 10) -/

@[simp] theorem epochSwitch_leavesStill : LeavesStill (.epochSwitch ctx tag) := fun s =>
  ⟨_, rfl, State.withTaken_still s _ _ _ _ fun _ _ => by grind [State.still, State.refuse_still, State.running_still]⟩

@[simp] theorem shaperSet_leavesStill : LeavesStill (.shaperSet ctx tag) := fun s =>
  ⟨_, rfl, State.withTaken_still s _ _ _ _ fun _ _ => by grind [State.still, State.refuse_still, State.final_still]⟩

@[simp] theorem policerSet_leavesStill : LeavesStill (.policerSet ctx tag) := fun s =>
  ⟨_, rfl, State.withTaken_still s _ _ _ _ fun _ _ => by grind (splits := 20) [State.still, State.refuse_still, State.final_still]⟩

/-! ### Maintenance, telemetry and the log -/

@[simp] theorem selftest_leavesStill : LeavesStill (.selftest ctx tag) := fun s =>
  ⟨_, rfl, State.withTaken_still s _ _ _ _ fun _ _ => by
    grind [State.testStart_still, State.refuse_still, State.deferOnce_still, State.running_still]⟩

@[simp] theorem calibrate_leavesStill : LeavesStill (.calibrate ctx tag) := fun s =>
  ⟨_, rfl, State.withTaken_still s _ _ _ _ fun _ _ => by
    grind [State.refuse_still, foldl_still, State.modChan_still, State.running_still, State.calibrated_still]⟩

@[simp] theorem retire_leavesStill : LeavesStill (.retire ctx tag) := fun s =>
  ⟨_, rfl, State.withTaken_still s _ _ _ _ fun _ _ => by
    grind [State.still, State.final_still, State.refuse_still, State.fenceEmber_still, State.modEmber_still, State.retireChannel_still,
      State.fullReset_still, State.modPort_still]⟩

@[simp] theorem triplexMode_leavesStill : LeavesStill (.triplexMode ctx tag) := fun s =>
  ⟨_, rfl, State.withTaken_still s _ _ _ _ fun _ _ => by
    grind [State.still, State.final_still, State.refuse_still, State.dropToken_still, State.cuState_still, State.startSync_still,
      State.reloadUnit_still, State.releaseTo_still]⟩

/-! ### Grants, epochs and cord moves (chapter 4) -/

@[simp] theorem requestStamp_leavesStill : LeavesStill (.requestStamp point n) := fun s =>
  ⟨_, rfl, by grind [State.still, State.stamp_still]⟩

@[simp] theorem grantFill_leavesStill : LeavesStill (.grantFill point holder region) := fun s =>
  ⟨_, rfl, by grind [State.still, foldl_still, State.endAtPoint_still, State.stamp_still, State.modCache_still]⟩

@[simp] theorem completionPassesStamp_leavesStill : LeavesStill (.completionPassesStamp n) := fun s =>
  ⟨_, rfl, by grind [State.still, State.landed_still, State.answer_still]⟩

@[simp] theorem revokePhase2End_leavesStill : LeavesStill (.revokePhase2End region) := fun s => ⟨_, rfl, by
  split
  · rfl
  · split
    · split
      · rfl
      · extract_lets us t reply v w
        have ht : t.still = s.still := State.modRegion_still _ _ _
        have hreply : ∀ t w a b d, (reply t w a b d).still = t.still := by
          intro t w a b d
          simp only [reply]
          split
          · exact State.final_still _ _ _ _
          · rfl
        have hv : v.still = t.still := by
          simp only [v]
          split
          · rfl
          · rw [foldl_still _ fun t x => hreply _ _ _ _ _]
            exact hreply _ _ _ _ _
        have hw : w.still = v.still := by
          simp only [w]
          split <;> rfl
        rw [← ht, ← hv, ← hw]
        split
        · rfl
        · split
          · exact (State.reclaim_still _ _ _).trans (State.destroyWaits_still _ _ _)
          · rfl
    · rfl⟩

@[simp] theorem leaseExamination_leavesStill : LeavesStill .leaseExamination := fun s =>
  ⟨_, rfl, by grind [State.untilElapsed_still, State.injectLapse_still, foldl_still, State.queueStep_still, State.log_still]⟩

/-! ### Coherence (chapter 6) -/

@[simp] theorem fence_leavesStill : LeavesStill (.fence n) := fun s =>
  ⟨_, rfl, State.meshOp_still s _ _ _ fun _ => by grind [State.takeMesh_still, State.finish_still]⟩

@[simp] theorem answerPoolAdmit_leavesStill : LeavesStill (.answerPoolAdmit slice) := fun s =>
  ⟨_, rfl, by grind [State.poolAdmit_still]⟩

@[simp] theorem syncWaitTimeout_leavesStill : LeavesStill (.syncWaitTimeout n) := fun s =>
  ⟨_, rfl, by grind [State.still, State.atTimer_still, State.modSlice_still, State.endWait_still]⟩

@[simp] theorem resendEntryExpiry_leavesStill : LeavesStill (.resendEntryExpiry n) := fun s =>
  ⟨_, rfl, by grind [State.still, State.atElapsed_still]⟩

/-! ### Memory channels (chapter 3) -/

@[simp] theorem stokeLevelChange_leavesStill : LeavesStill (.stokeLevelChange g n) := fun s =>
  ⟨_, rfl, by grind [State.atElapsed_still, State.modChan_still]⟩

@[simp] theorem bitmapLineFetch_leavesStill : LeavesStill (.bitmapLineFetch g idx noiseA noiseB) := fun s =>
  ⟨_, rfl, by grind [State.bitmapCheck_still, State.bitmapCache_still, State.settleCords_still]⟩

@[simp] theorem refreshDebtTick_leavesStill : LeavesStill (.refreshDebtTick g) := fun s =>
  ⟨_, rfl, by grind [State.atElapsed_still, State.modChan_still, State.refEmergency_still]⟩

@[simp] theorem calibrationDue_leavesStill : LeavesStill (.calibrationDue g task) := fun s =>
  ⟨_, rfl, by grind [State.atElapsed_still, State.modChan_still]⟩

@[simp] theorem memInjCtrl_leavesStill : LeavesStill (.memInjCtrl rd g v) := fun s =>
  ⟨_, rfl, onUnit_still _ _ _ s fun u => still_ite (@State.memInj_still u ..)⟩

/-! ### Page walks and faults (chapter 5) -/

@[simp] theorem faultQueuePost_leavesStill : LeavesStill (.faultQueuePost h) := fun s =>
  ⟨_, rfl, onUnit_still _ _ _ s fun _ => by grind [foldl_still, State.postFault_still, State.modFaultQ_still]⟩

@[simp] theorem stallListRewalk_leavesStill : LeavesStill (.stallListRewalk h) := fun s =>
  ⟨_, rfl, onUnit_still _ _ _ s fun _ => by grind [State.modFaultQ_still, foldl_still, State.walkAgain_still, State.settleFull_still]⟩

@[simp] theorem xlatFqMark_leavesStill : LeavesStill (.xlatFqMark rd h v) := fun s =>
  ⟨_, rfl, onUnit_still _ _ _ s fun u => still_ite (@State.markSlot_still u ..)⟩

/-! ### Embers (chapter 7) -/

@[simp] theorem planStart_leavesStill : LeavesStill (.planStart n) := fun s =>
  ⟨_, rfl, by grind [State.still, State.modEmber_still, State.boundary_still]⟩

@[simp] theorem waitLimitExpiry_leavesStill : LeavesStill (.waitLimitExpiry tile) := fun s =>
  ⟨_, rfl, by grind [State.atTimer_still, State.dropWait_still, State.modEmber_still, State.runError_still]⟩

@[simp] theorem repeatRange_leavesStill : LeavesStill (.repeatRange tile) := fun s =>
  ⟨_, rfl, State.onDesc_still s _ _ _ fun _ _ _ => by grind [State.descDone_still, State.modRun_still]⟩

@[simp] theorem endNotice_leavesStill : LeavesStill (.endNotice n) := fun s =>
  ⟨_, rfl, by grind [State.still, State.modPlan_still, State.runEnded_still]⟩

@[simp] theorem emberQuantumExpiry_leavesStill : LeavesStill (.emberQuantumExpiry tile) := fun s =>
  ⟨_, rfl, onUnit_still _ _ _ s fun _ => by grind [State.untilElapsed_still, State.boundary_still]⟩

@[simp] theorem emberEdgeGuard_leavesStill : LeavesStill (.emberEdgeGuard tile) := fun s =>
  ⟨_, rfl, onUnit_still _ _ _ s fun _ => by grind [State.untilNt_still, State.edgeGuard_still]⟩

@[simp] theorem emberFaultFence_leavesStill : LeavesStill (.emberFaultFence tile) := fun s =>
  ⟨_, rfl, onUnit_still _ _ _ s fun _ => by grind [State.fenceEmber_still]⟩

@[simp] theorem embInjCtrl_leavesStill : LeavesStill (.embInjCtrl rd tile v) := fun s =>
  ⟨_, rfl, onUnit_still _ _ _ s fun u => still_ite (@State.embInj_still u ..)⟩

/-! ### Fabric links and packets (chapter 9) -/

@[simp] theorem linkSignalDetect_leavesStill : LeavesStill (.linkSignalDetect p lanes) := fun s =>
  ⟨_, rfl, onUnit_still _ _ _ s fun _ => by grind [State.modPort_still, State.sendTrain_still, State.atElapsed_still, State.portDown_still]⟩

@[simp] theorem detectRetry_leavesStill : LeavesStill (.detectRetry p) := fun s =>
  ⟨_, rfl, onUnit_still _ _ _ s fun _ => by grind [State.atElapsed_still, State.modPort_still]⟩

@[simp] theorem trainingEnd_leavesStill {received : List Nat} {partner : Option TrainInfo} : LeavesStill (.trainingEnd p received partner) := fun s =>
  ⟨_, rfl, onUnit_still _ _ _ s fun _ => by grind [State.modPort_still, State.trained_still, State.portDown_still, State.atElapsed_still]⟩

@[simp] theorem train_leavesStill {partner : TrainInfo} : LeavesStill (.train p purpose partner) := fun s =>
  ⟨_, rfl, onUnit_still _ _ _ s fun _ => by grind [State.heard_still, State.modPort_still, State.fullReset_still, State.startRetrain_still]⟩

@[simp] theorem errorRateTestEnd_leavesStill {lanes : List LaneResult} : LeavesStill (.errorRateTestEnd p lanes) := fun s =>
  ⟨_, rfl, onUnit_still _ _ _ s fun _ => by
    grind [State.atElapsed_still, State.countFec_still, State.modPort_still, State.portUp_still, State.dropWorst_still, State.portDown_still]⟩

@[simp] theorem retrainThreshold_leavesStill : LeavesStill (.retrainThreshold p lane corrected) := fun s =>
  ⟨_, rfl, onUnit_still _ _ _ s fun _ => by grind [State.countFec_still, State.startRetrain_still]⟩

@[simp] theorem retrainEnd_leavesStill : LeavesStill (.retrainEnd p) := fun s =>
  ⟨_, rfl, onUnit_still _ _ _ s fun _ => by grind [State.portUp_still]⟩

@[simp] theorem retrainTimeout_leavesStill : LeavesStill (.retrainTimeout p) := fun s =>
  ⟨_, rfl, onUnit_still _ _ _ s fun _ => by grind [State.atElapsed_still, State.linkDown_still]⟩

@[simp] theorem linkSilenceTimeout_leavesStill : LeavesStill (.linkSilenceTimeout p) := fun s =>
  ⟨_, rfl, onUnit_still _ _ _ s fun _ => by grind [State.atElapsed_still, State.linkDown_still]⟩

@[simp] theorem sequencedCell_leavesStill : LeavesStill (.sequencedCell p cell) := fun s =>
  ⟨_, rfl, onUnit_still _ _ _ s fun _ => by
    grind [State.still, State.modPort_still, State.injected_still, State.countFec_still, State.crcFail_still, State.cellIn_still]⟩

@[simp] theorem cellCrcFail_leavesStill : LeavesStill (.cellCrcFail p raw) := fun s =>
  ⟨_, rfl, onUnit_still _ _ _ s fun _ => by grind [State.crcFail_still]⟩

@[simp] theorem ack_leavesStill : LeavesStill (.ack p cum bitmap) := fun s =>
  ⟨_, rfl, onUnit_still _ _ _ s fun _ => by grind [State.heard_still, State.acked_still]⟩

@[simp] theorem ackSend_leavesStill : LeavesStill (.ackSend p) := fun s =>
  ⟨_, rfl, onUnit_still _ _ _ s fun _ => by grind [State.modPort_still, State.sendControl_still]⟩

@[simp] theorem replayTimer_leavesStill : LeavesStill (.replayTimer p seq) := fun s =>
  ⟨_, rfl, onUnit_still _ _ _ s fun _ => by grind [State.atTimer_still, State.resendCell_still]⟩

@[simp] theorem credit_leavesStill : LeavesStill (.credit p vc units) := fun s =>
  ⟨_, rfl, onUnit_still _ _ _ s fun _ => by grind [State.heard_still, State.credit_still, State.pump_still]⟩

@[simp] theorem hold_leavesStill : LeavesStill (.hold p cause) := fun s =>
  ⟨_, rfl, onUnit_still _ _ _ s fun _ => by grind [State.heard_still]⟩

@[simp] theorem idle_leavesStill {received : Bool} : LeavesStill (.idle p received) := fun s =>
  ⟨_, rfl, onUnit_still _ _ _ s fun _ => by grind [State.heard_still, State.atElapsed_still, State.sendControl_still, State.untilElapsed_still]⟩

@[simp] theorem packetRoute_leavesStill : LeavesStill (.packetRoute p) := fun s =>
  ⟨_, rfl, onUnit_still _ _ _ s fun _ => by grind [State.modPort_still, State.routeDiscard_still, State.freed_still, State.transit_still]⟩

@[simp] theorem pending_leavesStill : LeavesStill (.pending n) := fun s =>
  ⟨_, rfl, by grind [State.still]⟩

@[simp] theorem pendingTimer_leavesStill : LeavesStill (.pendingTimer n) := fun s =>
  ⟨_, rfl, by grind [State.still, State.untilElapsed_still, State.source_still]⟩

@[simp] theorem requestResendTimer_leavesStill : LeavesStill (.requestResendTimer n) := fun s =>
  ⟨_, rfl, by grind [State.still, State.atTimer_still, State.requestLost_still, State.source_still]⟩

@[simp] theorem requestCompletion_leavesStill : LeavesStill (.requestCompletion n) := fun s =>
  ⟨_, rfl, by grind [State.still, State.replyEnds_still, State.emberCompletion_still]⟩

@[simp] theorem meshFlit_leavesStill : LeavesStill (.meshFlit tile output ctx parityBad) := fun s =>
  ⟨_, rfl, onUnit_still _ _ _ s fun _ => by grind [State.still, State.injected_still, State.log_still, State.hop_still]⟩

@[simp] theorem fabCtrlReset_leavesStill : LeavesStill (.fabCtrlReset rd p) := fun s =>
  ⟨_, rfl, onUnit_still _ _ _ s fun u => still_ite (@State.ctrlReset_still u ..)⟩

@[simp] theorem fabCtrlRetrain_leavesStill : LeavesStill (.fabCtrlRetrain rd p) := fun s =>
  ⟨_, rfl, onUnit_still _ _ _ s fun u => still_ite (@State.startRetrain_still u ..)⟩

@[simp] theorem fabCtrlDisable_leavesStill : LeavesStill (.fabCtrlDisable rd p on) := fun s =>
  ⟨_, rfl, onUnit_still _ _ _ s fun u => still_ite (@State.setDisable_still u ..)⟩

@[simp] theorem fabInjCtrl_leavesStill : LeavesStill (.fabInjCtrl rd p v) := fun s =>
  ⟨_, rfl, onUnit_still _ _ _ s fun u => still_ite (@State.fabInj_still u ..)⟩

/-! ### Network time, slots and throttling (chapter 10) -/

@[simp] theorem time_leavesStill : LeavesStill (.time p body) := fun s =>
  ⟨_, rfl, onUnit_still _ _ _ s fun _ => by
    grind [State.still, State.untilNt_still, State.heard_still, State.parentCell_still, State.modPort_still]⟩

@[simp] theorem timeCellSend_leavesStill : LeavesStill (.timeCellSend p) := fun s =>
  ⟨_, rfl, onUnit_still _ _ _ s fun _ => by grind [State.untilElapsed_still, State.modPort_still, State.sendControl_still]⟩

@[simp] theorem parentSilenceTimeout_leavesStill : LeavesStill .parentSilenceTimeout := fun s =>
  ⟨_, rfl, by grind [State.still, State.untilElapsed_still, State.timeState_still]⟩

@[simp] theorem holdoverExpiry_leavesStill : LeavesStill .holdoverExpiry := fun s =>
  ⟨_, rfl, by grind [State.untilElapsed_still, State.timeState_still]⟩

@[simp] theorem portEdgeGuard_leavesStill : LeavesStill (.portEdgeGuard p) := fun s =>
  ⟨_, rfl, onUnit_still _ _ _ s fun _ => by grind [State.untilNt_still, State.modPort_still, State.pump_still]⟩

@[simp] theorem usableShareEnd_leavesStill : LeavesStill (.usableShareEnd list) := fun s =>
  ⟨_, rfl, onUnit_still _ _ _ s fun _ => by grind [State.still, State.untilNt_still, State.pump_still]⟩

@[simp] theorem shaperRefill_leavesStill : LeavesStill .shaperRefill := fun s =>
  ⟨_, rfl, by grind [State.still, State.untilNt_still, foldl_still, State.pump_still]⟩

@[simp] theorem throttleCause_leavesStill : LeavesStill (.throttleCause power) := fun s =>
  ⟨_, rfl, (State.throttleCause_still _).trans (State.withPower_still s _)⟩

@[simp] theorem throttleLevelTick_leavesStill : LeavesStill (.throttleLevelTick power) := fun s => ⟨_, rfl, by
  extract_lets t
  have ht : t.still = s.still := (State.throttleCause_still _).trans ((State.withPower_still _ _).trans (State.untilNt_still _ _))
  clear_value t
  split
  · exact ht
  · split
    · split
      · exact (State.setLevel_still _ _).trans ht
      · exact ht
    · split
      · exact (State.endEvent_still _).trans ht
      · exact ht⟩

/-! ### The control units (chapter 12) -/

@[simp] theorem tokenRenewal_leavesStill : LeavesStill .tokenRenewal := fun s =>
  ⟨_, rfl, by grind [State.still, State.untilElapsed_still]⟩

@[simp] theorem tokenLeaseExpiry_leavesStill : LeavesStill .tokenLeaseExpiry := fun s =>
  ⟨_, rfl, by grind [State.untilElapsed_still, State.takeToken_still, State.rise_still]⟩

@[simp] theorem staleClaimNotice_leavesStill : LeavesStill (.staleClaimNotice unit) := fun s =>
  ⟨_, rfl, by grind [State.still, State.log_still, State.cuState_still]⟩

@[simp] theorem lockstepVote_leavesStill : LeavesStill (.lockstepVote a b c) := fun s =>
  ⟨_, rfl, by
    grind [State.still, State.voterFault_still, State.releaseOne_still, State.log_still, State.failUnit_still, State.rise_still,
      State.cxlEvent_still]⟩

@[simp] theorem hotStandbyDelta_leavesStill : LeavesStill .hotStandbyDelta := fun s =>
  ⟨_, rfl, by grind [State.releaseOne_still]⟩

@[simp] theorem cuParityError_leavesStill : LeavesStill (.cuParityError unit) := fun s =>
  ⟨_, rfl, onUnit_still _ _ _ s fun _ => by grind [State.still, State.injected_still, State.failUnit_still]⟩

@[simp] theorem unitRejoin_leavesStill : LeavesStill (.unitRejoin unit) := fun s =>
  ⟨_, rfl, onUnit_still _ _ _ s fun _ => by grind [State.still, State.modCu_still, State.cuState_still, State.final_still]⟩

/-! ### Security (chapter 11) -/

@[simp] theorem jtagUnlock_leavesStill : LeavesStill (.jtagUnlock level key sig) := fun s =>
  ⟨_, rfl, by grind [State.still, State.log_still, State.unlockFailed_still]⟩

@[simp] theorem secDebugRelock_leavesStill : LeavesStill (.secDebugRelock rd) := fun s =>
  ⟨_, rfl, still_ite (@State.relock_still s ..)⟩

@[simp] theorem sessionKeyRetire_leavesStill : LeavesStill (.sessionKeyRetire ctx peer) := fun s =>
  ⟨_, rfl, by grind [State.still, State.atElapsed_still]⟩

/-! ### Resets and start-up (chapter 14) -/

@[simp] theorem kindlingVerify_leavesStill : LeavesStill (.kindlingVerify unit) := fun s =>
  ⟨_, rfl, onUnit_still _ _ _ s fun _ => by grind [State.still, State.verifyUnit_still, State.kindlingEnds_still]⟩

@[simp] theorem tileWave_leavesStill : LeavesStill (.tileWave w) := fun s =>
  ⟨_, rfl, by grind [State.still, State.untilElapsed_still, foldl_still, State.modEmber_still]⟩

@[simp] theorem tilePowerGoodTimeout_leavesStill : LeavesStill (.tilePowerGoodTimeout tile) := fun s =>
  ⟨_, rfl, onUnit_still _ _ _ s fun _ => by grind [State.still, State.untilElapsed_still, State.fenceTile_still, State.log_still]⟩

@[simp] theorem decodeTableBroadcast_leavesStill : LeavesStill (.decodeTableBroadcast first second) := fun s =>
  ⟨_, rfl, by grind [State.still, State.untilElapsed_still, foldl_still, State.modEmber_still, State.log_still]⟩

@[simp] theorem stackTrainingDone_leavesStill : LeavesStill (.stackTrainingDone stack failed) := fun s =>
  ⟨_, rfl, by grind [State.still, foldl_still, State.trainChan_still, State.trainingEnds_still]⟩

/-! ### Supply episodes (chapter 14) -/

@[simp] theorem supplyWarningDetect_leavesStill : LeavesStill (.supplyWarningDetect h mv) := fun s =>
  ⟨_, rfl, by grind [State.supplyWarning_still]⟩

/-! ### The host port (chapter 13) -/

@[simp] theorem perstHotReset_leavesStill : LeavesStill .perstHotReset := fun s =>
  ⟨_, rfl, by grind [State.still, State.cxlDown_still]⟩

@[simp] theorem flr_leavesStill : LeavesStill .flr := fun s =>
  ⟨_, rfl, by grind [State.still, State.withIntc_still]⟩

@[simp] theorem cxlMemRequest_leavesStill : LeavesStill (.cxlMemRequest hpa op) := fun s =>
  ⟨_, rfl, by grind [State.still, State.endAtPoint_still, State.toHome_still]⟩

@[simp] theorem getEventRecords_leavesStill : LeavesStill (.getEventRecords log) := fun s =>
  ⟨_, rfl, State.onMailbox_still s _ fun _ => by grind [State.mbDone_still]⟩

@[simp] theorem clearEventRecords_leavesStill : LeavesStill (.clearEventRecords log handles) := fun s =>
  ⟨_, rfl, State.onMailbox_still s _ fun _ => by grind [State.still, State.mbDone_still]⟩

@[simp] theorem getEventInterruptPolicy_leavesStill : LeavesStill .getEventInterruptPolicy := leavesStill_of_mbDone fun _ => rfl

@[simp] theorem setEventInterruptPolicy_leavesStill : LeavesStill (.setEventInterruptPolicy policy) := fun s =>
  ⟨_, rfl, State.onMailbox_still s _ fun _ => by grind [State.still, State.mbDone_still]⟩

@[simp] theorem getFwInfo_leavesStill : LeavesStill .getFwInfo := leavesStill_of_mbDone fun _ => rfl

@[simp] theorem getTimestamp_leavesStill : LeavesStill .getTimestamp := leavesStill_of_mbDone fun _ => rfl

@[simp] theorem setTimestamp_leavesStill : LeavesStill (.setTimestamp stamp) := fun s =>
  ⟨_, rfl, State.onMailbox_still s _ fun _ => State.mbDone_still _ _ _⟩

@[simp] theorem getSupportedLogs_leavesStill : LeavesStill .getSupportedLogs := leavesStill_of_mbDone fun _ => rfl

@[simp] theorem getLog_leavesStill : LeavesStill .getLog := leavesStill_of_mbDone fun _ => rfl

@[simp] theorem identifyMemoryDevice_leavesStill : LeavesStill .identifyMemoryDevice := leavesStill_of_mbDone fun _ => rfl

@[simp] theorem getHealthInfo_leavesStill : LeavesStill .getHealthInfo := leavesStill_of_mbDone fun _ => rfl

@[simp] theorem getPoisonList_leavesStill : LeavesStill .getPoisonList := leavesStill_of_mbDone fun _ => rfl

@[simp] theorem getDcConfiguration_leavesStill : LeavesStill .getDcConfiguration := leavesStill_of_mbDone fun _ => rfl

@[simp] theorem getDcExtentList_leavesStill : LeavesStill .getDcExtentList := leavesStill_of_mbDone fun _ => rfl

@[simp] theorem addDcResponse_leavesStill : LeavesStill (.addDcResponse extents) := fun s =>
  ⟨_, rfl, State.onMailbox_still s _ fun _ => by grind [State.mbDone_still, foldl_still, State.modGrant_still]⟩

@[simp] theorem releaseDynamicCapacity_leavesStill : LeavesStill (.releaseDynamicCapacity extents) := fun s =>
  ⟨_, rfl, State.onMailbox_still s _ fun _ => by grind [State.still, State.mbDone_still, foldl_still, State.releaseExtent_still]⟩

@[simp] theorem releaseDcComplete_leavesStill : LeavesStill .releaseDcComplete := fun s =>
  ⟨_, rfl, by grind [State.still, foldl_still, State.modGrant_still, State.mbDone_still]⟩

@[simp] theorem mailboxUnsupported_leavesStill : LeavesStill (.mailboxUnsupported opcode) := fun s =>
  ⟨_, rfl, State.onMailbox_still s _ fun _ => by grind [State.mbDone_still]⟩

@[simp] theorem dcOfferTimeout_leavesStill : LeavesStill .dcOfferTimeout := fun s =>
  ⟨_, rfl, by grind [foldl_still, State.untilElapsed_still, State.dcEvent_still, State.modGrant_still, State.queueStep_still]⟩

@[simp] theorem doeDiscovery_leavesStill : LeavesStill (.doeDiscovery index) := fun s =>
  ⟨_, rfl, State.onMailbox_still s _ fun _ => State.doeDone_still _ _⟩

@[simp] theorem cdatTableAccess_leavesStill : LeavesStill (.cdatTableAccess entry) := fun s =>
  ⟨_, rfl, State.onMailbox_still s _ fun _ => State.doeDone_still _ _⟩

@[simp] theorem getVersion_leavesStill : LeavesStill (.getVersion req) := fun s =>
  ⟨_, rfl, State.onSpdm_still s _ _ _ _ fun _ => (State.spdmSay_still _ _).trans (State.spdmAt_still _ _ _)⟩

@[simp] theorem getCapabilities_leavesStill : LeavesStill (.getCapabilities req) := fun s =>
  ⟨_, rfl, State.onSpdm_still s _ _ _ _ fun _ => by grind [State.spdmError_still, State.spdmAt_still, State.spdmSay_still]⟩

@[simp] theorem negotiateAlgorithms_leavesStill : LeavesStill (.negotiateAlgorithms req) := fun s =>
  ⟨_, rfl, State.onSpdm_still s _ _ _ _ fun _ => by grind [State.spdmError_still, State.spdmAt_still, State.spdmSay_still]⟩

@[simp] theorem getDigests_leavesStill : LeavesStill (.getDigests req) := fun s =>
  ⟨_, rfl, State.onSigned_still s _ _ _ fun _ => (State.spdmSay_still _ _).trans (State.spdmCert_still _ _ _)⟩

@[simp] theorem getCertificate_leavesStill : LeavesStill (.getCertificate req) := fun s =>
  ⟨_, rfl, State.onSigned_still s _ _ _ fun _ => by grind [State.spdmError_still, State.spdmSay_still, State.spdmCert_still]⟩

@[simp] theorem challenge_leavesStill : LeavesStill (.challenge req) := fun s =>
  ⟨_, rfl, State.onSigned_still s _ _ _ fun _ => by grind [State.still, State.spdmError_still, State.draw_still, State.spdmSay_still]⟩

@[simp] theorem getMeasurements_leavesStill : LeavesStill (.getMeasurements req) := fun s =>
  ⟨_, rfl, State.onSigned_still s _ _ _ fun _ => by grind [State.still, State.spdmError_still, State.draw_still, State.spdmSay_still]⟩

/-! ### The interrupt controller (chapter 13) -/

@[simp] theorem intcClaim_leavesStill : LeavesStill (.intcClaim rd target) := fun s =>
  ⟨_, rfl, onUnit_still _ _ _ s fun _ => by grind [State.claim_still, State.emit_still]⟩

@[simp] theorem intcComplete_leavesStill : LeavesStill (.intcComplete rd target v) := fun s =>
  ⟨_, rfl, onUnit_still _ _ _ s fun _ => by grind [State.completeSrc_still]⟩

@[simp] theorem intcTest_leavesStill : LeavesStill (.intcTest rd v) := fun s =>
  ⟨_, rfl, still_ite (@State.rise_still s ..)⟩

@[simp] theorem intcSrcWrite_leavesStill : LeavesStill (.intcSrcWrite rd src v) := fun s =>
  ⟨_, rfl, onUnit_still _ _ _ s fun u => still_ite (@State.writeSrc_still u ..)⟩

/-! ### Bellows (chapter 15) -/

@[simp] theorem bellowsControlTick_leavesStill : LeavesStill (.bellowsControlTick reads) := fun s =>
  ⟨_, rfl, by
    grind [State.untilElapsed_still, State.injected_still, State.modBell_still, State.enterFailsafe_still, foldl_still, State.rise_still,
      State.throttleCause_still]⟩

@[simp] theorem bellClearFailsafe_leavesStill : LeavesStill (.bellClearFailsafe rd) := fun s =>
  ⟨_, rfl, still_ite (@State.clearFailsafe_still s ..)⟩

@[simp] theorem bellInjCtrl_leavesStill : LeavesStill (.bellInjCtrl rd v) := fun s =>
  ⟨_, rfl, still_ite (@State.bellInj_still s ..)⟩

@[simp] theorem bellInjExpiry_leavesStill : LeavesStill .bellInjExpiry := fun s =>
  ⟨_, rfl, by grind [State.untilElapsed_still, State.modBell_still]⟩

@[simp] theorem lifetimeSecondTick_leavesStill : LeavesStill .lifetimeSecondTick := fun s =>
  ⟨_, rfl, by grind [State.still, State.untilElapsed_still, State.wearSecond_still, State.hourPassed_still, State.modBell_still]⟩

@[simp] theorem checkpointWriteDone_leavesStill : LeavesStill (.checkpointWriteDone ok) := fun s => ⟨_, rfl, by
  split
  · rfl
  · split
    · split
      · exact State.modBell_still _ _
      · rfl
    · extract_lets k t
      have ht : t.still = s.still := State.putRecord_still _ _
      split
      · exact ((State.log_still _ _ _ _ _).trans (State.rise_still _ _)).trans ((State.modBell_still _ _).trans ht)
      · exact ht⟩

@[simp] theorem pmbusPoll_leavesStill : LeavesStill (.pmbusPoll regs) := fun s =>
  ⟨_, rfl, by grind [State.still, State.untilElapsed_still]⟩

@[simp] theorem pmbAlert_leavesStill : LeavesStill (.pmbAlert statusWord) := fun s =>
  ⟨_, rfl, by grind [State.still]⟩

/-! ### Registers (chapter 17) -/

@[simp] theorem errSel_leavesStill : LeavesStill (.errSel rd v) := fun s =>
  ⟨_, rfl, still_ite (@State.capture_still s ..)⟩

@[simp] theorem errEntryAdvance_leavesStill : LeavesStill (.errEntryAdvance rd) := fun s =>
  ⟨_, rfl, State.readAccess_still s _ _⟩

@[simp] theorem telemCapture_leavesStill : LeavesStill (.telemCapture rd) := fun s =>
  ⟨_, rfl, still_ite (@State.telemGo_still s ..)⟩

@[simp] theorem telemCaptureDone_leavesStill : LeavesStill .telemCaptureDone := fun s =>
  ⟨_, rfl, by grind [State.still, State.telemRead_still]⟩

@[simp] theorem counterReadClear_leavesStill : LeavesStill (.counterReadClear rd off) := fun s =>
  ⟨_, rfl, State.readAccess_still s _ _⟩

@[simp] theorem lowWordLatchRead_leavesStill : LeavesStill (.lowWordLatchRead rd off) := fun s =>
  ⟨_, rfl, State.readAccess_still s _ _⟩

/-! ### Other events -/

@[simp] theorem trstNAssert_leavesStill : LeavesStill .trstNAssert := fun s =>
  ⟨_, rfl, by grind [State.still, State.unlockFailed_still]⟩

@[simp] theorem jtagChallengeRead_leavesStill : LeavesStill .jtagChallengeRead := fun s =>
  ⟨_, rfl, by grind [State.still, State.draw_still, State.emit_still]⟩

@[simp] theorem cxlLinkTrained_leavesStill : LeavesStill (.cxlLinkTrained rate width flit256) := fun s =>
  ⟨_, rfl, by grind [State.still]⟩

@[simp] theorem cxlLinkDown_leavesStill : LeavesStill .cxlLinkDown := fun s =>
  ⟨_, rfl, State.cxlDown_still s⟩

@[simp] theorem coolantPulse_leavesStill : LeavesStill (.coolantPulse tach) := fun s =>
  ⟨_, rfl, by grind [State.modBell_still]⟩

@[simp] theorem vddAonLoss_leavesStill : LeavesStill .vddAonLoss := fun s =>
  ⟨_, rfl, by grind [State.still, State.freeBytes_still]⟩

@[simp] theorem clockPresenceChange_leavesStill : LeavesStill (.clockPresenceChange domain running) := fun s =>
  ⟨_, rfl, by grind [State.still]⟩

@[simp] theorem controllerFault_leavesStill : LeavesStill (.controllerFault g) := fun s =>
  ⟨_, rfl, by grind [State.fenceChan_still, State.settleCords_still]⟩

@[simp] theorem internalResetRelease_leavesStill : LeavesStill .internalResetRelease := fun s =>
  ⟨_, rfl, by grind [State.still, State.untilElapsed_still]⟩

@[simp] theorem fwUpdateWriteDone_leavesStill : LeavesStill (.fwUpdateWriteDone ctx tag) := fun s =>
  ⟨_, rfl, State.withRunning_still s _ _ _ _ fun _ _ => by grind [State.still, State.refuse_still, State.final_still]⟩

end

end Sys2Proof.Machine
end

