-- ==== Sys2Proof/Proofs/MemoryForm.lean ====
section
/-! Every row keeps memory in its canonical form (log 1): the rows that reach memory one by one, the others because they leave it as it is. -/

set_option Elab.async false

namespace Sys2Proof.Machine

/-- The row answers a next state, whose memory is canonical where it was before. -/
def KeepsMemOk (i : Instr) : Prop := ∀ s : State, s.memOk → ∃ t, exec i s = .next t ∧ t.memOk

theorem LeavesStill.keepsMemOk {i : Instr} (h : LeavesStill i) : KeepsMemOk i := fun s hs =>
  (h s).imp fun _ ht => ⟨ht.1, memOk_of_still ht.2 hs⟩

/-! ## Operations of these rows -/

theorem State.refuse_memOk (s : State) (k : Cmd) (status byte : Nat) (more : Bytes) (hs : s.memOk) : (s.refuse k status byte more).memOk :=
  memOk_of_still (State.refuse_still _ _ _ _ _) hs

/-- A check that refuses the command or lets it go on to `t`. -/
theorem memOk_refuse_else {s t : State} {c : Prop} [Decidable c] {k : Cmd} {status byte : Nat} {more : Bytes} (hs : s.memOk) (ht : t.memOk) :
    (if c then s.refuse k status byte more else t).memOk := by
  split
  · exact State.refuse_memOk _ _ _ _ _ hs
  · exact ht

theorem State.again_memOk (s : State) (k : Cmd) (hs : s.memOk) : (s.again k).memOk := memOk_of_still (State.again_still _ _) hs

theorem State.final_memOk (s : State) (k : Cmd) (status : Nat) (results : Bytes) (hs : s.memOk) : (s.final k status results).memOk :=
  memOk_of_still (State.final_still _ _ _ _) hs

theorem State.running_memOk (s : State) (k : Cmd) (hs : s.memOk) : (s.running k).memOk := memOk_of_still (State.running_still _ _) hs

theorem State.copyNext_memOk (s : State) (n : Nat) (ds : List Nat) (hs : s.memOk) : (s.copyNext n ds).memOk :=
  memOk_of_still (State.modCord_still _ _ _) (State.copyBlock_memOk s n _ ds hs)

theorem State.issue_memOk (s : State) (g : Nat) (q : MemReq) (hs : s.memOk) : (s.issue g q).memOk := by
  unfold State.issue
  extract_lets u v
  have hv : v.memOk := by grind [memOk_of_still, State.modChan_still]
  clear_value v
  split
  any_goals exact memOk_of_still (State.modChan_still _ _ _) hv
  split
  · exact State.deliver_memOk _ _ _ _ hv
  · split
    · exact State.written_memOk _ _ (State.lineWrite_memOk _ _ _ hv)
    · exact memOk_of_still (State.modChan_still _ _ _) hv

theorem State.prefetchWalk_memOk (s : State) (t : Nat) (r : Run) (hs : s.memOk) : (s.prefetchWalk t r).memOk := by
  unfold State.prefetchWalk
  split
  · exact memOk_of_still (State.modEmber_still _ _ _) hs
  · next a hi l _ =>
    extract_lets cached goes
    have hgoes : ∀ u next, (goes u next).still = u.still := fun u next => (State.modEmber_still _ _ _).trans (State.modFaultQ_still _ _ _)
    clear_value goes
    have hw := State.walk_memOk s t r.ctx a false hs
    split <;> grind [memOk_of_still, State.tbAdd_still, State.modEmber_still]

/-! ## Rows of one shape -/

/-- A request that takes its place at its home (R168). -/
theorem keepsMemOk_of_arrive {i : Instr} {n : Nat} {op : MsgOp} (h : ∀ s, exec i s = .next (s.meshOp n op fun m => s.arrive n m)) :
    KeepsMemOk i :=
  fun s hs => ⟨_, h s, State.meshOp_memOk s n _ _ (fun m => State.arrive_memOk s n m) hs⟩

/-- An answer, write-back or eviction that reaches its home (R169). -/
theorem keepsMemOk_of_answerComes {i : Instr} {n : Nat} {op : MsgOp} (h : ∀ s, exec i s = .next (s.meshOp n op fun m => s.answerComes n m)) :
    KeepsMemOk i :=
  fun s hs => ⟨_, h s, State.meshOp_memOk s n _ _ (fun m => State.answerComes_memOk s n m) hs⟩

/-- A descriptor of an Ember whose work is a kernel (chapter 7). -/
theorem keepsMemOk_of_kernel {i : Instr} {tile kind : Nat} {m : Bytes → Run → KM Unit}
    (h : ∀ s, exec i s = .next (s.onDesc tile kind fun r d u => u.kernel tile r d (m d r)))
    (hm : ∀ d r, KM.Rel (fun s t => s.memOk → t.memOk) (m d r)) : KeepsMemOk i :=
  fun s hs => ⟨_, h s, State.onDesc_memOk s _ _ _ (fun r d u => State.kernel_memOk u _ r d _ (hm d r)) hs⟩

/-! ## The rows -/

section
variable {via : Sender} {offset n ctx tag c point holder region slice cord line g idx stack tile h p purpose lane corrected cum bitmap seq vc units
  cause output list power unit a b level peer w mv hpa log stamp opcode index entry target src statusWord off rate width domain : Nat}
  {bytes raw key sig req : Bytes} {hostOk pass parity parityBad on ok flit256 tach running : Bool} {hostData hostImage hostTopology : Option Bytes}
  {rsp : SnoopRsp} {noise noiseA noiseB : List (Nat × Byte)} {task : CalTask} {rd : Reader} {v : Reg} {cell : Cell} {body : TimeBody}
  {lanes first second failed handles policy : List Nat} {extents : List Extent} {regs : List Regulator} {op : HostMemOp} {reads : SensorReads}
  {win : AliasWindow}

/-! ### Command transport (chapter 2) -/

@[simp] theorem commandWrite_keepsMemOk : KeepsMemOk (.commandWrite via offset bytes) := fun s hs =>
  ⟨_, rfl, of_ite (P := State.memOk) (State.intake_memOk s _ _ _ hs) hs⟩

@[simp] theorem cuOutput_keepsMemOk : KeepsMemOk (.cuOutput n) := fun s hs =>
  ⟨_, rfl, by grind [State.memOk, State.still, State.untilElapsed_still, State.handOver_memOk, State.modStage_still]⟩

/-! ### Contexts and their keys (chapters 2 and 11) -/

@[simp] theorem ctxBindKey_keepsMemOk : KeepsMemOk (.ctxBindKey ctx tag) := fun s hs =>
  ⟨_, rfl, State.withTaken_memOk s _ _ _ _ (fun k u hu => by
    have hr := State.poolRead_memOk u k.ctx (k.par 16 8) 128 rightRead hu
    generalize u.poolRead k.ctx (k.par 16 8) 128 rightRead = p at hr ⊢
    obtain ⟨v, r⟩ := p
    split
    · exact State.refuse_memOk _ _ _ _ _ hu
    · refine memOk_refuse_else hu (memOk_refuse_else hu (memOk_refuse_else hu ?_))
      cases r with
      | busy => exact State.again_memOk _ _ hr
      | fail st => exact State.refuse_memOk _ _ _ _ _ hr
      | ok blob =>
        refine memOk_of_still ?_ hr
        grind (splits := 20) [State.still, State.refuse_still, State.final_still, State.measured_still, State.modCtx_still]) hs⟩

/-! ### Cords and regions (chapters 3 and 4) -/

@[simp] theorem cordAlloc_keepsMemOk : KeepsMemOk (.cordAlloc ctx tag hostOk) := fun s hs =>
  ⟨_, rfl, State.withTaken_memOk s _ _ _ _ (fun k u hu => by
    have hw (l : List Nat) := State.writeOut_memOk u k (2 ^ 63 + k.par 16 6) (l.flatMap (natLE 2)) hostOk hu
    -- the numeral is hidden: the kernel would otherwise count it out
    generalize 2 ^ 63 + k.par 16 6 = a at hw ⊢
    grind [memOk_of_still, State.refuse_still, State.final_still, State.modCord_still, foldl_still]) hs⟩

@[simp] theorem cordFree_keepsMemOk : KeepsMemOk (.cordFree ctx tag hostData) := fun s hs =>
  ⟨_, rfl, State.withTaken_memOk s _ _ _ _ (fun k u hu => by
    -- the numeral is hidden: the kernel would otherwise count it out
    generalize 2 ^ 63 + k.par 16 6 = a
    grind [State.memOk, State.still, State.readIn_memOk, State.refuse_still, State.again_still, State.startZeroise_still, State.running_still,
      foldl_still]) hs⟩

@[simp] theorem regionDefine_keepsMemOk : KeepsMemOk (.regionDefine ctx tag hostData) := fun s hs =>
  ⟨_, rfl, State.withTaken_memOk s _ _ _ _ (fun k u hu => by
    have hr := State.readIn_memOk u k (k.par 16 8) (2 * k.par 24 2) hostData hu
    extract_lets c count iso conf sync
    generalize u.readIn k (k.par 16 8) (2 * count) hostData = p at hr ⊢
    obtain ⟨v, r⟩ := p
    refine memOk_refuse_else hu (memOk_refuse_else hu (memOk_refuse_else hu (memOk_refuse_else hu ?_)))
    split
    · exact State.refuse_memOk _ _ _ _ _ hu
    · cases r with
      | busy => exact State.again_memOk _ _ hr
      | fail st => exact State.refuse_memOk _ _ _ _ _ hr
      | ok b =>
        dsimp only
        split
        · exact State.refuse_memOk _ _ _ _ _ hr
        · generalize (v.regionRoom c && v.grantRoom c && (!sync || (!((cordNumbers b count).map cordSlice).any v.syncHomed &&
            ((cordNumbers b count).map cordSlice).eraseDups.length == count))) = room
          have hroom : ∀ t, (if room then (if iso then v.givePartitions c (cordNumbers b count) else some v) else none) = some t →
              t.still = v.still := by grind [State.givePartitions_still]
          split
          · split
            · exact State.refuse_memOk _ _ _ _ _ hr
            · next t ht =>
              refine State.final_memOk _ _ _ _ (memOk_of_still ?_ hr)
              rw [← hroom t ht]
              exact foldl_still (fun (t : State) n => t.modCord n _) (fun t n => State.modCord_still t n _) _ t
          · exact State.refuse_memOk _ _ _ _ _ hr) hs⟩

@[simp] theorem scrubRange_keepsMemOk : KeepsMemOk (.scrubRange ctx tag) := fun s hs => ⟨_, rfl, by
  split
  · refine State.withRunning_memOk s _ _ _ _ (fun k u hu => ?_) hs
    split
    · exact State.scrubOn_memOk _ _ _ hu
    · exact hu
  · refine State.withTaken_memOk s _ _ _ _ (fun k u hu => ?_) hs
    split
    · exact State.refuse_memOk _ _ _ _ _ hu
    · have hv := State.scrubOn_memOk u k { ctx, tag, next := k.par 16 8 } hu
      dsimp only
      split
      · exact State.running_memOk _ _ hv
      · exact hv⟩

@[simp] theorem zeroRange_keepsMemOk : KeepsMemOk (.zeroRange ctx tag) := fun s hs =>
  ⟨_, rfl, State.withTaken_memOk s _ _ _ _ (fun k u hu => by
    grind [State.memOk, State.still, State.refuse_still, State.zeroRange_memOk, State.zeroWhole_memOk]) hs⟩

/-! ### Plans, weights and sync words -/

@[simp] theorem planLoad_keepsMemOk : KeepsMemOk (.planLoad ctx tag) := fun s hs =>
  ⟨_, rfl, State.withTaken_memOk s _ _ _ _ (fun k u hu => by
    extract_lets a right
    have hv := State.poolRead_memOk u k.ctx a 64 rightRead hu
    clear_value right
    refine memOk_refuse_else hu ?_
    split
    · exact State.refuse_memOk _ _ _ _ _ hu
    · generalize u.poolRead k.ctx a 64 rightRead = p at hv ⊢
      obtain ⟨v, r⟩ := p
      cases r with
      | busy => exact State.again_memOk _ _ hv
      | fail st => exact State.refuse_memOk _ _ _ _ _ hv
      | ok head =>
        dsimp only
        split
        · exact State.refuse_memOk _ _ _ _ _ hv
        · have hw : (if 64 < fieldAt head 2 2 then v.deferOnce k else v).memOk := by grind [memOk_of_still, State.deferOnce_still]
          generalize (if 64 < fieldAt head 2 2 then v.deferOnce k else v) = w at hw ⊢
          have hx := State.poolRead_memOk w k.ctx a (64 * (if headerOk head then fieldAt head 2 2 else 1)) rightRead hw
          generalize w.poolRead k.ctx a (64 * (if headerOk head then fieldAt head 2 2 else 1)) rightRead = p at hx ⊢
          obtain ⟨x, r⟩ := p
          cases r with
          | busy => exact State.again_memOk _ _ hx
          | fail st => exact State.refuse_memOk _ _ _ _ _ hx
          | ok plan => grind [memOk_of_still, State.final_memOk, State.refuse_memOk, State.storePlan_still]) hs⟩

@[simp] theorem weightIngest_keepsMemOk : KeepsMemOk (.weightIngest ctx tag) := fun s hs =>
  ⟨_, rfl, State.withTaken_memOk s _ _ _ _ (fun k u hu => by
    have hf := State.rangeFree_memOk u k.ctx (k.par 24 8) (k.par 32 8) hu
    dsimp only
    repeat' split
    any_goals exact State.refuse_memOk _ _ _ _ _ hu
    · next h => exact State.again_memOk _ _ (by rwa [h] at hf)
    · next h => exact State.running_memOk _ _ (State.zeroPool_memOk _ _ _ (by rwa [h] at hf))) hs⟩

@[simp] theorem weightIngestDone_keepsMemOk : KeepsMemOk (.weightIngestDone ctx tag) := fun s hs =>
  ⟨_, rfl, State.withRunning_memOk s _ _ _ _ (fun k u hu => by
    split
    · next g x _ _ =>
      refine memOk_refuse_else hu (of_ite (P := State.memOk) hu ?_)
      have hv := State.poolRead_memOk u k.ctx g.source (g.len + 16) rightRead hu
      generalize u.poolRead k.ctx g.source (g.len + 16) rightRead = p at hv ⊢
      obtain ⟨v, r⟩ := p
      have hw := State.rangeFree_memOk v k.ctx g.dest g.len hv
      cases r with
      | busy => exact hv
      | fail st => grind [State.memOk, State.refuse_memOk]
      | ok d =>
        dsimp only
        generalize v.rangeFree k.ctx g.dest g.len = p at hw ⊢
        obtain ⟨w, free⟩ := p
        cases free with
        | false => exact hw
        | true =>
          refine memOk_refuse_else (State.zeroPool_memOk _ _ _ hw) (memOk_refuse_else hw (memOk_refuse_else hw ?_))
          have hx := State.poolWrite_memOk { w with sec := { w.sec with ingests := startIngest (w.sec.ingests.filter (· != g)) } } k.ctx
            (g.len / 64 + 2) g.dest (Config.sm4Gcm g.key g.iv [] (d.take g.len)).1 hw
          split
          · next h => exact State.refuse_memOk _ _ _ _ _ (by rwa [h] at hx)
          · next h => exact State.final_memOk _ _ _ _ (memOk_of_still (State.measured_still _ _ _) (by rwa [h] at hx))
    · exact hu) hs⟩

@[simp] theorem syncInit_keepsMemOk : KeepsMemOk (.syncInit ctx tag) := fun s hs =>
  ⟨_, rfl, State.withTaken_memOk s _ _ _ _ (fun k u hu => by
    grind [State.memOk, State.still, State.refuse_still, State.again_still, foldl_still, foldl_memOk, State.initLine_memOk, State.final_still]) hs⟩

/-! ### Routes, gates, shapers and policers (chapters 9 and 10) -/

@[simp] theorem gateInstall_keepsMemOk : KeepsMemOk (.gateInstall ctx tag hostData) := fun s hs =>
  ⟨_, rfl, State.withTaken_memOk s _ _ _ _ (fun k u hu => by
    grind [State.memOk, State.still, State.gateRefuse_still, State.readIn_memOk, State.refuse_still, State.log_still, State.setParent_still,
      State.final_still]) hs⟩

@[simp] theorem routeInstall_keepsMemOk : KeepsMemOk (.routeInstall ctx tag hostImage hostTopology) := fun s hs =>
  ⟨_, rfl, State.withTaken_memOk s _ _ _ _ (fun k u hu => by
    grind [State.memOk, State.still, State.refuse_still, State.readIn_memOk, State.setClasses_still, State.final_still]) hs⟩

@[simp] theorem epochSwitchAtT_keepsMemOk : KeepsMemOk .epochSwitchAtT := fun s hs =>
  ⟨_, rfl, by
    grind [State.memOk, State.still, State.untilNt_still, State.switchRoutes_still, State.restartLists_memOk, State.switchGates_still,
      State.final_still]⟩

/-! ### Maintenance, telemetry and the log -/

@[simp] theorem selftestComplete_keepsMemOk : KeepsMemOk (.selftestComplete ctx tag pass) := fun s hs =>
  ⟨_, rfl, State.withRunning_memOk s _ _ _ _ (fun k u hu => by
    grind [State.memOk, State.still, State.tested_memOk, State.final_still, State.draw_still, State.log_still]) hs⟩

@[simp] theorem retireComplete_keepsMemOk : KeepsMemOk (.retireComplete ctx tag) := fun s hs =>
  ⟨_, rfl, State.withRunning_memOk s _ _ _ _ (fun k u hu => by
    grind [State.memOk, State.still, State.flushAll_memOk, State.modChan_still, foldl_still, foldl_memOk, State.modCord_still, State.log_still,
      State.final_still]) hs⟩

@[simp] theorem fwUpdate_keepsMemOk : KeepsMemOk (.fwUpdate ctx tag hostData) := fun s hs =>
  ⟨_, rfl, State.withTaken_memOk s _ _ _ _ (fun k u hu => by
    grind [State.memOk, State.still, State.refuse_still, State.readIn_memOk, State.again_still, State.running_still, State.final_still]) hs⟩

@[simp] theorem telemRead_keepsMemOk : KeepsMemOk (.telemRead ctx tag hostOk) := fun s hs =>
  ⟨_, rfl, State.withTaken_memOk s _ _ _ _ (fun k u hu => by
    grind [State.memOk, State.still, State.refuse_still, State.writeOut_memOk, State.telemRead_still, State.final_still]) hs⟩

@[simp] theorem logRead_keepsMemOk : KeepsMemOk (.logRead ctx tag hostOk) := fun s hs =>
  ⟨_, rfl, State.withTaken_memOk s _ _ _ _ (fun k u hu => by
    grind [State.memOk, State.still, State.writeOut_memOk, State.refuse_still, State.final_still]) hs⟩

/-! ### Grants, epochs and cord moves (chapter 4) -/

@[simp] theorem epochStep_keepsMemOk : KeepsMemOk (.epochStep region) := fun s hs =>
  ⟨_, rfl, by grind [State.memOk, State.still, State.untilElapsed_still, State.epochStep_memOk]⟩

@[simp] theorem zeroiseSweep_keepsMemOk : KeepsMemOk (.zeroiseSweep slice) := fun s hs =>
  ⟨_, rfl, by
    grind [State.memOk, State.still, foldl_still, foldl_memOk, State.modChan_still, State.endWaits_still, State.recallCord_memOk,
      State.modCord_still]⟩

@[simp] theorem cordZeroised_keepsMemOk : KeepsMemOk (.cordZeroised cord) := fun s hs =>
  ⟨_, rfl, by
    grind [State.memOk, State.still, State.settleCords_still, State.zeroiseCord_memOk, State.clearShadow_still, State.modCord_still,
      State.log_still]⟩

@[simp] theorem cordCopyBlock_keepsMemOk : KeepsMemOk (.cordCopyBlock cord) := fun s hs => ⟨_, rfl, by
  grind [memOk_of_still, State.portTurn_still, State.copyNext_memOk]⟩

@[simp] theorem cordCutover_keepsMemOk : KeepsMemOk (.cordCutover cord) := fun s hs =>
  ⟨_, rfl, by
    grind [State.memOk, State.still, State.modCord_still, State.recallCord_memOk, foldl_still, foldl_memOk, State.modRegion_still,
      State.moveSync_still, State.modChan_still, State.startZeroise_still, State.cutoverReplies_still]⟩

/-! ### Coherence (chapter 6) -/

@[simp] theorem rdShared_keepsMemOk : KeepsMemOk (.rdShared n) := keepsMemOk_of_arrive fun _ => rfl

@[simp] theorem rdOwn_keepsMemOk : KeepsMemOk (.rdOwn n) := keepsMemOk_of_arrive fun _ => rfl

@[simp] theorem upgrade_keepsMemOk : KeepsMemOk (.upgrade n) := keepsMemOk_of_arrive fun _ => rfl

@[simp] theorem rdCur_keepsMemOk : KeepsMemOk (.rdCur n) := keepsMemOk_of_arrive fun _ => rfl

@[simp] theorem wb_keepsMemOk : KeepsMemOk (.wb n) := keepsMemOk_of_answerComes fun _ => rfl

@[simp] theorem evict_keepsMemOk : KeepsMemOk (.evict n) := keepsMemOk_of_answerComes fun _ => rfl

@[simp] theorem wrInv_keepsMemOk : KeepsMemOk (.wrInv n) := keepsMemOk_of_arrive fun _ => rfl

@[simp] theorem wrPart_keepsMemOk : KeepsMemOk (.wrPart n) := keepsMemOk_of_arrive fun _ => rfl

@[simp] theorem accLine_keepsMemOk : KeepsMemOk (.accLine n) := keepsMemOk_of_arrive fun _ => rfl

@[simp] theorem writeFill_keepsMemOk : KeepsMemOk (.writeFill n) := keepsMemOk_of_arrive fun _ => rfl

@[simp] theorem readDrain_keepsMemOk : KeepsMemOk (.readDrain n) := keepsMemOk_of_arrive fun _ => rfl

@[simp] theorem readFull_keepsMemOk : KeepsMemOk (.readFull n) := keepsMemOk_of_arrive fun _ => rfl

@[simp] theorem addSat_keepsMemOk : KeepsMemOk (.addSat n) := keepsMemOk_of_arrive fun _ => rfl

@[simp] theorem rspData_keepsMemOk : KeepsMemOk (.rspData n) := keepsMemOk_of_answerComes fun _ => rfl

@[simp] theorem rspAck_keepsMemOk : KeepsMemOk (.rspAck n) := keepsMemOk_of_answerComes fun _ => rfl

@[simp] theorem rspNone_keepsMemOk : KeepsMemOk (.rspNone n) := keepsMemOk_of_answerComes fun _ => rfl

@[simp] theorem hostSnoopResponse_keepsMemOk : KeepsMemOk (.hostSnoopResponse line rsp) := fun s hs =>
  ⟨_, rfl, by grind [State.memOk, State.still, State.emit_still, State.answerComes_memOk]⟩

@[simp] theorem minHoldExpiry_keepsMemOk : KeepsMemOk (.minHoldExpiry line) := fun s hs =>
  ⟨_, rfl, by grind [State.memOk, State.still, State.untilElapsed_still, State.serve_memOk]⟩

@[simp] theorem recallTimeout_keepsMemOk : KeepsMemOk (.recallTimeout line) := fun s hs =>
  ⟨_, rfl, by grind [State.memOk, State.still, State.atTimer_memOk, State.recallExpired_memOk]⟩

@[simp] theorem probeResend_keepsMemOk : KeepsMemOk (.probeResend line) := fun s hs =>
  ⟨_, rfl, by grind [State.memOk, State.still, foldl_still, foldl_memOk, State.atTimer_memOk, State.resendProbe_still, State.modLock_still]⟩

@[simp] theorem tripletWriteIssue_keepsMemOk : KeepsMemOk (.tripletWriteIssue n) := fun s hs =>
  ⟨_, rfl, by grind [State.memOk, State.still, State.homePartial_memOk, State.readVote_memOk, State.writeCopies_memOk, State.headDone_memOk]⟩

@[simp] theorem tripletReadVote_keepsMemOk : KeepsMemOk (.tripletReadVote n) := fun s hs =>
  ⟨_, rfl, by grind [State.memOk, State.still, State.readVote_memOk, State.headDone_memOk]⟩

/-! ### Memory channels (chapter 3) -/

@[simp] theorem schedulerIssue_keepsMemOk : KeepsMemOk (.schedulerIssue g) := fun s hs => ⟨_, rfl, by
  grind [memOk_of_still, State.modChan_still, State.issue_memOk]⟩

@[simp] theorem readDecode_keepsMemOk : KeepsMemOk (.readDecode g noise) := fun s hs =>
  ⟨_, rfl, by grind [State.memOk, State.still, State.modChan_still, State.readBack_memOk]⟩

@[simp] theorem partialWriteEntry_keepsMemOk : KeepsMemOk (.partialWriteEntry g) := fun s hs =>
  ⟨_, rfl, by grind [State.memOk, State.still, State.modChan_still, State.written_memOk, State.linePartial_memOk]⟩

@[simp] theorem mergeEntryAgeOut_keepsMemOk : KeepsMemOk (.mergeEntryAgeOut g line) := fun s hs =>
  ⟨_, rfl, by grind [State.memOk, State.still, State.atElapsed_memOk, State.modChan_still, foldl_still, foldl_memOk, State.flushEntry_memOk]⟩

@[simp] theorem mergeRmwComplete_keepsMemOk : KeepsMemOk (.mergeRmwComplete g) := fun s hs =>
  ⟨_, rfl, by grind [State.memOk, State.still, State.modChan_still, State.flushEntry_memOk]⟩

@[simp] theorem blockFillDone_keepsMemOk : KeepsMemOk (.blockFillDone g) := fun s hs =>
  ⟨_, rfl, State.fillDone_memOk s _ hs⟩

@[simp] theorem frequencyChange_keepsMemOk : KeepsMemOk (.frequencyChange stack) := fun s hs =>
  ⟨_, rfl, by
    grind [State.memOk, State.still, State.atElapsed_memOk, State.endChange_memOk, foldl_still, foldl_memOk, State.modChan_still,
      State.beginChange_memOk]⟩

@[simp] theorem channelEdgeGuard_keepsMemOk : KeepsMemOk (.channelEdgeGuard g) := fun s hs =>
  ⟨_, rfl, by grind [State.memOk, State.still, State.untilNt_still, State.guardChan_memOk]⟩

/-! ### Page walks and faults (chapter 5) -/

@[simp] theorem tbMissWalkDone_keepsMemOk : KeepsMemOk (.tbMissWalkDone tile) := fun s hs => ⟨_, rfl, by
  split
  · exact hs
  · split
    · split
      · exact hs
      · exact State.prefetchWalk_memOk _ _ _ hs
    · split
      · exact hs
      · next r _ _ cva write _ _ =>
        have hw := State.walk_memOk s tile r.ctx cva write hs
        split <;> grind [memOk_of_still, State.modFaultQ_still, State.tbAdd_still, State.modEmber_still, State.enterFault_still]⟩

/-! ### Embers (chapter 7) -/

@[simp] theorem gemvStream_keepsMemOk : KeepsMemOk (.gemvStream tile) := keepsMemOk_of_kernel (fun _ => rfl) passRel_memOk.gemv

@[simp] theorem attnDecode_keepsMemOk : KeepsMemOk (.attnDecode tile) := keepsMemOk_of_kernel (fun _ => rfl) passRel_memOk.attn

@[simp] theorem softmaxMerge_keepsMemOk : KeepsMemOk (.softmaxMerge tile) := keepsMemOk_of_kernel (fun _ => rfl) passRel_memOk.merge

@[simp] theorem reduceAdd_keepsMemOk : KeepsMemOk (.reduceAdd tile) := keepsMemOk_of_kernel (fun _ => rfl) fun d _ =>
  passRel_memOk.bind (passRel_memOk.accRow d (passRel_memOk.plain _) _ _ _) fun _ => passRel_memOk.counter d

@[simp] theorem gather_keepsMemOk : KeepsMemOk (.gather tile) := keepsMemOk_of_kernel (fun _ => rfl) passRel_memOk.gather

@[simp] theorem scatterAcc_keepsMemOk : KeepsMemOk (.scatterAcc tile) := keepsMemOk_of_kernel (fun _ => rfl) passRel_memOk.scatter

@[simp] theorem convert_keepsMemOk : KeepsMemOk (.convert tile) := keepsMemOk_of_kernel (fun _ => rfl) passRel_memOk.convert

@[simp] theorem topk_keepsMemOk : KeepsMemOk (.topk tile) := keepsMemOk_of_kernel (fun _ => rfl) passRel_memOk.top

@[simp] theorem wait_keepsMemOk : KeepsMemOk (.wait tile) := fun s hs =>
  ⟨_, rfl, State.onDesc_memOk s _ _ _ (fun r d u => by
    grind [State.memOk, State.still, State.runError_still, State.modRun_still, State.emberSync_memOk, State.descDone_still,
      State.modEmber_still]) hs⟩

@[simp] theorem signal_keepsMemOk : KeepsMemOk (.signal tile) := fun s hs =>
  ⟨_, rfl, State.onDesc_memOk s _ _ _ (fun r d u => by
    grind [State.memOk, State.still, State.emberSync_memOk, State.runError_still, State.descDone_still]) hs⟩

@[simp] theorem endPlan_keepsMemOk : KeepsMemOk (.endPlan tile) := fun s hs =>
  ⟨_, rfl, State.onDesc_memOk s _ _ _ (fun r d u => by grind [State.memOk, State.still, State.descDone_still, State.finishRun_memOk]) hs⟩

@[simp] theorem emberError_keepsMemOk : KeepsMemOk (.emberError tile parity) := fun s hs =>
  ⟨_, rfl, onUnit_memOk _ _ _ s (fun u hu => by
    grind [State.memOk, State.still, State.parityError_still, State.recordReady_memOk, State.finishRun_memOk]) hs⟩

/-! ### Fabric links and packets (chapter 9) -/

@[simp] theorem packetDeliver_keepsMemOk : KeepsMemOk (.packetDeliver p) := fun s hs =>
  ⟨_, rfl, onUnit_memOk _ _ _ s (fun u hu => by
    grind [State.memOk, State.still, State.modPort_still, State.freed_still, State.e2eDiscard_still, State.unsealed_still, State.passOn_memOk]) hs⟩

/-! ### Network time, slots and throttling (chapter 10) -/

@[simp] theorem gateSlotEdge_keepsMemOk : KeepsMemOk (.gateSlotEdge list) := fun s hs =>
  ⟨_, rfl, onUnit_memOk _ _ _ s (fun u hu => by
    grind [State.memOk, State.still, State.untilNt_still, State.leaveSlot_memOk, State.cycleBegins_still, State.enterSlot_memOk]) hs⟩

/-! ### The control units (chapter 12) -/

@[simp] theorem hearthLost_keepsMemOk : KeepsMemOk (.hearthLost h) := fun s hs =>
  ⟨_, rfl, by
    grind [State.memOk, State.still, State.loseStage_still, State.log_still, State.rise_still, State.cxlEvent_still, State.loseHomes_still,
      foldl_still, foldl_memOk, State.fenceEmber_still, State.stopChan_still, State.flushAll_memOk, State.modChan_still, State.linkDown_still,
      State.modFaultQ_still, State.passHomes_still, State.loseBlocks_still, State.settleCords_still, State.settleCalibrations_still,
      State.trainingEnds_still, State.nextHreset_memOk]⟩

/-! ### Security (chapter 11) -/

@[simp] theorem secDebugDisable_keepsMemOk : KeepsMemOk (.secDebugDisable rd) := fun s hs =>
  ⟨_, rfl, of_ite (P := State.memOk) (State.debugOff_memOk s hs) hs⟩

/-! ### Resets and start-up (chapter 14) -/

@[simp] theorem powerOnReset_keepsMemOk : KeepsMemOk .powerOnReset := fun s hs => ⟨_, rfl, State.toReset_memOk s _ hs⟩

@[simp] theorem externalReset_keepsMemOk : KeepsMemOk .externalReset := fun s hs => ⟨_, rfl, State.toReset_memOk s _ hs⟩

@[simp] theorem supplyReset_keepsMemOk : KeepsMemOk .supplyReset := fun s hs => ⟨_, rfl, State.toReset_memOk s _ hs⟩

@[simp] theorem clkrstReset_keepsMemOk : KeepsMemOk (.clkrstReset rd v) := fun s hs =>
  ⟨_, rfl, of_ite (P := State.memOk) (State.toReset_memOk s _ hs) hs⟩

@[simp] theorem firmwareReady_keepsMemOk : KeepsMemOk .firmwareReady := fun s hs =>
  ⟨_, rfl, by grind [State.memOk, State.still, State.nextHreset_memOk]⟩

@[simp] theorem clkrstHreset_keepsMemOk : KeepsMemOk (.clkrstHreset rd v) := fun s hs =>
  ⟨_, rfl, of_ite (P := State.memOk) (foldl_memOk _ (fun t h => State.askPartial_memOk t h) _ s hs) hs⟩

@[simp] theorem partialResetComplete_keepsMemOk : KeepsMemOk .partialResetComplete := fun s hs =>
  ⟨_, rfl, by grind [State.memOk, State.still, State.endPartial_memOk]⟩

@[simp] theorem clkrstEnvelope_keepsMemOk : KeepsMemOk (.clkrstEnvelope rd v) := fun s hs =>
  ⟨_, rfl, of_ite (P := State.memOk) (State.burnEnvelope_memOk s _ hs) hs⟩

@[simp] theorem envelopeBurnDone_keepsMemOk : KeepsMemOk .envelopeBurnDone := fun s hs =>
  ⟨_, rfl, by grind [State.memOk, State.still]⟩

/-! ### Supply episodes (chapter 14) -/

@[simp] theorem supplyBankTimer_keepsMemOk : KeepsMemOk .supplyBankTimer := fun s hs =>
  ⟨_, rfl, by
    grind [State.memOk, State.still, State.untilElapsed_still, foldl_still, foldl_memOk, State.drainChan_memOk, State.modChan_still,
      State.rise_still, State.cxlEvent_still]⟩

@[simp] theorem supplyRelease_keepsMemOk : KeepsMemOk .supplyRelease := fun s hs =>
  ⟨_, rfl, by
    grind [State.memOk, State.still, State.untilElapsed_still, State.pass_still, foldl_still, foldl_memOk, State.modChan_still,
      State.serveChan_memOk]⟩

@[simp] theorem supplyEpisodeEnd_keepsMemOk : KeepsMemOk .supplyEpisodeEnd := fun s hs =>
  ⟨_, rfl, by
    grind [State.memOk, State.still, State.untilElapsed_still, State.untilNt_still, State.restartLists_memOk, foldl_still, foldl_memOk,
      State.portUp_still, State.log_still, State.cxlEvent_still, State.throttleCause_still]⟩

/-! ### Registers (chapter 17) -/

@[simp] theorem errInjCtrl_keepsMemOk : KeepsMemOk (.errInjCtrl rd v) := fun s hs =>
  ⟨_, rfl, of_ite (P := State.memOk) (State.errInj_memOk s _ hs) hs⟩

@[simp] theorem highWordWrite_keepsMemOk : KeepsMemOk (.highWordWrite rd off v) := fun s hs =>
  ⟨_, rfl, by grind [State.memOk, State.still, State.writeAccess_memOk]⟩

@[simp] theorem registerAliasWrite_keepsMemOk : KeepsMemOk (.registerAliasWrite rd win off v) := fun s hs =>
  ⟨_, rfl, of_ite (P := State.memOk) (State.bar0Write_memOk s _ _ _ _ hs) hs⟩

@[simp] theorem registerWrite_keepsMemOk : KeepsMemOk (.registerWrite rd off v) := fun s hs =>
  ⟨_, rfl, State.writeAccess_memOk s _ _ _ hs⟩

/-! ### Other events -/

@[simp] theorem reportSigningDone_keepsMemOk : KeepsMemOk (.reportSigningDone ctx tag hostOk) := fun s hs =>
  ⟨_, rfl, State.withRunning_memOk s _ _ _ _ (fun k u hu => by
    grind [State.memOk, State.still, State.refuse_still, State.draw_still, State.modCtx_still, State.writeOut_memOk, State.final_still]) hs⟩

end

/-- Every command keeps memory in its canonical form. -/
theorem keepsMemOk (i : Instr) : KeepsMemOk i := by
  cases i <;> simp [LeavesStill.keepsMemOk]

theorem step_memOk {s t : State} (hs : s.memOk) (hstep : step s = .next t) : t.memOk := by
  unfold step at hstep
  split at hstep
  · cases hstep
    exact memOk_of_still (State.pass_still s 2) hs
  · next i rest _ =>
    obtain ⟨u, hu, hok⟩ := keepsMemOk i { s with pending := rest } hs
    cases hu.symm.trans hstep
    exact hok

/-- Settles O4: each row of the table keeps the canonical form, and so does the tick of a step on an empty queue. -/
theorem memoryStaysCanonical : Obligations.MemoryStaysCanonical := by
  unfold Obligations.MemoryStaysCanonical
  exact fun _ _ hs hstep => step_memOk hs hstep

end Sys2Proof.Machine
end

