-- ==== Sys2Proof/Proofs/CommandFrame.lean ====
section
/-! What writing a reply leaves unchanged: the commands in flight and the duplicate windows. One lemma for each operation that the writing of
a reply can reach at a stage, a link, a home or a channel. -/

set_option Elab.async false

namespace Sys2Proof.Machine.State

/-- The commands in flight (R37) and the duplicate windows (R48). -/
def commands (s : State) : List Cmd × Tab (List WinEntry) := (s.cmds, s.windows)

theorem foldl_commands {α : Type} {f : State → α → State} (h : ∀ t x, (f t x).commands = t.commands) (l : List α) (s : State) :
    (l.foldl f s).commands = s.commands := by
  induction l generalizing s with
  | nil => rfl
  | cons a l ih => rw [List.foldl_cons, ih, h]

theorem foldl_fst_commands {α β : Type} {f : State × β → α → State × β} (h : ∀ p x, (f p x).1.commands = p.1.commands) (l : List α)
    (p : State × β) : (l.foldl f p).1.commands = p.1.commands := by
  induction l generalizing p with
  | nil => rfl
  | cons a l ih => rw [List.foldl_cons, ih, h]

section
variable (s : State)

/-! ## Single units, counters and interrupts -/

theorem modChan_commands (g : Nat) (f : Chan → Chan) : (s.modChan g f).commands = s.commands := rfl
theorem modEmber_commands (t : Nat) (f : Ember → Ember) : (s.modEmber t f).commands = s.commands := rfl
theorem modSlice_commands (i : Nat) (f : Slice → Slice) : (s.modSlice i f).commands = s.commands := rfl
theorem modPort_commands (p : Nat) (f : Port → Port) : (s.modPort p f).commands = s.commands := rfl
theorem modCord_commands (n : Nat) (f : Cord → Cord) : (s.modCord n f).commands = s.commands := rfl
theorem modCtx_commands (c : Nat) (f : Ctx → Ctx) : (s.modCtx c f).commands = s.commands := rfl
theorem modPlan_commands (k : Nat) (f : Plan → Plan) : (s.modPlan k f).commands = s.commands := rfl
theorem modStage_commands (h : Nat) (f : Stage → Stage) : (s.modStage h f).commands = s.commands := rfl
theorem emit_commands (e : OutEvent) : (s.emit e).commands = s.commands := rfl

theorem msix_commands (v : Nat) : (s.msix v).commands = s.commands := by
  grind [msix, commands, emit_commands]

theorem withIntc_commands (c : Intc) : (s.withIntc c).commands = s.commands := by
  grind [withIntc, commands, msix_commands, foldl_commands]

theorem modSrc_commands (n : Nat) (f : Src → Src) : (s.modSrc n f).commands = s.commands := by
  grind [modSrc, withIntc_commands]

theorem rise_commands (n : Nat) : (s.rise n).commands = s.commands := by
  grind [rise, modSrc_commands]

theorem log_commands (event : Nat) (ctx dpa : Option Nat) (detail : Bytes) : (s.log event ctx dpa detail).commands = s.commands := rfl
theorem injected_commands (code unit : Nat) : (s.injected code unit).commands = s.commands := rfl

theorem cxlEvent_commands (n kind addr reason : Nat) : (s.cxlEvent n kind addr reason).commands = s.commands := by
  grind [cxlEvent, commands, msix_commands]

theorem dropReply_commands (h : Nat) : (s.dropReply h).commands = s.commands := by
  grind [dropReply, modStage_commands, rise_commands]

theorem undeliver_commands (h c : Nat) : (s.undeliver h c).commands = s.commands := by
  rw [undeliver, dropReply_commands, modCtx_commands]

/-! ## Memory channels -/

theorem hostPoison_commands (l : Nat) : (s.hostPoison l).commands = s.commands := by
  grind [hostPoison, commands]

theorem hostFailure_commands (l reason : Nat) : (s.hostFailure l reason).commands = s.commands := by
  grind [hostFailure, cxlEvent_commands]

theorem putLine_commands (l : Nat) (data : Bytes) (cinder : Bool) : (s.putLine l data cinder).commands = s.commands := by
  grind [putLine, commands, modChan_commands, injected_commands]

theorem putCinder_commands (l : Nat) : (s.putCinder l).commands = s.commands := by
  grind [putCinder, hostPoison_commands, putLine_commands]

theorem lineError_commands (l event reason : Nat) (ctx : Option Nat) : (s.lineError l event reason ctx).commands = s.commands := by
  grind [lineError, modChan_commands, rise_commands, log_commands, hostFailure_commands]

theorem countCorrected_commands (g : Nat) : (s.countCorrected g).commands = s.commands := rfl

theorem corrected_commands (l : Nat) : (s.corrected l).commands = s.commands := by
  grind [corrected, countCorrected_commands, cxlEvent_commands]

theorem readDram_commands (l : Nat) (ctx : Option Nat) (noise : List (Nat × Byte)) (later : Bool) :
    (s.readDram l ctx noise later).1.commands = s.commands := by
  grind [readDram, commands, modChan_commands, putLine_commands, putCinder_commands, lineError_commands, corrected_commands]

theorem stopChan_commands (g : Nat) : (s.stopChan g).commands = s.commands := by
  grind [stopChan, modChan_commands, modCord_commands, foldl_commands]

theorem fenceChan_commands (g cause : Nat) : (s.fenceChan g cause).commands = s.commands := by
  grind [fenceChan, rise_commands, log_commands, stopChan_commands]

theorem bitmapWrite_commands (g idx : Nat) : (s.bitmapWrite g idx).commands = s.commands := by
  grind [bitmapWrite, commands, modChan_commands, injected_commands]

theorem bitmapRewrite_commands (g idx copy : Nat) : (s.bitmapRewrite g idx copy).commands = s.commands := rfl

theorem bitmapCorrect_commands (g idx copy : Nat) (d : Decoded) : (s.bitmapCorrect g idx copy d).commands = s.commands := by
  grind [bitmapCorrect, countCorrected_commands, bitmapRewrite_commands]

theorem bitmapRepair_commands (g idx copy : Nat) (d : Decoded) : (s.bitmapRepair g idx copy d).commands = s.commands := by
  grind [bitmapRepair, log_commands, bitmapRewrite_commands]

theorem bitmapLost_commands (g idx : Nat) : (s.bitmapLost g idx).commands = s.commands := by
  grind [bitmapLost, commands, modChan_commands, log_commands, rise_commands, fenceChan_commands]

theorem bitmapCheck_commands (g idx : Nat) (kept : Bool) (na nb : List (Nat × Byte)) : (s.bitmapCheck g idx kept na nb).1.commands = s.commands := by
  grind [bitmapCheck, bitmapCorrect_commands, bitmapRepair_commands, bitmapLost_commands]

theorem bitmapCache_commands (g idx : Nat) (dirty : Bool) : (s.bitmapCache g idx dirty).commands = s.commands := by
  grind [bitmapCache, modChan_commands, bitmapWrite_commands]

theorem bitmapTouch_commands (l : Nat) : (s.bitmapTouch l).1.commands = s.commands := by
  grind [bitmapTouch, bitmapCheck_commands, bitmapCache_commands]

theorem fillBlock_commands (l : Nat) (data : Bytes) (cinder : Bool) : (s.fillBlock l data cinder).commands = s.commands := by
  grind [fillBlock, commands, putLine_commands, putCinder_commands, bitmapCache_commands, foldl_commands]

theorem writeDram_commands (l : Nat) (data : Bytes) (cinder : Bool) : (s.writeDram l data cinder).commands = s.commands := by
  grind [writeDram, putLine_commands, putCinder_commands, fillBlock_commands]

theorem mergeLost_commands (e : MergeEnt) : (s.mergeLost e).commands = s.commands := by
  grind [mergeLost, modChan_commands, rise_commands, log_commands, hostFailure_commands, foldl_commands]

theorem flushEntry_commands (e : MergeEnt) (noise : List (Nat × Byte)) : (s.flushEntry e noise).1.commands = s.commands := by
  grind [flushEntry, mergeLost_commands, writeDram_commands, fillBlock_commands, readDram_commands, putLine_commands]

theorem completeRmw_commands (l : Nat) (noise : List (Nat × Byte)) : (s.completeRmw l noise).1.commands = s.commands := by
  grind [completeRmw, modChan_commands, flushEntry_commands]

theorem flushLine_commands (l : Nat) (noise : List (Nat × Byte)) : (s.flushLine l noise).1.commands = s.commands := by
  grind [flushLine, completeRmw_commands, modChan_commands, flushEntry_commands, foldl_commands]

theorem readLine_commands (l : Nat) (ctx : Option Nat) (noise : List (Nat × Byte)) : (s.readLine l ctx noise).1.commands = s.commands := by
  grind [readLine, readDram_commands, bitmapTouch_commands, flushLine_commands]

theorem writeLine_commands (l : Nat) (data : Bytes) : (s.writeLine l data).1.commands = s.commands := by
  grind [writeLine, modChan_commands, bitmapTouch_commands, writeDram_commands]

theorem makeCinder_commands (l : Nat) : (s.makeCinder l).commands = s.commands := by
  grind [makeCinder, modChan_commands, bitmapTouch_commands, writeDram_commands]

theorem flushOldest_commands (g : Nat) : (s.flushOldest g).commands = s.commands := by
  grind [flushOldest, flushLine_commands]

theorem writePartial_commands (l ctx : Nat) (data : Bytes) (mask : List Bool) : (s.writePartial l ctx data mask).1.commands = s.commands := by
  grind [writePartial, bitmapTouch_commands, modChan_commands, injected_commands, flushLine_commands, flushOldest_commands]

/-! ## Fabric links -/

theorem sealed_commands (p : Nat) (k : Packet) : (s.sealed p k).1.commands = s.commands := by
  grind [sealed, modPort_commands, injected_commands]

theorem transmit_commands (p : Nat) (conf : Bool) (wire : Bytes) : (s.transmit p conf wire).commands = s.commands := by
  grind [transmit, modPort_commands, injected_commands, emit_commands]

theorem sendCell_commands (p : Nat) (k : Packet) : (s.sendCell p k).commands = s.commands := by
  grind [sendCell, commands, modPort_commands, modCtx_commands, transmit_commands]

theorem pumpN_commands (p n : Nat) : (s.pumpN p n).commands = s.commands := by
  induction n generalizing s with
  | zero => rfl
  | succ n ih => grind [pumpN, modPort_commands, sendCell_commands]

theorem markWaits_commands (p : Nat) : (s.markWaits p).commands = s.commands := rfl

theorem pump_commands (p : Nat) : (s.pump p).commands = s.commands := by
  grind [pump, modPort_commands, pumpN_commands, markWaits_commands]

theorem queueOut_commands (p : Nat) (k : Packet) : (s.queueOut p k).commands = s.commands := by
  grind [queueOut, modPort_commands, pump_commands]

theorem source_commands (k : Packet) : (s.source k).1.commands = s.commands := by
  grind [source, sealed_commands, queueOut_commands]

theorem newTxn_commands : s.newTxn.1.commands = s.commands := rfl

theorem request_commands (k : Packet) (tile reply : Option Nat) : (s.request k tile reply).1.commands = s.commands := by
  grind [request, commands, source_commands, newTxn_commands]

theorem replyFailed_commands (x : Nat) : (s.replyFailed x).commands = s.commands := by
  grind [replyFailed, commands, undeliver_commands]

/-! ## Homes -/

theorem setDir_commands (l : Nat) (e : Option DirEnt) : (s.setDir l e).commands = s.commands := rfl
theorem modLock_commands (l : Nat) (f : Lock → Lock) : (s.modLock l f).commands = s.commands := rfl

theorem addSharer_commands (l : Nat) (e : DirEnt) (ep : Nat) : (s.addSharer l e ep).commands = s.commands := by
  grind [addSharer, modSlice_commands, setDir_commands]

theorem touch_commands (l : Nat) : (s.touch l).commands = s.commands := by
  grind [touch, commands]

theorem replyEnds_commands (x : Nat) : (s.replyEnds x).commands = s.commands := by
  unfold replyEnds
  dsimp only
  split
  · rfl
  next o _ =>
    split
    next k _ => grind [commands, request_commands, undeliver_commands]
    next => grind [commands]

theorem replyWritten_commands (m : Req) (op : MsgOp) : (s.replyWritten m op).commands = s.commands := by
  grind [replyWritten, undeliver_commands, replyFailed_commands, replyEnds_commands]

theorem finish_commands (m : Req) (op : MsgOp) (reason aux : Nat) (data : Bytes) : (s.finish m op reason aux data).commands = s.commands := by
  grind [finish, commands, replyWritten_commands]

theorem sendProbe_commands (l : Nat) (m : Req) (p : ProbeKind × Nat) : (s.sendProbe l m p).1.commands = s.commands := by
  grind [sendProbe, commands, emit_commands, injected_commands, source_commands, newTxn_commands]

theorem sendProbes_commands (l : Nat) (m : Req) (ts : List (ProbeKind × Nat)) : (s.sendProbes l m ts).commands = s.commands := by
  grind [sendProbes, modLock_commands, sendProbe_commands, foldl_fst_commands]

theorem lineWrite_commands (l : Nat) (data : Bytes) : (s.lineWrite l data).1.commands = s.commands := by
  grind [lineWrite, writeLine_commands, foldl_commands]

theorem linePartial_commands (l ctx : Nat) (data : Bytes) (mask : List Bool) : (s.linePartial l ctx data mask).1.commands = s.commands := by
  grind [linePartial, writePartial_commands, foldl_commands]

theorem lineCinder_commands (l : Nat) : (s.lineCinder l).commands = s.commands := by
  grind [lineCinder, makeCinder_commands, foldl_commands]

theorem tripletMismatch_commands (l i : Nat) : (s.tripletMismatch l i).commands = s.commands := by
  grind [tripletMismatch, commands, rise_commands, log_commands]

theorem writeCopies_commands (l : Nat) (data : Bytes) : (s.writeCopies l data).1.commands = s.commands := by
  grind [writeCopies, commands, injected_commands, lineWrite_commands, foldl_fst_commands]

theorem readVote_commands (l : Nat) (ctx : Option Nat) : (s.readVote l ctx).1.commands = s.commands := by
  grind [readVote, commands, rise_commands, log_commands, lineError_commands, readLine_commands, lineWrite_commands, lineCinder_commands,
    tripletMismatch_commands, foldl_commands, foldl_fst_commands]

theorem homeRead_commands (l : Nat) (ctx : Option Nat) : (s.homeRead l ctx).1.commands = s.commands := by
  grind [homeRead, readVote_commands, touch_commands, readLine_commands]

theorem homePartial_commands (l ctx : Nat) (data : Bytes) (mask : List Bool) : (s.homePartial l ctx data mask).1.commands = s.commands := by
  grind [homePartial, linePartial_commands, writeCopies_commands, readVote_commands]

theorem startRun_commands (k : Nat) (p : Plan) (triggered : Bool) (cmd : Option (Nat × Nat)) (st : PlanState) (origin time : Nat) :
    (s.startRun k p triggered cmd st origin time).commands = s.commands := rfl

theorem fireArm_commands (a : Arm) : (s.fireArm a).commands = s.commands := by
  grind [fireArm, commands, startRun_commands, modPlan_commands, log_commands]

theorem setWord_commands (w : Nat) (x : Shadow) : (s.setWord w x).commands = s.commands := rfl

theorem setFlag_commands (w : Nat) : (s.setFlag w).commands = s.commands := by
  grind [setFlag, modSlice_commands, setWord_commands]

theorem descDone_commands (t next : Nat) : (s.descDone t next).commands = s.commands := by
  grind [descDone, modEmber_commands, modCtx_commands]

theorem waitServed_commands (t : Nat) : (s.waitServed t).commands = s.commands := by
  grind [waitServed, descDone_commands]

theorem waitLeaves_commands (w : SyncWait) : (s.waitLeaves w).commands = s.commands := by
  grind [waitLeaves, commands]

theorem endWait_commands (w : SyncWait) (status : Nat) (value : Bytes) : (s.endWait w status value).commands = s.commands := by
  grind [endWait, waitLeaves_commands, modEmber_commands, waitServed_commands, finish_commands]

theorem releaseWaits_commands (w : Nat) (value : Bytes) (l : List SyncWait) : (s.releaseWaits w value l).commands = s.commands := by
  induction l generalizing s with
  | nil => rfl
  | cons x t ih => grind [releaseWaits, commands, endWait_commands, setWord_commands]

theorem filled_commands (w : Nat) (value : Bytes) : (s.filled w value).commands = s.commands := by
  grind [filled, fireArm_commands, setWord_commands, releaseWaits_commands, foldl_commands]

theorem shadowError_commands (w h : Nat) : (s.shadowError w h).commands = s.commands := by
  grind [shadowError, modChan_commands, rise_commands, log_commands, lineCinder_commands, setWord_commands, foldl_commands]

theorem shadowFault_commands (w : Nat) : (s.shadowFault w).commands = s.commands := by
  grind [shadowFault, commands, injected_commands, setWord_commands]

theorem readWord_commands (w holder : Nat) : (s.readWord w holder).1.commands = s.commands := by
  grind [readWord, homeRead_commands]

theorem writeWord_commands (w holder : Nat) (v : Bytes) : (s.writeWord w holder v).1.commands = s.commands := by
  grind [writeWord, homePartial_commands]

theorem syncOp_commands (m : Req) : (s.syncOp m).1.commands = s.commands := by
  unfold syncOp
  split <;> grind [commands, setWord_commands, setFlag_commands, filled_commands, shadowError_commands, shadowFault_commands,
    readWord_commands, writeWord_commands]

theorem popHead_commands (l : Nat) : (s.popHead l).commands = s.commands := rfl
theorem headReads_commands (l : Nat) : (s.headReads l).commands = s.commands := rfl
theorem grantLine_commands (l ep way : Nat) (st : LineState) : (s.grantLine l ep way st).commands = s.commands := rfl

theorem fetch_commands (l : Nat) (m : Req) : (s.fetch l m).1.commands = s.commands := by
  grind [fetch, commands, modChan_commands, headReads_commands]

theorem serveRead_commands (l : Nat) (m : Req) (ok : State → Bytes → State) (hok : ∀ (t : State) (d : Bytes), (ok t d).commands = t.commands) :
    (s.serveRead l m ok).1.commands = s.commands := by
  grind [serveRead, finish_commands, popHead_commands, fetch_commands]

theorem awaitWay_commands (l : Nat) (m : Req) : (s.awaitWay l m).1.commands = s.commands := by
  grind [awaitWay, commands, modSlice_commands]

theorem needWay_commands (l : Nat) (m : Req) (ok : State → Nat → State × List Nat)
    (hok : ∀ (t : State) (w : Nat), (ok t w).1.commands = t.commands) : (s.needWay l m ok).1.commands = s.commands := by
  unfold needWay
  split
  · split
    · exact awaitWay_commands s l m
    · rw [hok, modLock_commands, commands, commands]
  · exact awaitWay_commands s l m

theorem serveWrite_commands (l : Nat) (m : Req) : (s.serveWrite l m).1.commands = s.commands := by
  grind [serveWrite, commands, modChan_commands, setDir_commands, finish_commands, popHead_commands, headReads_commands]

theorem perform_commands (l : Nat) (m : Req) : (s.perform l m).1.commands = s.commands := by
  grind [perform, setDir_commands, addSharer_commands, touch_commands, finish_commands, lineWrite_commands, syncOp_commands, popHead_commands,
    grantLine_commands, fetch_commands, serveRead_commands, needWay_commands, serveWrite_commands]

theorem serveOnce_commands (l : Nat) : (s.serveOnce l).1.commands = s.commands := by
  grind [serveOnce, commands, sendProbes_commands, perform_commands]

theorem wake_commands (l : Nat) : (s.wake l).1.commands = s.commands := by
  grind [wake]

theorem starvedVictim_commands (l : Nat) : (s.starvedVictim l).1.commands = s.commands := by
  grind [starvedVictim, commands, modSlice_commands]

theorem serveWork_commands (n : Nat) (ls : List Nat) : (s.serveWork n ls).commands = s.commands := by
  induction n generalizing s ls with
  | zero => rfl
  | succ n ih =>
    cases ls with
    | nil => rfl
    | cons l t => grind [serveWork, serveOnce_commands, starvedVictim_commands, wake_commands]

theorem serve_commands (l : Nat) : (s.serve l).commands = s.commands := by
  grind [serve, serveWork_commands]

theorem internal_commands (m : Req) : (s.internal m).commands = s.commands := by
  grind [internal, commands, serve_commands]

/-! ## Replies -/

theorem writeReply_commands (h : Nat) (b d : Bytes) : (s.writeReply h b d).commands = s.commands := by
  grind [writeReply, commands, emit_commands, undeliver_commands, request_commands, internal_commands]

end

end Sys2Proof.Machine.State
end

