-- ==== Sys2Proof/Proofs/CommandIntake.lean ====
section
/-! What the intake does with a packet that is written at a page of the command window, and what the rows of the command transport do
where they act (Tables 2.3 and 2.7, R34-R36, R46-R51, R368). -/

set_option Elab.async false

namespace Sys2Proof.Machine

/-! ## A write at the page of a context (steps 1 and 2 of Table 2.3) -/

theorem exec_commandWrite_of_lt {s : State} {via : Sender} {offset : Nat} {b : Bytes} (hin : offset < 2 ^ 24) :
    exec (.commandWrite via offset b) s = .next (s.intake via offset b) := by
  change execCommandWrite via offset b s = _
  rw [execCommandWrite, if_pos hin, done]

section
variable {s : State} {c offset ep txn sent : Nat} {b : Bytes}
variable (hpage : offset / 4096 % 4096 = c) (hshape : offset % 64 = 0) (hlen : b.length = 64) (hopen : s.StageOpen c)
include hpage hshape hlen hopen

theorem State.intake_bar2 (hlink : s.cxl.linkUp = true) : s.intake .bar2 offset b = s.intakeChecks (s.stageOf c) c .bar2 b := by
  obtain ⟨halive, hreset, harm⟩ := hopen
  simp [State.intake, hpage, halive, hreset, harm, hlink, hlen, hshape]

/-- The write of a sender of the context: CMP goes back, then the packet is checked (R537). -/
theorem State.intake_fabric_of_sender (hctx : c ≠ 0) (hsender : ((s.ctx c).map fun x => x.hasSender ep) = some true) :
    s.intake (.fabric ep txn sent) offset b =
      (s.source { opcode := msgCode .cmp, dst := ep, ctx := sent, txn := txn, addr := 0xFF0000000000 + offset }).1.intakeChecks
        (s.stageOf c) c (.fabric ep txn sent) b := by
  obtain ⟨halive, hreset, harm⟩ := hopen
  simp [State.intake, hpage, halive, hreset, harm, hlen, hshape, hctx, hsender]

/-- Any other fabric write is discarded, those at page 0 among them. -/
theorem State.intake_fabric_of_not_sender (hnot : c = 0 ∨ ((s.ctx c).map fun x => x.hasSender ep) ≠ some true) :
    s.intake (.fabric ep txn sent) offset b = s.discardWrite (s.stageOf c) false := by
  obtain ⟨halive, hreset, harm⟩ := hopen
  have hdiscard : (c == 0 || !((s.ctx c).map fun x => x.hasSender ep).getD false) = true := by
    rcases hnot with rfl | hnot
    · rfl
    · cases hx : s.ctx c <;> simp_all
  simp [State.intake, hpage, halive, hreset, harm, hlen, hshape, hdiscard]

end

/-! ## The checks of a well-sent packet (steps 7 to 10 of Table 2.3) -/

/-- The reply to a packet whose tag is that of `w`: the original's final one, or BUSY (R49). -/
def WinEntry.repeatReply (w : WinEntry) (b : Bytes) : Bytes :=
  match w.final with
  | some f => replyBytes b stDuplicate f.status f.results
  | none => replyBytes b stBusy (pktOpcode b) []

section
variable {s : State} {h c : Nat} {via : Sender} {b : Bytes}

/-- What passes steps 7 to 9 is accepted, but for a privileged opcode elsewhere than on page 0 through BAR2 (R51). -/
theorem State.intakeChecks_of_passesNine (hp : s.PassesNine c b) :
    s.intakeChecks h c via b =
      if privileged.contains (pktOpcode b) && !(c == 0 && via == .bar2) then s.intakeRefuse h b stNoRight 0 else s.acceptCmd h c via b := by
  obtain ⟨⟨hcheck, hctx, hlive, hflags, hfield, haddr, hready⟩, hwin, hroom, hop⟩ := hp
  simp [State.intakeChecks, hcheck, hctx, hlive, Nat.not_le.mpr hflags, Nat.not_le.mpr hfield, haddr, hready, hwin, Nat.not_le.mpr hroom, hop,
    -List.contains_eq_mem]

/-- What repeats a tag of the window is answered at step 7, whatever its opcode. -/
theorem State.intakeChecks_of_repeated {w : WinEntry} (hs : s.WellSent c b)
    (hwin : (s.window c).find? (fun w => w.tag == pktTag b) = some w) :
    s.intakeChecks h c via b = s.writeReply h b (w.repeatReply b) := by
  obtain ⟨hcheck, hctx, hlive, hflags, hfield, haddr, hready⟩ := hs
  simp only [State.intakeChecks, State.intakeReply, WinEntry.repeatReply, hcheck, hctx, hlive, Nat.not_le.mpr hflags, Nat.not_le.mpr hfield,
    haddr, hready, hwin, ne_eq, not_true_eq_false, Bool.not_true, Bool.false_eq_true, if_false, if_true]
  cases w.final <;> rfl

theorem State.acceptCmd_cmds : (s.acceptCmd h c via b).cmds =
    s.cmds ++ [{ ctx := c, tag := pktTag b, via := via, bytes := b, acceptedAt := s.clk.nt, order := s.nextOrder }] := by
  simp [State.acceptCmd]

end

/-- Settles O11: steps 1 and 2 depend on the page and the sender alone, and step 10 lets a privileged opcode pass on page 0 through BAR2. -/
theorem privilegeIsChecked : Obligations.PrivilegeIsChecked := by
  unfold Obligations.PrivilegeIsChecked
  refine ⟨rfl, fun s c o b hc ho hlen hopen => ?_⟩
  have hin : 4096 * c + 64 * o < 2 ^ 24 := by omega
  have hpage : (4096 * c + 64 * o) / 4096 % 4096 = c := by omega
  have hshape : (4096 * c + 64 * o) % 64 = 0 := by omega
  simp only [exec_commandWrite_of_lt hin]
  refine ⟨?bar2, ?sender, ?notSender⟩
  case bar2 =>
    intro hlink hp
    rw [State.intake_bar2 hpage hshape hlen hopen hlink, State.intakeChecks_of_passesNine hp]
    by_cases hctx : c = 0 <;> simp [hctx]
  case sender =>
    rintro ep txn sent u rfl hsender hctx hp
    rw [State.intake_fabric_of_sender hpage hshape hlen hopen hctx hsender, State.intakeChecks_of_passesNine hp]
    simp [hctx]
  case notSender =>
    intro ep txn sent hnot
    rw [State.intake_fabric_of_not_sender hpage hshape hlen hopen hnot]

/-- Settles O12: the packet gets its reply at step 7, and writing a reply changes no command in flight and no window. -/
theorem repeatedPacketsAreNotExecuted : Obligations.RepeatedPacketsAreNotExecuted := by
  unfold Obligations.RepeatedPacketsAreNotExecuted
  intro s c o b w hc ho hlen hopen hlink hs hwin
  rw [exec_commandWrite_of_lt (by omega), State.intake_bar2 (by omega) (by omega) hlen hopen hlink, State.intakeChecks_of_repeated hs hwin]
  obtain ⟨hcmds, hwindows⟩ := Prod.mk.inj (s.writeReply_commands (s.stageOf c) b (w.repeatReply b))
  refine ⟨_, rfl, hcmds, hwindows, ?_⟩
  unfold WinEntry.repeatReply
  cases w.final <;> rfl

/-! ## Dispatch, hand-over and failed replies (R36, R46, R368) -/

/-- Settles O18: each row takes the branch of its meaning that the clause's conditions select. -/
theorem transportRowsTakeEffect : Obligations.TransportRowsTakeEffect := by
  unfold Obligations.TransportRowsTakeEffect
  refine ⟨?commandWrite, ?commandDispatch, ?cuOutput, ?replyWriteError⟩
  case commandWrite =>
    rintro s c b ⟨hc, hopen, hlink, hlen, hp, hown⟩
    have hpass : ¬ (privileged.contains (pktOpcode b) && !(c == 0 && Sender.bar2 == .bar2)) = true := by
      simpa using hown
    refine ⟨_, ?_, rfl, State.acceptCmd_cmds⟩
    rw [exec_commandWrite_of_lt (by omega), State.intake_bar2 (by omega) (by omega) hlen hopen hlink, State.intakeChecks_of_passesNine hp,
      if_neg hpass]
  case commandDispatch =>
    intro s k hacts
    dsimp only
    intro hnext
    change execCommandDispatch s = _
    simp only [execCommandDispatch, hacts, hnext, Bool.not_true, Bool.false_eq_true, if_false]
    rfl
  case cuOutput =>
    intro s n o hout hreleased u hclaim
    change execCuOutput n s = _
    simp only [execCuOutput, hout, hreleased, Bool.not_true, Bool.false_eq_true, if_false, done]
    rw [if_pos hclaim]
  case replyWriteError =>
    intro s n o p hout herr
    change execReplyWriteError n s = _
    simp only [execReplyWriteError, hout, herr, done]

end Sys2Proof.Machine
end

