-- ==== Sys2Proof/Proofs/ContextRows.lean ====
section
/-! What NOP and the commands on contexts do where their checks pass (R52, R355, R460, R461, R463, R464). -/

set_option Elab.async false

namespace Sys2Proof.Machine

/-- An opcode row acts on the command that has been taken for it. -/
theorem State.withTaken_of_taken {s : State} {c t op : Nat} {k : Cmd} (hk : s.Taken c t op k) (f : Cmd → State → State) :
    s.withTaken c t op f = f k s := by
  obtain ⟨hcmd, hphase, hop, hholder, hstopped⟩ := hk
  simp [State.withTaken, hcmd, hphase, hop, hholder, hstopped]

theorem State.running_destroys (s : State) (k : Cmd) : (s.running k).destroys = s.destroys := by
  unfold State.running
  split <;> rfl

/-! ## The end of a context's destruction (R355) -/

section
variable (s : State) (c : Nat)

theorem State.eraseKeys_cmds : (s.eraseKeys c).cmds = s.cmds := by
  unfold State.eraseKeys
  dsimp only
  split
  · rfl
  · split <;> rfl

/-- The weight keys that are left are those of the other contexts: one without keys has none to erase. -/
theorem State.eraseKeys_weightKeys : (s.eraseKeys c).sec.weightKeys = s.sec.weightKeys.filter fun w => w.ctx != c := by
  unfold State.eraseKeys
  dsimp only
  split
  next hnone =>
    have hothers : ∀ w ∈ s.sec.weightKeys, (w.ctx != c) = true := by simp_all [State.keysOf]
    rw [List.filter_eq_self.mpr hothers]
  next => split <;> rfl

/-- Steps 3 to 7 of Table 11.9. -/
def State.erased : State := ((s.eraseKeys c).eraseEngines c).eraseRecords c

theorem State.erased_cmd (a t : Nat) : (s.erased c).cmd a t = s.cmd a t :=
  congrArg (List.find? fun x : Cmd => x.ctx == a && x.tag == t) (s.eraseKeys_cmds c)

theorem State.erased_ctx : (s.erased c).ctx c = none := (Tab.get_set none _ c none c).trans (if_pos rfl)

theorem State.erased_destroys : Tab.get none (s.erased c).destroys c = none := (Tab.get_set none _ c none c).trans (if_pos rfl)

theorem State.erased_window : (s.erased c).window c = [] := (Tab.get_set [] _ c [] c).trans (if_pos rfl)

theorem State.erased_weightKeys : (s.erased c).sec.weightKeys = s.sec.weightKeys.filter fun w => w.ctx != c := s.eraseKeys_weightKeys c

/-- The final reply OK, where its command is still in flight. -/
def State.finalFor (o : Option Cmd) (results : Bytes) : State := o.elim s fun k => s.final k stOk results

theorem State.finalFor_rest (o : Option Cmd) (results : Bytes) :
    (s.finalFor o results).ctxs = s.ctxs ∧ (s.finalFor o results).destroys = s.destroys ∧
    (s.finalFor o results).windows = s.windows ∧ (s.finalFor o results).sec = s.sec := by
  cases o <;> exact ⟨rfl, rfl, rfl, rfl⟩

end

/-- With its cords and grants settled, its commands ended and no step of its destruction left, the context is erased and the reply given. -/
theorem exec_ctxDestroyComplete_of_settled {s : State} {c : Nat} {d e : Destroy} (hd : Tab.get none s.destroys c = some d)
    (he : Tab.get none s.settleCords.destroys c = some e) (hcords : e.cords = [])
    (hgrants : s.settleCords.grants.any (fun g => g.holder == c && !g.tombstone) = false)
    (hcmds : s.settleCords.cmds.any (fun (k : Cmd) => k.ctx == c) = false)
    (hsteps : s.settleCords.regions.any (fun p => (p.2.map fun r => r.steps.any fun st => st.destroyOf == some c).getD false) = false) :
    exec (.ctxDestroyComplete c) s =
      .next ((s.settleCords.erased c).finalFor (s.settleCords.cmd 0 d.tag) (natLE 4 d.revoked ++ natLE 4 d.cindered)) := by
  have hleft : (((Tab.get none s.settleCords.destroys c).map (·.cords)).getD [] != []) = false := by simp [he, hcords]
  change execCtxDestroyComplete c s = _
  rw [execCtxDestroyComplete, hd, done]
  simp only [hgrants, hleft, hcmds, hsteps, Bool.or_self, Bool.false_eq_true, if_false]
  rw [← State.erased, State.erased_cmd, State.finalFor]
  cases s.settleCords.cmd 0 d.tag <;> rfl

/-- Settles O19: each row finds its command taken, passes its checks one by one, and takes its effect. -/
theorem contextRowsTakeEffect : Obligations.ContextRowsTakeEffect := by
  unfold Obligations.ContextRowsTakeEffect
  refine ⟨?nop, ?create, ?query, ?setClass, ?sameClass, ?destroy, ?destroyComplete⟩
  case nop =>
    intro s c t k hk
    change execNop c t s = _
    rw [execNop, State.withTaken_of_taken hk, done]
  case create =>
    intro s c t k n hk
    dsimp only
    intro hnumber hranges hok hunused hreserve hfree hconf hmet
    generalize hx : Ctx.withReserve _ _ = x at hmet ⊢
    have hcount : ¬ 8 < k.par 19 1 := Nat.not_lt.mpr hranges
    have hshared : ¬ (!bit (k.par 18 1) 1 && k.par 52 8 != 0) = true := by rcases hreserve with h | h <;> simp [h]
    have hnew : ¬ (s.ctx n).isSome = true := by simp [hfree]
    have hlevel : ¬ (bit (k.par 18 1) 0 && s.sec.jtagLevel == 2) = true := by simpa using fun h => (hconf h).1
    have hkeys : ¬ (bit (k.par 18 1) 0 && s.keysLost) = true := by simpa using fun h => (hconf h).2
    have hroom : ¬ (bit (k.par 18 1) 1 && !s.reserveMet n x) = true := by simpa using hmet
    change execCtxCreate c t s = _
    rw [execCtxCreate, State.withTaken_of_taken hk, done]
    simp only [if_neg hcount, hok, hunused, if_neg hshared, hnumber, if_neg hnew, hx, if_neg hlevel, if_neg hkeys, if_neg hroom]
    by_cases hdraws : bit (k.par 18 1) 0 = true
    · simp only [if_pos hdraws]
      rfl
    · simp only [if_neg hdraws]
  case query =>
    intro s c t k x hk hmay hx
    have hright : ¬ (k.par 16 2 ≠ k.ctx ∧ (!k.mgmt) = true) := by simpa [Classical.or_iff_not_imp_left] using hmay
    change execCtxQuery c t s = _
    rw [execCtxQuery, State.withTaken_of_taken hk, done]
    simp only [hx, if_neg hright]
  case setClass =>
    intro s c t k x hk
    dsimp only
    intro hx hlive hzero hunused hclass hgrants hcords hplans hgates hmet
    generalize hy : (if bit (k.par 18 1) 0 = true then Ctx.withReserve _ _ else _) = y at hmet ⊢
    have hdestroy : ¬ x.destroying = true := by simp [hlive]
    have hnamed : ¬ (bit (k.par 18 1) 0 && k.par 16 2 == 0) = true := by simpa using hzero
    have hparams : (if bit (k.par 18 1) 0 = true then none else k.unusedAt 20 28) = none := by simpa using hunused
    have huse : ¬ (s.grants.any (fun g => g.holder == k.par 16 2 && !g.tombstone) ||
        s.cords.any (fun p => p.2.state == CordState.allocated && p.2.ctx == k.par 16 2) ||
        s.plansOf (k.par 16 2) != [] || s.gatesName (k.par 16 2)) = true := by
      simp only [hgrants, hcords, hplans, hgates]
      decide
    have hroom : ¬ (bit (k.par 18 1) 0 && !s.reserveMet (k.par 16 2) y) = true := by simpa using hmet
    change execCtxSetClass c t s = _
    rw [execCtxSetClass, State.withTaken_of_taken hk, done]
    simp only [hx, if_neg hdestroy, if_neg hnamed, hparams, if_neg hclass, if_neg huse, hy, if_neg hroom]
  case sameClass =>
    intro s c t k x hk hx hlive hclass hzero hunused
    have hdestroy : ¬ x.destroying = true := by simp [hlive]
    have hnamed : ¬ (bit (k.par 18 1) 0 && k.par 16 2 == 0) = true := by
      rw [← hclass, Bool.and_eq_true, beq_iff_eq]
      rintro ⟨hiso, hn⟩
      exact Bool.noConfusion ((hzero hn).symm.trans hiso)
    have hparams : (if bit (k.par 18 1) 0 = true then none else k.unusedAt 20 28) = none := by simpa [← hclass] using hunused
    change execCtxSetClass c t s = _
    rw [execCtxSetClass, State.withTaken_of_taken hk, done]
    simp only [hx, if_neg hdestroy, if_neg hnamed, hparams, if_pos hclass]
  case destroy =>
    intro s c t k x hk
    dsimp only
    intro hx hzero hlive
    have hdestroy : ¬ x.destroying = true := by simp [hlive]
    change ∃ v, execCtxDestroy c t s = _ ∧ _
    rw [execCtxDestroy, State.withTaken_of_taken hk, done]
    simp only [hx, if_neg hzero, if_neg hdestroy]
    refine ⟨_, rfl, ⟨_, rfl⟩, ?_⟩
    rw [State.running_destroys, Tab.get_set, if_pos rfl, Option.isSome_some]
  case destroyComplete =>
    intro s c d e hd
    dsimp only
    intro he hcords hgrants hcmds hsteps
    obtain ⟨hctxs, hdestroys, hwindows, hsec⟩ :=
      (s.settleCords.erased c).finalFor_rest (s.settleCords.cmd 0 d.tag) (natLE 4 d.revoked ++ natLE 4 d.cindered)
    refine ⟨_, exec_ctxDestroyComplete_of_settled hd he hcords hgrants hcmds hsteps, ?_, ?_, ?_, ?_, fun k hcmd => ?_⟩
    · rw [State.ctx, hctxs, ← State.ctx, State.erased_ctx]
    · rw [hdestroys, State.erased_destroys]
    · rw [State.window, hwindows, ← State.window, State.erased_window]
    · rw [hsec, State.erased_weightKeys]
    · rw [hcmd, State.finalFor, Option.elim_some]
      exact ⟨_, rfl⟩

end Sys2Proof.Machine
end

