-- ==== Sys2Proof/Proofs/LineWrites.lean ====
section
/-! What the write of a line to DRAM does to the bytes of memory (R75, R76, R78). -/

set_option Elab.async false

namespace Sys2Proof.Machine

theorem length_padTo (k : Nat) (b : Bytes) : (padTo k b).length = k := by
  simp [padTo, zeros]

/-- Within the width a padded byte string reads as the string cut to it, and 0 past the string's end. -/
theorem getD_padTo_of_lt {k i : Nat} (b : Bytes) (hi : i < k) : (padTo k b).getD i 0 = (b.take k).getD i 0 := by
  simp only [padTo, zeros, List.getD_eq_getElem?_getD, List.getElem?_take_of_lt hi]
  by_cases hb : i < b.length
  · rw [List.getElem?_append_left hb]
  · rw [List.getElem?_append_right (Nat.le_of_not_lt hb), List.getElem?_replicate, List.getElem?_eq_none (Nat.le_of_not_lt hb)]
    split <;> rfl

/-- The 64 bytes that a codeword of a line stores: zeros for a cinder one. -/
def lineBytes (data : Bytes) (cinder : Bool) : Bytes := if cinder then zeros 64 else padTo 64 data

theorem length_lineBytes (data : Bytes) (cinder : Bool) : (lineBytes data cinder).length = 64 := by
  cases cinder
  · exact length_padTo 64 data
  · exact List.length_replicate

theorem getD_lineBytes_of_lt {i : Nat} (data : Bytes) (cinder : Bool) (hi : i < 64) :
    (lineBytes data cinder).getD i 0 = if cinder = true then 0 else (data.take 64).getD i 0 := by
  cases cinder
  · exact getD_padTo_of_lt data hi
  · exact List.getD_replicate 0 hi

/-- An injected fault acts on the codeword's symbols and its record, never on the bytes (R101). -/
theorem State.putLine_mem (s : State) (l : Nat) (data : Bytes) (cinder : Bool) :
    (s.putLine l data cinder).mem = storeBytes s.mem (64 * l) (lineBytes data cinder) := by
  unfold State.putLine
  extract_lets g t
  split
  · split <;> rfl
  · rfl

/-- Settles O10: the line's 64 bytes are stored at its place, and a store changes the bytes it stores and no other. -/
theorem lineWritesStayInTheirLine : Obligations.LineWritesStayInTheirLine := by
  unfold Obligations.LineWritesStayInTheirLine
  intro s l data cinder a
  rw [State.putLine_mem, Memory.get_store, length_lineBytes]
  by_cases hin : 64 * l ≤ a ∧ a < 64 * l + 64
  · rw [if_pos hin, if_pos hin, getD_lineBytes_of_lt data cinder (by omega)]
  · rw [if_neg hin, if_neg hin]

end Sys2Proof.Machine
end

