-- ==== Sys2Proof/Proofs/ChannelRows.lean ====
section
/-! What the rows of a channel controller do where they act: its scheduler, decoder, merge buffer, bitmap, refresh, calibration, clocks and
faults (chapter 3). -/

set_option Elab.async false

namespace Sys2Proof.Machine

/-! ## Scheduling, reads and writes (R65, R77, R79, R83) -/

theorem State.written_eq (p : State × Option Nat) (q : MemReq) :
    State.written p q = if p.2 = none then p.1.deliver q (some []) none else p.1.deliver q none p.2 := by
  obtain ⟨t, r⟩ := p
  cases r <;> rfl

/-- What a read answers its request: the line's data, or the reason of Table 3.8. -/
def State.answerRead (s : State) (q : MemReq) : LineRead → State
  | .data d => s.deliver q (some d) none
  | .bad x => s.deliver q none (some x)

theorem State.readBack_eq (s : State) (q : MemReq) (noise : List (Nat × Byte)) :
    s.readBack q noise = (s.readLine q.line (some q.ctx) noise).1.answerRead q (s.readLine q.line (some q.ctx) noise).2 := by
  unfold State.readBack
  obtain ⟨t, r⟩ := s.readLine q.line (some q.ctx) noise
  cases r <;> rfl

/-- Settles O35: each row acts on the request that the clause's conditions find, and answers with the access's outcome. -/
theorem channelSchedulerRowsTakeEffect : Obligations.ChannelSchedulerRowsTakeEffect := by
  unfold Obligations.ChannelSchedulerRowsTakeEffect
  refine ⟨?schedulerIssue, ?stokeLevelChange, ?readDecode, ?blockFillDone, ?partialWriteEntry⟩
  case schedulerIssue =>
    intro s g q
    dsimp only
    intro hbanked hnext
    change execSchedulerIssue g s = _
    simp only [execSchedulerIssue, done, hbanked, hnext, Bool.false_eq_true, if_false]
    rfl
  case stokeLevelChange =>
    intro s g n q hq hlevel
    dsimp only
    have htop : ¬ q.level = 3 := Nat.ne_of_lt hlevel
    change execStokeLevelChange g n s = _
    simp only [execStokeLevelChange, done, hq, if_neg htop, State.atElapsed]
  case readDecode =>
    intro s g noise q l hreads
    dsimp only
    change execReadDecode g noise s = _
    simp only [execReadDecode, done, hreads, State.readBack_eq]
    cases ((s.modChan g fun c => { c with reads := l }).readLine q.line (some q.ctx) noise).2 <;> rfl
  case blockFillDone =>
    intro s g q l hfilling
    change execBlockFillDone g s = _
    simp only [execBlockFillDone, done, State.fillDone, hfilling, State.written_eq]
  case partialWriteEntry =>
    intro s g q
    dsimp only
    intro hbanked hguard hnext
    change execPartialWriteEntry g s = _
    simp only [execPartialWriteEntry, done, hbanked, hguard, hnext, Bool.or_self, Bool.false_eq_true, if_false, State.written_eq]

/-! ## Upkeep (R66, R67, R70, R73, R80, R81, R85, R96) -/

section
variable {s : State} {k : Nat}

/-- No change of the stack runs and none is wanted: its margin tests go on (R490). -/
theorem exec_frequencyChange_of_not_due (hnone : (stackChans k).findSome? (fun g => (s.chan g).changing) = none) (hdue : s.changeDue k = false) :
    exec (.frequencyChange k) s = .next ((stackChans k).foldl (fun t g => t.modChan g fun c => c.marginPast c.activePoint) s) := by
  change execFrequencyChange k s = _
  simp [execFrequencyChange, done, hnone, hdue]

theorem exec_frequencyChange_of_starts (hnone : (stackChans k).findSome? (fun g => (s.chan g).changing) = none) (hdue : s.changeDue k = true)
    (hstarts : s.changeStarts k = true) : exec (.frequencyChange k) s = .next (s.beginChange k) := by
  change execFrequencyChange k s = _
  simp [execFrequencyChange, done, hnone, hdue, hstarts]

theorem exec_frequencyChange_of_changing {t : Nat} (hrun : (stackChans k).findSome? (fun g => (s.chan g).changing) = some t) :
    exec (.frequencyChange k) s = .next ((s.untilElapsed t).endChange k) := by
  change execFrequencyChange k s = _
  simp [execFrequencyChange, done, hrun, State.atElapsed]

end

/-- Settles O36: each row takes the branch of its meaning that the clause's conditions select, at the time at which it is due. -/
theorem channelUpkeepRowsTakeEffect : Obligations.ChannelUpkeepRowsTakeEffect := by
  unfold Obligations.ChannelUpkeepRowsTakeEffect
  refine ⟨?mergeEntryAgeOut, ?mergeRmwComplete, ?bitmapLineFetch, ?channelEdgeGuard, ?refreshDebtTick, ?zqDue, ?retrainDue, ?changeStarts,
    ?changeEnds, ?changeNotDue, ?controllerFault⟩
  case mergeEntryAgeOut =>
    intro s g l e he hbanked
    change execMergeEntryAgeOut g l s = _
    simp only [execMergeEntryAgeOut, done, he, hbanked, Bool.false_eq_true, if_false, State.atElapsed]
  case mergeRmwComplete =>
    intro s g e l hrmw
    change execMergeRmwComplete g s = _
    simp only [execMergeRmwComplete, done, hrmw]
  case bitmapLineFetch =>
    intro s g i a b
    dsimp only
    intro hcached hpoisoned hfenced hretired hbanked
    have hacts : ¬ ((s.chan g).bmCache.any (fun x => x.idx == i) || (s.chan g).poisoned.contains i || (s.chan g).state == .fenced ||
        (s.chan g).state == .retired || (s.chan g).banked) = true := by
      simp only [hcached, hpoisoned, hbanked, beq_eq_false_iff_ne.mpr hfenced, beq_eq_false_iff_ne.mpr hretired]
      decide
    change execBitmapLineFetch g i a b s = _
    simp only [execBitmapLineFetch, done, if_neg hacts]
    obtain ⟨u, usable⟩ := s.bitmapCheck g i false a b
    cases usable <;> rfl
  case channelEdgeGuard =>
    intro s g hedge
    change execChannelEdgeGuard g s = _
    simp only [execChannelEdgeGuard, done, if_pos hedge, State.guardChan]
  case refreshDebtTick =>
    intro s g hrefreshed
    change execRefreshDebtTick g s = _
    simp only [execRefreshDebtTick, done, hrefreshed, Bool.not_true, Bool.false_eq_true, if_false, State.atElapsed]
  case zqDue =>
    intro s g htrained hdue
    change execCalibrationDue g .zq s = _
    simp only [execCalibrationDue, done, htrained, hdue, Bool.not_true, Bool.false_eq_true, if_false, State.atElapsed]
  case retrainDue =>
    intro s g htrained hdue
    change execCalibrationDue g .retrain s = _
    simp only [execCalibrationDue, done, htrained, hdue, Bool.not_true, Bool.false_eq_true, if_false, State.atElapsed]
  case changeStarts => exact fun s k hnone hdue hstarts => exec_frequencyChange_of_starts hnone hdue hstarts
  case changeEnds =>
    intro s k t hrun
    rw [exec_frequencyChange_of_changing hrun, State.endChange]
  case changeNotDue => exact fun s k hnone hdue => exec_frequencyChange_of_not_due hnone hdue
  case controllerFault =>
    intro s g hretired hfenced
    change execControllerFault g s = _
    rw [execControllerFault, done]
    cases hstate : (s.chan g).state with
    | retired => exact absurd hstate hretired
    | fenced => exact absurd hstate hfenced
    | _ => rfl

end Sys2Proof.Machine
end

