-- ==== Sys2Proof/Proofs/MemoryCommandRows.lean ====
section
/-! What the commands that move, copy, scrub, zero and initialise memory do where their checks pass (R84, R92, R128, R189, R374,
R473-R476, R484). -/

set_option Elab.async false

namespace Sys2Proof.Machine

/-- The row that ends a command acts on the command that runs. -/
theorem State.withRunning_of_running {s : State} {c t op : Nat} {k : Cmd} (hk : s.Running c t op k) (f : Cmd → State → State) :
    s.withRunning c t op f = f k s := by
  obtain ⟨hcmd, hphase, hop⟩ := hk
  simp [State.withRunning, hcmd, hphase, hop]

/-! ## REGION_MIGRATE (R128, R473) -/

/-- A cord that neither moves nor zeroises, of a region that is not being tripled, may begin to move. -/
theorem State.not_migrate_inUse (s : State) {n : Nat} {r : Region} (hmigrating : (s.cord n).state ≠ .migrating)
    (hzeroising : (s.cord n).state ≠ .zeroising) (htripling : r.tripling = none) :
    ¬ ((s.cord n).state == .migrating || (s.cord n).state == .zeroising || r.tripling.isSome) = true := by
  simp [hmigrating, hzeroising, htripling]

/-! ## SCRUB_RANGE (R92, R93, R474) -/

section
variable {s : State} {c t : Nat} {k : Cmd}

theorem exec_scrubRange_of_running {r : Scrub} (hk : s.Running c t 0x17 k) (hr : s.scrubs.find? (fun x => x.ctx == c && x.tag == t) = some r) :
    exec (.scrubRange c t) s = .next (s.scrubOn k r) := by
  have hphase : (s.cmd c t).map (fun k : Cmd => k.phase) = some .running := by
    obtain ⟨hcmd, hphase, -⟩ := hk
    rw [hcmd, Option.map_some, hphase]
  change execScrubRange c t s = _
  rw [execScrubRange, done]
  simp only [hphase, State.withRunning_of_running hk, hr]

/-- Command `tag` of context `ctx` has a scrub under way. -/
def State.scrubbing (s : State) (ctx tag : Nat) : Bool := s.scrubs.any fun x => x.ctx == ctx && x.tag == tag

/-- A scrub as its command begins it. -/
def Cmd.firstScrub (k : Cmd) (c t : Nat) : Scrub := { ctx := c, tag := t, next := k.par 16 8 }

theorem exec_scrubRange_of_taken (hk : s.Taken c t 0x17 k) (hrange : s.rangeFault k rightRead = none) :
    exec (.scrubRange c t) s =
      .next (if (s.scrubOn k (k.firstScrub c t)).scrubbing c t then (s.scrubOn k (k.firstScrub c t)).running k
        else s.scrubOn k (k.firstScrub c t)) := by
  have hphase : (s.cmd c t).map (fun k : Cmd => k.phase) = some .taken := by
    obtain ⟨hcmd, hphase, -⟩ := hk
    rw [hcmd, Option.map_some, hphase]
  change execScrubRange c t s = _
  rw [execScrubRange, done]
  simp only [hphase, State.withTaken_of_taken hk, hrange]
  rfl

end

section
variable (s : State) (k : Cmd) (r : Scrub)

/-- The scrubs of the other commands. -/
def State.otherScrubs : List Scrub := s.scrubs.filter fun x => !(x.ctx == r.ctx && x.tag == r.tag)

/-- The scrub stays listed for the command's next row. -/
def State.keepScrub : State := { s with scrubs := s.otherScrubs r ++ [r] }

theorem State.keepScrub_scrubbing : (s.keepScrub r).scrubbing r.ctx r.tag = true := by
  simp [State.keepScrub, State.scrubbing]

theorem State.scrubDone_scrubbing : (s.scrubDone k r).scrubbing r.ctx r.tag = false := by
  change (s.scrubs.filter fun x => !(x.ctx == r.ctx && x.tag == r.tag)).any (fun x => x.ctx == r.ctx && x.tag == r.tag) = false
  simp only [List.any_filter, Bool.not_and_self]
  exact List.any_eq_false.mpr fun _ _ => Bool.false_ne_true

/-- A line of a scrub leaves the scrub with the command it is for. -/
theorem State.scrubAt_command (p : State × Scrub) (a first ctx : Nat) :
    (State.scrubAt p a first ctx).2.ctx = p.2.ctx ∧ (State.scrubAt p a first ctx).2.tag = p.2.tag := by
  unfold State.scrubAt
  split <;> exact ⟨rfl, rfl⟩

theorem State.foldl_scrubAt_command (ls : List Nat) (p : State × Scrub) (first ctx : Nat) :
    (ls.foldl (fun p x => State.scrubAt p x first ctx) p).2.ctx = p.2.ctx ∧
    (ls.foldl (fun p x => State.scrubAt p x first ctx) p).2.tag = p.2.tag := by
  induction ls generalizing p with
  | nil => exact ⟨rfl, rfl⟩
  | cons a ls ih =>
    obtain ⟨hctx, htag⟩ := State.scrubAt_command p a first ctx
    rw [List.foldl_cons, (ih _).1, (ih _).2]
    exact ⟨hctx, htag⟩

/-- The lines of the next 4 KiB block of a scrub, done one after another. -/
def State.scrubBlock (l : Nat) : State × Scrub :=
  let ls := blockLines r.next (k.par 16 8 + k.par 24 8)
  ls.foldl (fun p x => State.scrubAt p x (k.par 16 8) k.ctx) (s, { r with after := s.clk.elapsed + s.scrubPause l ls.length })

theorem State.scrubBlock_command (l : Nat) : (s.scrubBlock k r l).2.ctx = r.ctx ∧ (s.scrubBlock k r l).2.tag = r.tag :=
  State.foldl_scrubAt_command _ _ _ _

/-- A scrub that has its turn takes one block, and answers after the last one of its range. -/
theorem State.scrubOn_of_turn {rn dpa : Nat} (hleft : r.next < k.par 16 8 + k.par 24 8) (hat : s.resolve r.next = some (rn, dpa))
    (hdue : r.after ≤ s.clk.elapsed) (hbanked : ((s.copiesOf (dpa / 64)).any fun l => s.banked (lineChan l)) = false)
    (hturn : (s.portTurn (s.scrubReq r (dpa / 64))).2 = true) :
    s.scrubOn k r =
      let p := (s.portTurn (s.scrubReq r (dpa / 64))).1.scrubBlock k r (dpa / 64)
      if k.par 16 8 + k.par 24 8 ≤ p.2.next then p.1.scrubDone k p.2 else p.1.keepScrub p.2 := by
  unfold State.scrubOn
  simp only [if_neg (Nat.not_le.mpr hleft), hat, Nat.not_lt.mpr hdue, hbanked, decide_false, Bool.or_self, Bool.false_eq_true, if_false]
  generalize s.portTurn (s.scrubReq r (dpa / 64)) = q at hturn ⊢
  obtain ⟨u, turn⟩ := q
  cases hturn
  rfl

end

/-- The first row of a scrub, in its turn: the command runs on unless the range ends within the first block. -/
theorem exec_scrubRange_of_firstTurn {s : State} {k : Cmd} {c t rn dpa : Nat} (hk : s.Taken c t 0x17 k)
    (hrange : s.rangeFault k rightRead = none) (hleft : k.par 16 8 < k.par 16 8 + k.par 24 8) (hat : s.resolve (k.par 16 8) = some (rn, dpa))
    (hbanked : ((s.copiesOf (dpa / 64)).any fun l => s.banked (lineChan l)) = false)
    (hturn : (s.portTurn (s.scrubReq (k.firstScrub c t) (dpa / 64))).2 = true) :
    exec (.scrubRange c t) s =
      .next (let p := (s.portTurn (s.scrubReq (k.firstScrub c t) (dpa / 64))).1.scrubBlock k (k.firstScrub c t) (dpa / 64)
        if k.par 16 8 + k.par 24 8 ≤ p.2.next then p.1.scrubDone k p.2 else (p.1.keepScrub p.2).running k) := by
  obtain ⟨hctx, htag⟩ :=
    (s.portTurn (s.scrubReq (k.firstScrub c t) (dpa / 64))).1.scrubBlock_command k (k.firstScrub c t) (dpa / 64)
  rw [exec_scrubRange_of_taken hk hrange, s.scrubOn_of_turn k (k.firstScrub c t) hleft hat (Nat.zero_le _) hbanked hturn]
  generalize (s.portTurn (s.scrubReq (k.firstScrub c t) (dpa / 64))).1.scrubBlock k (k.firstScrub c t) (dpa / 64) = p at hctx htag ⊢
  have hc : p.2.ctx = c := hctx
  have ht : p.2.tag = t := htag
  dsimp only
  rw [← hc, ← ht]
  by_cases hend : k.par 16 8 + k.par 24 8 ≤ p.2.next
  · simp only [if_pos hend, State.scrubDone_scrubbing, Bool.false_eq_true, if_false]
  · simp only [if_neg hend, State.keepScrub_scrubbing, if_true]

/-! ## ZERO_RANGE (R84, R475) -/

section
variable {s : State} {k : Cmd}

theorem exec_zeroRange_of_range {c t : Nat} (hk : s.Taken c t 0x18 k) (hmode : k.par 32 1 = 0) (hrange : s.rangeFault k rightWrite = none) :
    exec (.zeroRange c t) s = .next (s.zeroRange k) := by
  change execZeroRange c t s = _
  rw [execZeroRange, State.withTaken_of_taken hk, done]
  simp only [hmode, hrange]

theorem exec_zeroRange_of_cord {c t : Nat} (hk : s.Taken c t 0x18 k) (hmode : k.par 32 1 = 1) (hmgmt : k.mgmt = true)
    (hunused : k.unusedAt 18 32 = none) (hcord : k.par 16 2 < 6144) : exec (.zeroRange c t) s = .next (s.zeroWhole k (k.par 16 2)) := by
  change execZeroRange c t s = _
  rw [execZeroRange, State.withTaken_of_taken hk, done]
  simp only [hmode, hmgmt, hunused, if_neg (Nat.not_le.mpr hcord), Bool.not_true, Bool.false_eq_true, if_false]

/-- A whole cord is zeroed once no agent holds a line of it. -/
theorem State.zeroWhole_eq (s : State) (k : Cmd) (n : Nat) :
    s.zeroWhole k n =
      let r := s.recallPart n 0 (2 ^ 28)
      let z := r.1.zeroiseCord n
      let u := z.1.clearShadow (cordDpa n) (cordDpa n + 2 ^ 28)
      if r.2 = false then r.1
      else (if z.2.2 && (u.cord n).state == .zeroising && !(u.cord n).zeroPending then (u.modCord n fun c => c.unbound .free).settleCords
        else u).final k stOk (natLE 4 z.2.1) := by
  unfold State.zeroWhole
  generalize s.recallPart n 0 (2 ^ 28) = r
  obtain ⟨u, quiet⟩ := r
  cases quiet with
  | false => simp only [if_true]
  | true => simp only [Bool.true_eq_false, if_false]

end

/-! ## The rows -/

/-- Settles O22: each row finds its command taken or running, passes its checks one by one, and takes its effect. -/
theorem memoryCommandRowsTakeEffect : Obligations.MemoryCommandRowsTakeEffect := by
  unfold Obligations.MemoryCommandRowsTakeEffect
  refine ⟨?migrateAnywhere, ?migrateTo, ?scrubTaken, ?scrubTurn, ?scrubRunning, ?zeroRange, ?zeroCord, ?triple, ?syncInit⟩
  case migrateAnywhere =>
    intro s c t k r hk
    dsimp only
    intro hregion hcord hmigrating hzeroising htripling hany
    have hidle := s.not_migrate_inUse hmigrating hzeroising htripling
    change execRegionMigrate c t s = _
    rw [execRegionMigrate, State.withTaken_of_taken hk, done]
    cases hdest : s.destFor (k.par 16 2) (k.par 20 2) r <;>
      simp only [hregion, hcord, hdest, Bool.not_true, Bool.false_eq_true, if_false, if_neg hidle, if_pos hany]
  case migrateTo =>
    intro s c t k r hk
    dsimp only
    intro hregion hcord hmigrating hzeroising htripling hchan hserves hstays
    have hidle := s.not_migrate_inUse hmigrating hzeroising htripling
    have hnamed : ¬ k.par 22 2 = 0xFFFF := by omega
    have htakes : ¬ (512 ≤ k.par 22 2 ∨
        ((s.chan (k.par 22 2)).state != ChanState.inService || (s.chan (k.par 22 2)).retiring.isSome) = true) := by
      simp [hserves, hstays, hchan]
    change execRegionMigrate c t s = _
    rw [execRegionMigrate, State.withTaken_of_taken hk, done]
    cases hfree : s.freeIn (k.par 22 2) (k.par 22 2 + 1) <;>
      simp only [hregion, hcord, hfree, Bool.not_true, Bool.false_eq_true, if_false, if_neg hidle, if_neg hnamed, if_neg htakes]
  case scrubTaken => exact fun s c t k hk hrange => exec_scrubRange_of_taken hk hrange
  case scrubTurn =>
    intro s c t k rn dpa hk hrange
    dsimp only
    intro hleft hat hbanked hturn
    obtain ⟨hctx, htag⟩ :=
      (s.portTurn (s.scrubReq (k.firstScrub c t) (dpa / 64))).1.scrubBlock_command k (k.firstScrub c t) (dpa / 64)
    rw [exec_scrubRange_of_firstTurn hk hrange hleft hat hbanked hturn]
    simp only [State.scrubDone, State.keepScrub, State.otherScrubs, hctx, htag]
    rfl
  case scrubRunning => exact fun s c t k r hk hr => exec_scrubRange_of_running hk hr
  case zeroRange =>
    intro s c t k hk hmode hrange
    dsimp only
    rw [exec_zeroRange_of_range hk hmode hrange]
    simp only [State.zeroRange, Bool.not_eq_true']
  case zeroCord =>
    intro s c t k hk hmode hmgmt hunused
    dsimp only
    intro hcord
    rw [exec_zeroRange_of_cord hk hmode hmgmt hunused hcord, State.zeroWhole_eq]
  case triple =>
    intro s c t k r hk
    dsimp only
    intro hregion hsync hactive htripling hmigrating
    have hplain : ¬ r.sync = true := by simp [hsync]
    have hidle : ¬ (r.state != RegionState.active || r.tripling.isSome || r.cords.any fun n => (s.cord n).state == .migrating) = true := by
      rw [hactive, htripling, hmigrating]
      decide
    change execRegionTriple c t s = _
    rw [execRegionTriple, State.withTaken_of_taken hk, done]
    simp only [hregion, if_neg hplain, if_neg hidle]
    generalize State.reserveCopies _ _ _ _ = reserved
    obtain _ | ⟨u, _ | n⟩ := reserved
    · rfl
    · rfl
    · rfl
  case syncInit =>
    intro s c t k rn dpa hk
    dsimp only
    intro hat halign harea hright hsome hmost hfits
    have hword : ¬ (k.par 16 8 % 8 ≠ 0 ∨ (!s.syncArea dpa) = true) := by simp [halign, harea]
    have hmay : ¬ (!s.hasRight k.ctx rn rightSync) = true := by simp [hright]
    have hcount : ¬ (k.par 24 4 = 0 ∨ 4194304 < k.par 24 4 ∨ 2 ^ 25 < dpa % 2 ^ 28 + 8 * k.par 24 4) := by omega
    change execSyncInit c t s = _
    rw [execSyncInit, State.withTaken_of_taken hk, done]
    simp only [hat, if_neg hword, if_neg hmay, if_neg hcount]

end Sys2Proof.Machine
end

