-- ==== Sys2Proof/Proofs/MaintenanceRows.lean ====
section
/-! What the maintenance commands do where their checks pass: self-tests, calibration, retirement and firmware update (R23, R71, R97, R225,
R226, R341, R490-R493). -/

set_option Elab.async false

namespace Sys2Proof.Machine

/-! ## SELFTEST and SELFTEST_COMPLETE (R23, R490) -/

section
variable {s : State} {c t : Nat} {k : Cmd}

theorem exec_selftest_of_taken (hk : s.Taken c t 0x50 k) :
    exec (.selftest c t) s =
      .next (match s.testStart k with | .only st => s.refuse k st | .later st i => (s.deferOnce k).refuse k st i | .go u => u.running k) := by
  change execSelftest c t s = _
  cases hstart : s.testStart k <;> simp only [execSelftest, done, State.withTaken_of_taken hk, hstart]

/-- An Ember in service that no plan names is taken out for its test (R225). -/
theorem State.testStart_of_ember (hkind : k.par 16 1 = 0) (hember : k.par 18 2 < 256) (hserves : (s.ember (k.par 18 2)).inService = true)
    (hfree : s.emberNamed (k.par 18 2) = false) :
    s.testStart k = .go (s.modEmber (k.par 18 2) fun e =>
      { e with state := .fenced, testing := some (k.ctx, k.tag), margin := bit (k.par 20 1) 3 }) := by
  simp only [State.testStart, hkind, if_neg (Nat.not_le.mpr hember), hserves, hfree, Bool.not_true, Bool.false_eq_true, if_false]

/-- The final reply of a test: its result, or the code of its failure, which is logged. -/
def State.testReply (s : State) (k : Cmd) (pass : Bool) : State :=
  if pass then s.final k stOk (natLE 1 0)
  else (s.draw.2.log 0x0906 none none (natLE 1 (k.par 16 1) ++ natLE 2 (k.par 18 2) ++ natLE 4 (Config.failCode s.draw.1 % 2 ^ 32))).final k stOk
    (natLE 1 1 ++ natLE 4 (Config.failCode s.draw.1 % 2 ^ 32))

theorem State.testReply_embers (s : State) (k : Cmd) (pass : Bool) : (s.testReply k pass).embers = s.embers := by
  cases pass <;> rfl

theorem exec_selftestComplete_of_testRun (pass : Bool) (hk : s.Running c t 0x50 k) (hrun : s.testRun (k.par 16 1) (k.par 18 2) = true) :
    exec (.selftestComplete c t pass) s =
      .next ((s.tested (k.par 16 1) (k.par 18 2) (pass && !s.unitLost (k.par 16 1) (k.par 18 2))).testReply k
        (pass && !s.unitLost (k.par 16 1) (k.par 18 2))) := by
  change execSelftestComplete c t pass s = _
  rw [execSelftestComplete, State.withRunning_of_running hk, done]
  simp only [hrun, Bool.not_true, Bool.false_eq_true, if_false]
  rfl

theorem State.tested_ember (s : State) (n : Nat) (pass : Bool) :
    ((s.tested 0 n pass).ember n).state = if pass then .idle else .fenced := by
  rw [State.tested, State.ember_modEmber, if_pos rfl]

end

/-! ## RETIRE and RETIRE_COMPLETE (R97, R492) -/

section
variable {s : State} {c t : Nat} {k : Cmd}

/-- The channel is out for good, its merge buffer flushed (R97). -/
def State.closedChannel (s : State) (g : Nat) : State :=
  (s.flushAll g).modChan g fun c => { c with state := .retired, retiring := none, merge := [], bmCache := [], openRows := [] }

/-- Its cords are out with it. -/
def State.closedCords (s : State) (g : Nat) : State :=
  (List.range 12).foldl (fun t i => t.modCord (12 * g + i) fun x => x.unbound .retired) (s.closedChannel g)

/-- The channel is kept as a retired one. -/
def State.retiredChannel (s : State) (g : Nat) : State :=
  { s.closedCords g with kept := { (s.closedCords g).kept with retiredChans := (s.closedCords g).kept.retiredChans ++ [g] } }

theorem foldl_modCord_chans {α : Type} (n : α → Nat) (f : Cord → Cord) (l : List α) (s : State) :
    (l.foldl (fun t i => t.modCord (n i) f) s).chans = s.chans := by
  induction l generalizing s with
  | nil => rfl
  | cons a l ih => rw [List.foldl_cons, ih]; rfl

theorem State.closedCords_chans (s : State) (g : Nat) : (s.closedCords g).chans = (s.closedChannel g).chans :=
  foldl_modCord_chans (fun i => 12 * g + i) (fun x => x.unbound .retired) (List.range 12) (s.closedChannel g)

theorem State.closedChannel_state (s : State) (g : Nat) : ((s.closedChannel g).chan g).state = .retired := by
  rw [State.closedChannel, State.chan_modChan, if_pos rfl]

theorem State.retiredChannel_state (s : State) (g : Nat) : ((s.retiredChannel g).chan g).state = .retired := by
  simp only [State.chan, State.retiredChannel, State.closedCords_chans]
  exact s.closedChannel_state g

theorem State.mem_retiredChannel (s : State) (g : Nat) : g ∈ (s.retiredChannel g).kept.retiredChans :=
  List.mem_append_right _ (List.mem_singleton.mpr rfl)

/-- A final reply, and the log entry before it, leave the channels and what is kept through resets as they are. -/
theorem State.final_log_rest (s : State) (k : Cmd) (status event : Nat) (ctx dpa : Option Nat) (detail results : Bytes) :
    ((s.log event ctx dpa detail).final k status results).chans = s.chans ∧
    ((s.log event ctx dpa detail).final k status results).kept = s.kept := ⟨rfl, rfl⟩

/-- With every cord moved and none zeroising, the channel that the command retires is retired, which is logged. -/
theorem exec_retireComplete_of_emptied (hk : s.Running c t 0x52 k) (hkind : k.par 16 1 = 1)
    (hretiring : (s.chan (k.par 18 2)).retiring = some (k.ctx, k.tag)) (hcords : (s.chan (k.par 18 2)).retireCords = [])
    (hzeroising : (List.range 12).any (fun i => (s.cord (12 * k.par 18 2 + i)).state == .zeroising) = false) :
    exec (.retireComplete c t) s =
      .next (((s.retiredChannel (k.par 18 2)).log 0x0108 none none (natLE 2 (k.par 18 2) ++ natLE 2 (s.chan (k.par 18 2)).retireMoved ++
          natLE 4 (s.chan (k.par 18 2)).retireCinder)).final k stOk
        (natLE 2 (s.chan (k.par 18 2)).retireMoved ++ zeros 2 ++ natLE 4 (s.chan (k.par 18 2)).retireCinder)) := by
  change execRetireComplete c t s = _
  rw [execRetireComplete, State.withRunning_of_running hk, done]
  simp only [hkind, hretiring, hcords, hzeroising, ne_eq, not_true_eq_false, decide_false, Bool.or_self, Bool.false_eq_true, or_self, if_false,
    State.retiredChannel, State.closedCords, State.closedChannel]

end

/-- Settles O26: each row finds its command taken or running, passes its checks one by one, and takes its effect. -/
theorem maintenanceRowsTakeEffect : Obligations.MaintenanceRowsTakeEffect := by
  unfold Obligations.MaintenanceRowsTakeEffect
  refine ⟨?selftestEmber, ?selftest, ?selftestComplete, ?calibrate, ?retireEmber, ?retirePort, ?retireComplete, ?writeImage, ?raiseFloor,
    ?writeDone⟩
  case selftestEmber =>
    intro s c t k hk hkind
    dsimp only
    intro hember hserves hfree
    rw [exec_selftest_of_taken hk, State.testStart_of_ember hkind hember hserves hfree]
  case selftest => exact fun s c t k hk => exec_selftest_of_taken hk
  case selftestComplete =>
    intro s c t k pass hk
    dsimp only
    intro hrun
    refine ⟨_, exec_selftestComplete_of_testRun pass hk hrun, fun hok => ?_, fun hfails => ?_, fun hkind => ?_⟩
    · rw [hok]
      exact ⟨_, rfl⟩
    · rw [hfails]
      exact ⟨_, _, rfl⟩
    · rw [State.ember, State.testReply_embers, ← State.ember, hkind, State.tested_ember]
  case calibrate =>
    intro s c t k hk
    dsimp only
    intro htasks hchan hserves
    have hnamed : ¬ k.par 16 2 = 0xFFFF := by omega
    have hin : ¬ (k.par 16 2 ≠ 0xFFFF ∧ 512 ≤ k.par 16 2) := by omega
    have hworks : ((s.chan (k.par 16 2)).state == .inService || (s.chan (k.par 16 2)).state == .migrating) = true := by
      rcases hserves with h | h <;> simp [h]
    change execCalibrate c t s = _
    rw [execCalibrate, State.withTaken_of_taken hk, done]
    simp only [if_neg htasks, if_neg hin, hworks, Bool.not_true, Bool.and_false, Bool.false_eq_true, if_false, if_neg hnamed,
      List.foldl_cons, List.foldl_nil]
  case retireEmber =>
    intro s c t k hk hkind
    dsimp only
    intro hember htest hretired
    change execRetire c t s = _
    rw [execRetire, State.withTaken_of_taken hk, done]
    simp only [hkind, htest, hretired, Nat.not_lt_zero, Bool.false_eq_true, if_true, if_false, if_neg (Nat.not_le.mpr hember)]
  case retirePort =>
    intro s c t k hk hkind
    dsimp only
    intro hport htest hretired
    change execRetire c t s = _
    rw [execRetire, State.withTaken_of_taken hk, done]
    simp only [hkind, htest, hretired, Nat.lt_irrefl, Nat.reduceEqDiff, Bool.false_eq_true, if_false, if_neg (Nat.not_le.mpr hport)]
  case retireComplete =>
    intro s c t k hk hkind
    dsimp only
    intro hretiring hcords hzeroising
    obtain ⟨hchans, hkept⟩ := (s.retiredChannel (k.par 18 2)).final_log_rest k stOk 0x0108 none none
      (natLE 2 (k.par 18 2) ++ natLE 2 (s.chan (k.par 18 2)).retireMoved ++ natLE 4 (s.chan (k.par 18 2)).retireCinder)
      (natLE 2 (s.chan (k.par 18 2)).retireMoved ++ zeros 2 ++ natLE 4 (s.chan (k.par 18 2)).retireCinder)
    refine ⟨_, exec_retireComplete_of_emptied hk hkind hretiring hcords hzeroising, ⟨_, rfl⟩, ?_, ?_⟩
    · rw [State.chan, hchans, ← State.chan, State.retiredChannel_state]
    · rw [hkept]
      exact s.mem_retiredChannel _
  case writeImage =>
    intro s c t k hostData b hk hidle hlost hkind hsize
    dsimp only
    intro hread
    have hbusy : ¬ s.diag.updating.isSome = true := by simp [hidle]
    change execFwUpdate c t hostData s = _
    rw [execFwUpdate, State.withTaken_of_taken hk, done]
    simp only [if_neg hbusy, hlost, hkind, Bool.false_and, Bool.false_eq_true, if_false, if_neg (Nat.not_lt.mpr hsize)]
    generalize s.readIn k (k.par 16 8) (k.par 24 4) hostData = r at hread ⊢
    obtain ⟨u, p⟩ := r
    cases hread
    rfl
  case raiseFloor =>
    intro s c t k hostData hk hidle hkind
    dsimp only
    intro hfloor
    have hbusy : ¬ s.diag.updating.isSome = true := by simp [hidle]
    change execFwUpdate c t hostData s = _
    rw [execFwUpdate, State.withTaken_of_taken hk, done]
    simp only [if_neg hbusy, hkind, Nat.reduceBEq, Bool.and_false, Bool.false_eq_true, if_false, if_neg (Nat.not_lt.mpr hfloor)]
  case writeDone =>
    intro s c t k b hk hlost hupdating
    change execFwUpdateWriteDone c t s = _
    rw [execFwUpdateWriteDone, State.withRunning_of_running hk, done]
    simp only [hlost, hupdating, Bool.false_eq_true, if_false, Option.map_some, Option.getD_some]

end Sys2Proof.Machine
end

