-- ==== Sys2Proof/Proofs/PortRegisterRows.lean ====
section
/-! What the rows of the command bits and injection registers do for a reader whose writes change the device (R101, R157, R231, R267, R269,
R270, R302, R363). -/

set_option Elab.async false

namespace Sys2Proof.Machine

section
variable {s : State} {rd : Reader} {n k : Nat} (f : State → State)

/-- A write to the register of a unit that is there, by a reader that may write. -/
theorem onUnit_write (hn : n < k) (hmay : s.mayWrite rd false = true) :
    onUnit n k (fun s => if s.mayWrite rd false then f s else s) s = f s := by
  rw [onUnit, if_pos hn]
  exact if_pos hmay

/-- The same for a unit on Hearth `h`, which is not lost. -/
theorem onUnit_hearthWrite {h : Nat} (hn : n < k) (hmay : s.mayWrite rd false = true) (hlost : s.hearthLost h = false) :
    onUnit n k (fun s => if s.mayWrite rd false && !s.hearthLost h then f s else s) s = f s := by
  rw [onUnit, if_pos hn]
  exact if_pos (by rw [hmay, hlost]; rfl)

end

/-- Settles O43: each row is the write of one unit's register, which takes its effect on a unit that is there and reached. -/
theorem portRegisterRowsTakeEffect : Obligations.PortRegisterRowsTakeEffect := by
  unfold Obligations.PortRegisterRowsTakeEffect
  refine ⟨?reset, ?retrain, ?disable, ?fabInj, ?memInj, ?embInj, ?fqMark⟩
  case reset => exact fun s rd p hp hmay => congrArg done (onUnit_write (fun s => s.ctrlReset p) hp hmay)
  case retrain => exact fun s rd p hp hmay => congrArg done (onUnit_write (fun s => s.startRetrain p) hp hmay)
  case disable => exact fun s rd p on hp hmay => congrArg done (onUnit_write (fun s => s.setDisable p on) hp hmay)
  case fabInj => exact fun s rd p v hp hmay => congrArg done (onUnit_write (fun s => s.fabInj p v.toNat) hp hmay)
  case memInj => exact fun s rd g v hg hmay hlost => congrArg done (onUnit_hearthWrite (fun s => s.memInj g v.toNat) hg hmay hlost)
  case embInj => exact fun s rd tile v ht hmay hlost => congrArg done (onUnit_hearthWrite (fun s => s.embInj tile v.toNat) ht hmay hlost)
  case fqMark => exact fun s rd h v hh hmay hlost => congrArg done (onUnit_hearthWrite (fun s => s.markSlot h (bits v.toNat 0 10)) hh hmay hlost)

end Sys2Proof.Machine
end

