-- ==== Sys2Proof/Proofs/CordAndRegionRows.lean ====
section
/-! What the commands on cords, regions, grants and leases do where their checks pass (R104, R105, R108, R110-R112, R117, R118, R467-R472). -/

set_option Elab.async false

namespace Sys2Proof.Machine

/-! ## Lists of cords (R468, R469) -/

/-- A list of cords passes where none is refused by itself and none stands twice. -/
theorem firstRefused_eq_none {l : List Nat} {bad : Nat → Option Nat} (hnodup : l.Nodup) (hok : ∀ n ∈ l, bad n = none) :
    firstRefused l bad = none := by
  rw [firstRefused, List.findSome?_eq_none_iff]
  intro p hp
  obtain ⟨i, hi, rfl⟩ := List.mem_iff_getElem.mp hp
  have hlen : i < l.length := by simpa using hi
  have hfirst : l[i] ∉ l.take i := by
    intro hmem
    obtain ⟨j, hj, heq⟩ := List.mem_take_iff_getElem.mp hmem
    have hji : j = i := hnodup.getElem_inj_iff.mp heq
    omega
  simp [hok l[i] (List.getElem_mem hlen), hfirst]

/-- Updates of cords leave the contexts and the grants as they are. -/
theorem foldl_modCord_rest (f : Cord → Cord) (l : List Nat) (s : State) :
    (l.foldl (fun t n => t.modCord n f) s).ctxs = s.ctxs ∧ (l.foldl (fun t n => t.modCord n f) s).grants = s.grants := by
  induction l generalizing s with
  | nil => exact ⟨rfl, rfl⟩
  | cons n l ih => exact ih (s.modCord n f)

theorem State.state_of_allocatedTo {s : State} {n c : Nat} (h : s.allocatedTo n c = true) : (s.cord n).state = .allocated := by
  simp only [State.allocatedTo, Bool.and_eq_true, beq_iff_eq] at h
  obtain ⟨⟨-, hstate⟩, -⟩ := h
  exact hstate

/-! ## Grants -/

section
variable (s : State) (k : Cmd) (status : Nat) (results : Bytes)

/-- A final reply leaves the regions and the grants as they are. -/
theorem State.final_regions : (s.final k status results).regions = s.regions := rfl

theorem State.final_grants : (s.final k status results).grants = s.grants := rfl

end

/-- A holder without a grant on a region has no entry to give back. -/
theorem State.grants_filter_of_grant_none {s : State} {h n : Nat} (hnone : s.grant h n = none) :
    (s.grants.filter fun g => !(g.holder == h && g.region == n)) = s.grants := by
  rw [List.filter_eq_self]
  intro g hg
  simpa [Classical.or_iff_not_imp_left] using List.find?_eq_none.mp hnone g hg

/-- A grant that stands renews at a time before its expiry. -/
theorem renewFault_eq_none {g : Grant} {t : Nat} (htombstone : g.tombstone = false) (hleaving : g.leaving = false) (htime : t < g.expiry) :
    renewFault (some g) t = none := by
  simp [renewFault, htombstone, hleaving, Nat.not_le.mpr htime]

/-! ## The rows -/

/-- Settles O21: each row finds its command taken, passes its checks one by one, and takes its effect. -/
theorem cordAndRegionRowsTakeEffect : Obligations.CordAndRegionRowsTakeEffect := by
  unfold Obligations.CordAndRegionRowsTakeEffect
  refine ⟨?alloc, ?free, ?define, ?share, ?revoke, ?renew⟩
  case alloc =>
    intro s c t k l hk
    dsimp only
    intro hparams hlive hplace hwritten
    change execCordAlloc c t true s = _
    rw [execCordAlloc, State.withTaken_of_taken hk, done]
    simp only [hparams, hlive, hplace, Bool.not_true, Bool.false_eq_true, if_false]
    generalize s.writeOut k _ _ true = w at hwritten ⊢
    obtain ⟨u, o⟩ := w
    cases hwritten
    rfl
  case free =>
    intro s c t k hostData b hk
    dsimp only
    intro halign hsome hmost hlive hread hnodup halloc
    have hcount : ¬ (k.par 24 2 = 0 ∨ 6144 < k.par 24 2) := by omega
    change execCordFree c t hostData s = _
    rw [execCordFree, State.withTaken_of_taken hk, done]
    simp only [halign, ne_eq, not_true_eq_false, if_false, if_neg hcount, hlive, Bool.not_true, Bool.false_eq_true]
    generalize s.readIn k _ _ hostData = w at hread halloc ⊢
    obtain ⟨u, p⟩ := w
    cases hread
    have haccept := firstRefused_eq_none (bad := fun n =>
      if decide (n < 6144) && ((u.cord n).state == .bound || (u.cord n).state == .migrating) then some stInUse
      else if u.allocatedTo n (k.par 22 2 % 4096) then none else some stBadParam) hnodup fun n hn => by
        simp [State.state_of_allocatedTo (halloc n hn), halloc n hn]
    simp only [haccept]
  case define =>
    intro s c t k hostData b lease n g hk
    dsimp only
    intro hsync hiso hconf hflags hsome hmost hbase hlease hread hnodup halloc hregions hgrants hfree hchosen
    have hnotIso : bit (k.par 26 1) 0 = false := by simp [bit, hsync]
    have hnotSync : bit (k.par 26 1) 2 = false := by simp [bit, Nat.div_eq_of_lt hflags]
    have hmay : ¬ (bit (k.par 26 1) 1 && !s.ctxConf k.ctx) = true := by simpa using hconf
    have hcount : ¬ (k.par 24 2 = 0 ∨ 6144 < k.par 24 2) := by omega
    change ∃ v, execRegionDefine c t hostData s = _ ∧ _
    rw [execRegionDefine, State.withTaken_of_taken hk, done]
    simp only [if_neg hmay, hnotIso, hiso, bne_self_eq_false, Bool.false_eq_true, if_false, if_neg hcount, if_neg (Nat.not_lt.mpr hbase), hlease]
    generalize s.readIn k _ _ hostData = w at hread halloc hregions hgrants hfree hchosen ⊢
    obtain ⟨u, p⟩ := w
    cases hread
    have haccept := firstRefused_eq_none (bad := fun n => if u.allocatedTo n k.ctx then none else some stBadParam) hnodup fun n hn => by
      simp [halloc n hn]
    obtain ⟨hctxs, hgranted⟩ := foldl_modCord_rest (fun x => { x with state := .bound, region := n, epoch := 0, removed := none })
      (cordNumbers b (k.par 24 2)) u
    simp only [haccept, hregions, hgrants, hfree, hchosen, hnotSync, Bool.not_false, Bool.true_or, Bool.and_self, if_true]
    refine ⟨_, rfl, ⟨_, rfl⟩, ?_, ?_⟩
    · rw [State.region, State.final_regions, Tab.get_set, if_pos rfl]
    · rw [State.final_grants, hgranted, State.ctxConf, State.ctx, hctxs, ← State.ctx, ← State.ctxConf]
  case share =>
    intro s c t k lease r hk
    dsimp only
    intro hlease hregion hstate hfault hnone hhost hroom
    have hlive : (some r).filter (fun x : Region => x.state != RegionState.reclaiming) = some r := by simp [hstate]
    change ∃ v, execRegionShare c t s = _ ∧ _
    rw [execRegionShare, State.withTaken_of_taken hk, done]
    simp only [hlease, hregion, hlive, hfault, hnone, Option.filter_none, Option.isNone_none, Option.isSome_none, if_true,
      State.grants_filter_of_grant_none hnone, hroom, Bool.false_or, hhost, false_and, if_false, Bool.false_eq_true]
    refine ⟨_, rfl, ⟨_, rfl⟩, ?_⟩
    change (s.grants ++ [_]).find? _ = _
    rw [List.find?_append, ← State.grant, hnone]
    simp [widened, hhost]
  case revoke =>
    intro s c t k r g hk
    dsimp only
    intro hregion hgrant hstands hright hstep hlapsed
    have hcurrent : ¬ (!k.mgmt && ((s.grant k.ctx (k.par 16 2)).map (·.lapsed)).getD false && !(k.ctx == k.par 18 2 && false)) = true := by
      rcases hlapsed with h | h <;> simp [h]
    have hmay : ¬ (!(k.ctx == k.par 18 2 || g.issuers.contains k.ctx || s.hasRight k.ctx (k.par 16 2) rightOwn || k.mgmt)) = true := by
      rcases hright with h | h | h | h <;>
        simp only [h, beq_self_eq_true, Bool.true_or, Bool.or_true, Bool.not_true, Bool.false_eq_true, not_false_iff]
    change execRegionRevoke c t s = _
    rw [execRegionRevoke, State.withTaken_of_taken hk, done]
    simp only [hregion, hgrant, hstep, if_neg hcurrent, if_neg hmay, hstands, Bool.false_eq_true, if_false]
  case renew =>
    intro s c t k g hk hholder hcount hunused hnamed hgrant hstands hstays htime
    have hmine : ¬ (!(k.ctx == k.ctx || (k.ctx == 4096 && k.mgmt))) = true := by simp
    have hrenews := renewFault_eq_none hstands hstays htime
    have hregion : g.region = k.par 20 2 := by simpa using List.find?_some hgrant
    have hrenewed : ([some g].filterMap fun g => if (renewFault g k.acceptedAt).isNone then g.map (·.region) else none).eraseDups =
        [k.par 20 2] := by simp [hrenews, hregion, List.eraseDups_cons]
    change ∃ v, execLeaseRenew c t s = _ ∧ _
    rw [execLeaseRenew, State.withTaken_of_taken hk, done]
    simp only [hholder, if_neg hmine, hcount, hunused, Nat.one_ne_zero, Nat.reduceLT, or_self, if_false, List.range_one, List.flatMap_singleton,
      List.map_singleton, List.findSome?_singleton, Nat.mul_zero, Nat.add_zero, if_neg hnamed, hgrant, hrenews, hrenewed]
    refine ⟨_, rfl, ⟨_, rfl⟩, ?_⟩
    rw [State.final_grants]
    simp only [List.contains_cons, List.contains_nil, Bool.or_false, beq_iff_eq, Bool.not_eq_true']

end Sys2Proof.Machine
end

