-- ==== Sys2Proof/Proofs/CordMaintenanceRows.lean ====
section
/-! What the rows that zeroise and move cords do where they act (R103, R126, R127, R129, R130, R374, R536). -/

set_option Elab.async false

namespace Sys2Proof.Machine

/-- Settles O29: each row finds its cord in the state it acts on, and takes its step. -/
theorem cordMaintenanceRowsTakeEffect : Obligations.CordMaintenanceRowsTakeEffect := by
  unfold Obligations.CordMaintenanceRowsTakeEffect
  refine ⟨?sweep, ?zeroised, ?copyBlock, ?cutover⟩
  case sweep => exact fun s i => rfl
  case zeroised =>
    intro s n
    dsimp only
    intro hstate hpending hswept
    have hacts : ¬ (!((s.cord n).state == .zeroising && (s.cord n).zeroPending && (s.cord n).swept)) = true := by
      simp [hstate, hpending, hswept]
    change execCordZeroised n s = _
    rw [execCordZeroised, done]
    simp only [if_neg hacts]
  case copyBlock =>
    intro s n d
    dsimp only
    intro hstate hleft hdest
    have hmoves : (!((s.cord n).state == .migrating && decide ((s.cord n).copied < 65536) && (s.cord n).dest.isSome)) = false := by
      simp [hstate, hleft, hdest]
    change execCordCopyBlock n s = _
    rw [execCordCopyBlock, done]
    dsimp only
    rw [hmoves, hdest, Bool.false_or, Option.toList_some, List.singleton_append]
    simp only [Bool.or_eq_true, ite_or]
    generalize s.portTurn _ = turn
    obtain ⟨u, _ | _⟩ := turn <;> rfl
  case cutover =>
    intro s n d r
    dsimp only
    intro hregion hdest hstate hcopied hactive
    have hready : ¬ (!((s.cord n).state == .migrating && decide (65536 ≤ (s.cord n).copied)) || r.state != .active) = true := by
      simp [hstate, hcopied, hactive]
    change execCordCutover n s = _
    rw [execCordCutover, done]
    simp only [hregion, hdest, if_neg hready]
    cases State.cordQuiet _ n <;> rfl

end Sys2Proof.Machine
end

