-- ==== Sys2Proof/Proofs/DynamicCapacityRows.lean ====
section
/-! What the rows of the host's dynamic capacity do where the mailbox is reached (R133, R386, R390, R391). -/

set_option Elab.async false

namespace Sys2Proof.Machine

theorem State.onMailbox_of_on {s : State} (hon : s.mailboxOn = true) (f : State → State) : s.onMailbox f = f s := if_pos hon

/-- Settles O55: each mailbox row is what its command does where the mailbox is reached; the two that end what was begun find the offer
or the release that they end. -/
theorem dynamicCapacityRowsTakeEffect : Obligations.DynamicCapacityRowsTakeEffect := by
  unfold Obligations.DynamicCapacityRowsTakeEffect
  refine ⟨?configuration, ?extentList, ?response, ?offerTimeout, ?release, ?releaseComplete⟩
  case configuration => exact fun s hon => congrArg done (State.onMailbox_of_on hon _)
  case extentList => exact fun s hon => congrArg done (State.onMailbox_of_on hon _)
  case response => exact fun s l hon => congrArg done (State.onMailbox_of_on hon _)
  case offerTimeout =>
    intro s g hoffer
    change execDcOfferTimeout s = _
    unfold execDcOfferTimeout
    extract_lets offers
    split
    next hnone => cases hnone.symm.trans hoffer
    next hsome =>
      cases hsome.symm.trans hoffer
      rfl
  case release => exact fun s l hon => congrArg done (State.onMailbox_of_on hon _)
  case releaseComplete =>
    intro s r hrun
    change execReleaseDcComplete s = _
    rw [execReleaseDcComplete, hrun, done]

end Sys2Proof.Machine
end

