-- ==== Sys2Proof/Proofs/RepeatedRequests.lean ====
section
/-! Which requests reach the epoch check of their home, and which the resend table answers before it (R115, R290). -/

set_option Elab.async false

namespace Sys2Proof.Machine

section
variable {s t : State} {n : Nat} {m : Req}

theorem exec_wrInv_of_turn (hmesh : s.mesh[n]? = some m) (hop : m.op = .wrInv) (hturn : s.cycleTurn m = true) :
    exec (.wrInv n) s = .next (s.arrive n m) := by
  have hmsg : (decide (m.op = .wrInv) && s.cycleTurn m) = true := by simp [hop, hturn]
  change execWrInv n s = _
  simp only [execWrInv, done, State.meshOp, hmesh, if_pos hmsg]

/-- A request whose completion the resend table holds gets that completion, whatever its epoch (R290). -/
theorem State.arrive_of_returned (hserves : s.serves (homeTile (m.dpa / 64)) resChannel m.holder = true)
    (hcord : (s.cord (lineCord (m.dpa / 64))).cutover = false) (hhome : s.stillHome m = true) (hresend : s.resendCheck m = .returned t) :
    s.arrive n m = t.takeMesh n := by
  simp only [State.arrive, hserves, hcord, hhome, hresend, Bool.not_true, Bool.false_eq_true, if_false]

end

/-! ## A repeat that arrives after its region's epoch has moved on -/

/-- A WR_INV of endpoint 7 stamped with epoch 0. -/
def repeatedWrite : Req := { op := .wrInv, src := some 7, region := 1 }

/-- What the home answered when it performed the write. -/
def writeCompletion : Completion := { req := repeatedWrite }

/-- The write stands in the mesh once more; two steps of its region have brought its cord to epoch 2. -/
def repeatArrives : State :=
  { State.reset with
    boot := { State.reset.boot with inReset := false, ready := true }, regions := [(1, some { granules := [[0]], epoch := 2 })], gmap := [(0, [0])],
    cords := [(0, { state := .bound, region := 1, epoch := 2 })], mesh := [repeatedWrite],
    resends := [{ src := 7, done := some writeCompletion }] }

/-- The resend table has answered the repeat with the completion it holds. -/
def repeatReturned : State := { repeatArrives with completions := [writeCompletion] }

theorem repeatArrives_resendCheck : repeatArrives.resendCheck repeatedWrite = .returned repeatReturned := rfl

theorem exec_wrInv_repeatArrives : exec (.wrInv 0) repeatArrives = .next (repeatReturned.takeMesh 0) := by
  have harrive : repeatArrives.arrive 0 repeatedWrite = repeatReturned.takeMesh 0 :=
    State.arrive_of_returned (by decide) (by decide) (by decide) repeatArrives_resendCheck
  rw [exec_wrInv_of_turn (m := repeatedWrite) rfl rfl (by decide), harrive]

/-- Refutes O13: the resend table is asked before the epoch check (R290), so the repeat of a WR_INV that the home has performed gets the
completion stored for it, not REVOKED, although its cord no longer admits the epoch it is stamped with. -/
theorem not_epochsAreChecked : ¬ Obligations.EpochsAreChecked := by
  unfold Obligations.EpochsAreChecked
  rintro ⟨-, hrequests, -⟩
  obtain ⟨hrevoked, -⟩ :=
    hrequests (.wrInv 0) .wrInv repeatArrives 0 repeatedWrite (by simp) rfl rfl (by decide) (by decide) (by decide) (by decide)
  have hnext := exec_wrInv_repeatArrives.symm.trans (hrevoked (by decide))
  injection hnext with hstates
  have hanswers : [MsgOp.cmp] = [MsgOp.err] := congrArg (fun u : State => u.completions.map fun (c : Completion) => c.op) hstates
  exact absurd hanswers (by decide)

end Sys2Proof.Machine
end

