-- ==== Sys2Proof/Proofs/TranslationRows.lean ====
section
/-! What the rows of address translation do where their checks pass: the tables bound and synchronised, the walks that end, the fault queues
(R141, R144, R145, R150, R152-R154). -/

set_option Elab.async false

namespace Sys2Proof.Machine

/-! ## A synchronisation and its wait (R144, R145) -/

section
variable {s : State} {k : Cmd} (lo hi : Nat) (f : State → State)

/-- The invalidation comes first; what is under way through the dropped translations is then waited for. -/
theorem State.syncRange_of_fresh (hfresh : k.awaits = none) :
    s.syncRange k lo hi f =
      if (f ((s.dropXlat k.ctx lo hi).reissue k.ctx)).under (s.through k.ctx lo hi) then
        ((f ((s.dropXlat k.ctx lo hi).reissue k.ctx)).modCmd k.ctx k.tag fun x => { x with awaits := some (s.through k.ctx lo hi) }).again k
      else (f ((s.dropXlat k.ctx lo hi).reissue k.ctx)).final k stOk := by
  simp only [State.syncRange, hfresh]

/-- A command that waits drops nothing again. -/
theorem State.syncRange_of_awaits {l : List Nat × List (Nat × Nat)} (hwaits : k.awaits = some l) :
    s.syncRange k lo hi f = if s.under l then s.again k else s.final k stOk := by
  simp only [State.syncRange, hwaits]

end

section
variable {s : State} {c t : Nat} {k : Cmd}

/-- A first PT_BIND whose root is aligned and lies in a table region that may serve the context; root 0 needs no region. -/
theorem exec_ptBind_of_root (hk : s.Taken c t 0x20 k) (hfresh : k.awaits = none) (halign : k.par 16 8 % 4096 = 0)
    (hregion : k.par 16 8 ≠ 0 → s.tableRegionOk k.ctx (k.par 24 2) = true ∧ (s.resolve (k.par 16 8)).map Prod.fst = some (k.par 24 2)) :
    exec (.ptBind c t) s = .next (s.syncRange k 0 (2 ^ 48) fun s =>
      s.modCtx k.ctx fun x => { x with ptRoot := k.par 16 8, ptRegion := if k.par 16 8 = 0 then 0 else k.par 24 2 }) := by
  have hserves : ¬ (k.par 16 8 ≠ 0 ∧ (!s.tableRegionOk k.ctx (k.par 24 2)) = true) := fun ⟨hroot, hnot⟩ => by
    simp [(hregion hroot).1] at hnot
  have hinside : ¬ (k.par 16 8 ≠ 0 ∧ (s.resolve (k.par 16 8)).map Prod.fst ≠ some (k.par 24 2)) := fun ⟨hroot, hnot⟩ =>
    hnot (hregion hroot).2
  change execPtBind c t s = _
  rw [execPtBind, State.withTaken_of_taken hk, done]
  simp only [hfresh, Option.isSome_none, Bool.false_eq_true, if_false, if_neg (not_not_intro halign), if_neg hserves, if_neg hinside]

theorem exec_ptBind_of_awaits (hk : s.Taken c t 0x20 k) (hwaits : k.awaits.isSome = true) :
    exec (.ptBind c t) s = .next (s.syncRange k 0 (2 ^ 48) id) := by
  change execPtBind c t s = _
  rw [execPtBind, State.withTaken_of_taken hk, done]
  simp only [hwaits, if_true]

/-- A page count of 0 names the whole space. -/
theorem exec_ptSync_of_address (hk : s.Taken c t 0x21 k) (halign : k.par 16 8 % 4096 = 0) (hspace : k.par 16 8 < 2 ^ 48) :
    exec (.ptSync c t) s = .next (s.syncRange k (if k.par 24 4 = 0 then 0 else k.par 16 8)
      (if k.par 24 4 = 0 then 2 ^ 48 else k.par 16 8 + 4096 * k.par 24 4) id) := by
  have haddress : ¬ (k.par 16 8 % 4096 ≠ 0 ∨ 2 ^ 48 ≤ k.par 16 8) := by omega
  change execPtSync c t s = _
  rw [execPtSync, State.withTaken_of_taken hk, done]
  simp only [if_neg haddress]

end

/-! ## The demand walk of an Ember (R150) -/

/-- What the end of a walk does for the run that asked for it: a leaf lets the run go on, a fault makes it wait (R150). -/
def State.demandEnds (s : State) (i : Nat) (r : Run) (a : Nat) (w : Bool) : Walk → State
  | .leaf e => (s.tbAdd i e).modEmber i fun m => { m with state := .running, run := m.run.map fun (r : Run) => { r with walking := none } }
  | .fault l cause reason p =>
    s.enterFault i { tile := i, ctx := r.ctx, level := l, span := spanBase l a, cause := cause, write := w, reason := reason, entryAddr := p }
  | .busy => s

/-- A demand walk that does not have to be made again is counted and ends for its run. -/
theorem exec_tbMissWalkDone_of_demand {s : State} {i a : Nat} {r : Run} {w : Bool} (hrun : (s.ember i).run = some r)
    (hwalking : r.walking = some (a, w)) (hfault : r.fault = none) (herr : r.err = none) (hends : (s.walk i r.ctx a w).2 ≠ .busy) :
    exec (.tbMissWalkDone i) s =
      .next (((s.walk i r.ctx a w).1.modFaultQ (tileHearth i) fun q => { q with walks := satInc 32 q.walks }).demandEnds i r a w
        (s.walk i r.ctx a w).2) := by
  change execTbMissWalkDone i s = _
  simp only [execTbMissWalkDone, done, hrun, hwalking, hfault, herr, Option.isSome_none, Bool.or_self, Bool.false_eq_true, if_false]
  generalize s.walk i r.ctx a w = q at hends ⊢
  obtain ⟨u, o⟩ := q
  cases o with
  | leaf => rfl
  | fault => rfl
  | busy => exact absurd rfl hends

/-! ## The fault queues (R152-R154) -/

section
variable {s : State}

/-- A resume that names an open entry by its sequence number, from the faulting context or context 0, ends with the mask of the entry's
tiles. -/
theorem exec_faultResume_of_open {c t : Nat} {k : Cmd} {e : FqEnt} (hk : s.Taken c t 0x22 k) (hhearth : k.par 16 1 < 4)
    (hact : k.par 17 1 < 2) (hslot : k.par 18 2 < 1024) (hopen : Tab.get none (s.faultQ (k.par 16 1)).slots (k.par 18 2) = some e)
    (hseq : e.seq = k.par 20 4) (hissuer : k.ctx = e.fault.ctx ∨ k.ctx = 0) :
    ∃ v, exec (.faultResume c t) s = .next v ∧ v.Ended k stOk (natLE 8 ((e.mask.map (2 ^ ·)).sum)) := by
  have hmay : ¬ (!(k.ctx == e.fault.ctx || k.ctx == 0)) = true := by simpa [Decidable.or_iff_not_imp_left] using hissuer
  change ∃ v, execFaultResume c t s = _ ∧ _
  rw [execFaultResume, State.withTaken_of_taken hk, done]
  simp only [if_neg (show ¬ 3 < k.par 16 1 by omega), if_neg (show ¬ 1 < k.par 17 1 by omega), if_neg (show ¬ 1023 < k.par 18 2 by omega), hopen,
    if_neg (not_not_intro hseq), if_neg hmay]
  exact ⟨_, rfl, _, rfl⟩

theorem exec_faultQueuePost_of_lt {h : Nat} (hh : h < 4) :
    exec (.faultQueuePost h) s =
      .next ((byTile (s.faultQ h).raised h).foldl (fun t f => t.postFault h f) (s.modFaultQ h fun q => { q with raised := [] })) := by
  change execFaultQueuePost h s = _
  rw [execFaultQueuePost, onUnit, if_pos hh, done]

theorem exec_stallListRewalk_of_rewalk {h : Nat} (hh : h < 4) (hrewalk : (s.faultQ h).rewalk = true) :
    exec (.stallListRewalk h) s =
      .next (((s.faultQ h).stall.foldl (fun t f => t.walkAgain f.tile)
        (s.modFaultQ h fun q => { q with stall := [], rewalk := false })).settleFull h) := by
  change execStallListRewalk h s = _
  rw [execStallListRewalk, onUnit, if_pos hh, done]
  simp only [hrewalk, Bool.not_true, Bool.false_eq_true, if_false]

end

/-- Settles O23: PT_BIND and PT_SYNC are one synchronisation, whose wait is the clause on a command that already awaits; each other row takes
the branch that its conditions select. The root put in force with the invalidation is the model's choice (log 46). -/
theorem translationRowsTakeEffect : Obligations.TranslationRowsTakeEffect := by
  unfold Obligations.TranslationRowsTakeEffect
  refine ⟨?bind, ?bindAwaits, ?sync, ?syncAwaits, ?resume, ?leaf, ?fault, ?post, ?rewalk⟩
  case bind =>
    intro s c t k hk
    dsimp only
    intro halign hregion hfresh
    rw [exec_ptBind_of_root hk hfresh halign hregion, State.syncRange_of_fresh _ _ _ hfresh]
  case bindAwaits =>
    intro s c t k l hk hwaits
    rw [exec_ptBind_of_awaits hk (Option.isSome_of_mem hwaits), State.syncRange_of_awaits _ _ _ hwaits]
  case sync =>
    intro s c t k hk
    dsimp only
    intro halign hspace hfresh
    rw [exec_ptSync_of_address hk halign hspace, State.syncRange_of_fresh _ _ _ hfresh, id]
  case syncAwaits =>
    intro s c t k l hk halign hspace hwaits
    rw [exec_ptSync_of_address hk halign hspace, State.syncRange_of_awaits _ _ _ hwaits]
  case resume => exact fun s c t k e => exec_faultResume_of_open
  case leaf =>
    intro s i r a w e hrun hwalking hfault herr
    dsimp only
    intro hleaf
    rw [exec_tbMissWalkDone_of_demand hrun hwalking hfault herr (by simp [hleaf]), hleaf, State.demandEnds]
  case fault =>
    intro s i r a w l cause reason p hrun hwalking hfault herr
    dsimp only
    intro hends
    rw [exec_tbMissWalkDone_of_demand hrun hwalking hfault herr (by simp [hends]), hends, State.demandEnds]
  case post => exact fun s h => exec_faultQueuePost_of_lt
  case rewalk => exact fun s h => exec_stallListRewalk_of_rewalk

end Sys2Proof.Machine
end

