-- ==== Sys2Proof/Proofs/CoherenceRows.lean ====
section
/-! What the rows of a home do where they act: requests and sync operations that join their line's queue, answers to probes, and the timers of
the directory (R115, R165, R166, R168-R172, R178, R183, R185, R187, R287, R290, R317). -/

set_option Elab.async false

namespace Sys2Proof.Machine

/-! ## Messages at their home (Tables 6.2 and 6.3) -/

section
variable {s u : State} {n : Nat} {op : MsgOp} {m : Req}

/-- A row acts on the message of its kind whose turn in the directory cycle has come. -/
theorem State.meshOp_of_turn (hmesh : s.mesh[n]? = some m) (hop : m.op = op) (hturn : s.cycleTurn m = true) (f : Req → State) :
    s.meshOp n op f = f m := by
  simp [State.meshOp, hmesh, hop, hturn]

/-- What the resend table takes and the cord admits finds a place in its line's queue. -/
theorem State.arrive_of_atHome (hhome : s.AtHome n op m u) : s.arrive n m = u.joined n m := by
  obtain ⟨-, -, -, hserves, hcord, hstill, hadmits, htaken, hroom⟩ := hhome
  simp only [State.arrive, hserves, hcord, hstill, htaken, hadmits, Bool.not_true, Bool.false_eq_true, if_false]
  generalize hqueued : u.enqueue (m.dpa / 64) m = q at hroom
  obtain ⟨t, joins⟩ := q
  cases hroom
  simp only [State.joined, hqueued]

theorem State.meshOp_arrive_of_atHome (hhome : s.AtHome n op m u) : (s.meshOp n op fun m => s.arrive n m) = u.joined n m := by
  have ⟨hmesh, hop, hturn, _⟩ := hhome
  rw [State.meshOp_of_turn hmesh hop hturn, State.arrive_of_atHome hhome]

end

/-- Settles O30: each request row is the arrival of a message of its kind at its home. -/
theorem homeRequestsTakeEffect : Obligations.HomeRequestsTakeEffect := by
  unfold Obligations.HomeRequestsTakeEffect
  refine ⟨?rdShared, ?rdOwn, ?upgrade, ?rdCur, ?wrInv, ?wrPart, ?accLine⟩
  all_goals exact fun s n m u hhome => congrArg done (State.meshOp_arrive_of_atHome hhome)

/-- Settles O31: a sync operation arrives as any request; a fence asks only for the writes before it. -/
theorem syncRequestsTakeEffect : Obligations.SyncRequestsTakeEffect := by
  unfold Obligations.SyncRequestsTakeEffect
  refine ⟨?writeFill, ?readDrain, ?readFull, ?addSat, ?fence⟩
  case fence => exact fun s n m hmesh hop hturn => congrArg done (State.meshOp_of_turn hmesh hop hturn _)
  all_goals exact fun s n m u hhome => congrArg done (State.meshOp_arrive_of_atHome hhome)

/-! ## Answers (R165, R166, R169, R172, R178) -/

section
variable {s u : State} {n : Nat} {op : MsgOp} {m : Req} {e : DirEnt} {k : Lock} {p : Probe}

theorem State.answerComes_of_answerTurn (hturn : s.answerTurn m = true) : s.answerComes n m = s.takeAnswer n m := if_pos hturn

/-- An answer that gives no line up is looked up as the answer of an agent. -/
theorem State.takeAnswer_of_rsp (hwb : m.op ≠ .wb) (hevict : m.op ≠ .evict) : s.takeAnswer n m = s.answered n m :=
  if_neg (not_or.mpr ⟨hwb, hevict⟩)

theorem State.answerComes_of_rsp (hwb : m.op ≠ .wb) (hevict : m.op ≠ .evict) :
    s.answerComes n m = if s.answerTurn m then s.answered n m else s.poolAdmit n m := by
  rw [State.answerComes, State.takeAnswer_of_rsp hwb hevict]

/-- An unlocked line that its owner returns leaves the directory, its data written first where the message carries any. -/
theorem State.ownerReturns_of_ownerGivesUp (hgives : s.OwnerGivesUp n op m e u) :
    s.ownerReturns n m =
      let t := if op == .wb then (u.takeMesh n).queueLine (m.dpa / 64) m.holder (some m.data) else u.takeMesh n
      let w := ((t.setDir (m.dpa / 64) none).finish m .cmp 0 0 []).wake (m.dpa / 64)
      w.1.serveWork 256 (m.dpa / 64 :: w.2) := by
  obtain ⟨-, rfl, -, -, htaken, hlock, hent, hstate, hsharer⟩ := hgives
  have hlock' : (u.takeMesh n).lock (m.dpa / 64) = none := hlock
  have hent' : (u.takeMesh n).dirEnt (m.dpa / 64) = some e := hent
  have howns : (e.state != .S && e.sharers.head? == some (m.src.getD 0)) = true := by simp [hstate, hsharer]
  simp only [State.ownerReturns, htaken, hlock', Option.bind_none, hent', if_pos howns]

theorem State.meshOp_answerComes_of_ownerGivesUp (hgives : s.OwnerGivesUp n op m e u) (hop : op = .wb ∨ op = .evict) :
    (s.meshOp n op fun m => s.answerComes n m) = s.ownerReturns n m := by
  have ⟨hmesh, hkind, hturn, hanswer, _⟩ := hgives
  rw [State.meshOp_of_turn hmesh hkind hturn, State.answerComes_of_answerTurn hanswer, State.takeAnswer, if_pos (hkind ▸ hop)]

/-- An answer that comes in time settles the open probe that it names. -/
theorem State.answered_of_answersProbe (hanswers : s.AnswersProbe n op m k p) : s.answered n m = s.probeAnswered n m k p := by
  obtain ⟨-, -, -, -, hexcused, hlock, hprobe, hkeep⟩ := hanswers
  have hexcused' : (s.takeMesh n).excused.contains (m.dpa / 64, m.src.getD 0, m.txn) = false := hexcused
  have hlock' : (s.takeMesh n).lock (m.dpa / 64) = some k := hlock
  simp only [State.answered, hexcused', hlock', hprobe, hkeep, Bool.false_eq_true, if_false]

theorem State.meshOp_answerComes_of_answersProbe (hanswers : s.AnswersProbe n op m k p) (hwb : op ≠ .wb) (hevict : op ≠ .evict) :
    (s.meshOp n op fun m => s.answerComes n m) = s.probeAnswered n m k p := by
  have ⟨hmesh, hop, hturn, hanswer, _⟩ := hanswers
  rw [State.meshOp_of_turn hmesh hop hturn, State.answerComes_of_answerTurn hanswer,
    State.takeAnswer_of_rsp (hop ▸ hwb) (hop ▸ hevict), State.answered_of_answersProbe hanswers]

end

/-- The message in which the host's response to a snoop of line `l` comes; a BIConflict is none. -/
def hostAnswer (l : Nat) : SnoopRsp → Req
  | .biConflict => {}
  | .biRspS => { op := .rspAck, src := some 0x7FFF, holder := 4096, dpa := 64 * l }
  | .biRspI => { op := .rspNone, src := some 0x7FFF, holder := 4096, dpa := 64 * l }
  | .dirty d => { op := .rspData, src := some 0x7FFF, holder := 4096, dpa := 64 * l, data := padTo 64 d }

/-- A snoop response comes as the host's message, and no such message gives a line up. -/
theorem exec_hostSnoopResponse_of_linkUp {s : State} {l : Nat} {rsp : SnoopRsp} (hlink : s.cxl.linkUp = true) (hrsp : rsp ≠ .biConflict) :
    exec (.hostSnoopResponse l rsp) s =
      let u : State := { s with mesh := s.mesh ++ [hostAnswer l rsp] }
      .next (if u.answerTurn (hostAnswer l rsp) then u.answered s.mesh.length (hostAnswer l rsp)
        else u.poolAdmit s.mesh.length (hostAnswer l rsp)) := by
  have hanswer : (hostAnswer l rsp).op ≠ .wb ∧ (hostAnswer l rsp).op ≠ .evict := by
    cases rsp with
    | biConflict => exact absurd rfl hrsp
    | biRspS | biRspI | dirty => exact ⟨nofun, nofun⟩
  dsimp only
  rw [← State.answerComes_of_rsp hanswer.1 hanswer.2]
  change execHostSnoopResponse l rsp s = _
  unfold execHostSnoopResponse
  rw [hlink, if_neg hrsp]
  rfl

/-- Settles O32: what a line's owner gives up takes the branch of an unlocked line, any other answer that of its open probe. That BIConflict is
only acknowledged, and that a BIRspI is to come after dirty data, is the model's choice (log 138). -/
theorem homeAnswersTakeEffect : Obligations.HomeAnswersTakeEffect := by
  unfold Obligations.HomeAnswersTakeEffect
  refine ⟨?wb, ?evict, ?rspData, ?rspAck, ?rspNone, ?biRspS, ?biRspI, ?dirty, ?biConflict, ?poolAdmit⟩
  case wb =>
    intro s n m e u hgives
    have hcomes := State.meshOp_answerComes_of_ownerGivesUp hgives (.inl rfl)
    rw [State.ownerReturns_of_ownerGivesUp hgives] at hcomes
    exact congrArg done hcomes
  case evict =>
    intro s n m e u hgives
    have hcomes := State.meshOp_answerComes_of_ownerGivesUp hgives (.inr rfl)
    rw [State.ownerReturns_of_ownerGivesUp hgives] at hcomes
    exact congrArg done hcomes
  case biRspS => exact fun s l hlink => exec_hostSnoopResponse_of_linkUp hlink nofun
  case biRspI => exact fun s l hlink => exec_hostSnoopResponse_of_linkUp hlink nofun
  case dirty => exact fun s l d hlink => exec_hostSnoopResponse_of_linkUp hlink nofun
  case biConflict =>
    intro s l hlink
    change execHostSnoopResponse l .biConflict s = _
    rw [execHostSnoopResponse, done, hlink]
    rfl
  case poolAdmit =>
    intro s i n m
    dsimp only
    intro hfirst hmesh
    have hfits := List.of_findIdx?_eq_some hfirst
    simp only [hmesh, Bool.and_eq_true, beq_iff_eq, decide_eq_true_eq] at hfits
    obtain ⟨⟨-, rfl⟩, hroom⟩ := hfits
    change execAnswerPoolAdmit _ s = _
    simp only [execAnswerPoolAdmit, done, hfirst, hmesh, State.poolAdmit, if_pos hroom]
  all_goals exact fun s n m k p hanswers => congrArg done (State.meshOp_answerComes_of_answersProbe hanswers nofun nofun)

/-! ## Timers of the directory (R170, R171, R185, R287, R290) -/

/-- What waits for interval time acts once its time has come, or can come: outside a supply episode (R429). -/
theorem State.atTimer_of_due {s : State} {t : Nat} (hdue : t ≤ s.clk.timer ∨ s.boot.episode = none) (f : State → State) :
    s.atTimer t f = f (s.untilTimer t) := by
  have hcomes : ¬ (decide (s.clk.timer < t) && s.boot.episode.isSome) = true := by
    rcases hdue with hpast | hnone
    · simp [Nat.not_lt.mpr hpast]
    · simp [hnone]
  rw [State.atTimer, if_neg hcomes]

/-- Settles O33: each row finds the entry, lock, wait or probes that it times, and acts at their time. -/
theorem homeTimersTakeEffect : Obligations.HomeTimersTakeEffect := by
  unfold Obligations.HomeTimersTakeEffect
  refine ⟨?minHold, ?recallEnds, ?syncWait, ?probeResend, ?resendEntry⟩
  case minHold =>
    intro s l e hent
    change execMinHoldExpiry l s = _
    rw [execMinHoldExpiry, hent, done]
  case recallEnds =>
    intro s l k hlock hunanswered hdue
    change execRecallTimeout l s = _
    simp only [execRecallTimeout, done, hlock, if_pos hunanswered, State.atTimer_of_due hdue]
  case syncWait =>
    intro s n w hwait hdue
    change execSyncWaitTimeout n s = _
    simp only [execSyncWaitTimeout, done, hwait, State.atTimer_of_due hdue]
  case probeResend =>
    intro s l k q qs hlock
    dsimp only
    intro hstill hdue
    change execProbeResend l s = _
    simp only [execProbeResend, done, hlock, hstill, State.atTimer_of_due hdue]
  case resendEntry =>
    intro s n e hent hstored
    change execResendEntryExpiry n s = _
    simp only [execResendEntryExpiry, done, hent, if_pos hstored, State.atElapsed]

end Sys2Proof.Machine
end

