-- ==== Sys2Proof/Proofs/PlanRows.lean ====
section
/-! What the commands on plans do where their checks pass, and how the starts and the ends of a plan's runs reach it (R205, R206, R208, R209,
R211-R214, R216). -/

set_option Elab.async false

namespace Sys2Proof.Machine

/-! ## PLAN_LOAD (R205, R206) -/

/-- The descriptor count of a well-formed header lies in its bounds. -/
theorem within_count_of_headerOk {h : Bytes} (hok : headerOk h = true) : within (fieldAt h 2 2) 3 4096 = true := by
  simp only [headerOk, Bool.and_eq_true] at hok
  obtain ⟨⟨⟨-, hcount⟩, -⟩, -⟩ := hok
  exact hcount

section
variable (s : State) (k : Cmd) (l : List Bytes) (ts : List Nat) (n : Nat)

theorem State.storePlan_ended :
    (s.storePlan k l ts n).Ended k stOk (natLE 2 n ++ zeros 2 ++ (Config.sm3 (l.flatten ++ natLE 2 k.ctx)).take 16) := ⟨_, rfl⟩

/-- The plan stands in the store under its number: neither its measurement nor the reply touches the store. -/
theorem State.storePlan_plan :
    (s.storePlan k l ts n).plan n =
      some { ctx := k.ctx, bytes := l, tiles := ts, doneWord := fieldAt (l.headD []) 40 8, errorArea := fieldAt (l.headD []) 48 8,
             digest := Config.sm3 (l.flatten ++ natLE 2 k.ctx) } :=
  (Tab.get_set none s.plans n (some _) n).trans (if_pos rfl)

end

/-- Header and descriptors are read, pass the checks of Table 7.6, and the plan is stored. -/
theorem exec_planLoad_of_checks {s u v : State} {c t n : Nat} {k : Cmd} {h b : Bytes} {ts : List Nat} (hk : s.Taken c t 0x30 k)
    (halign : k.par 16 8 % 64 = 0) (hhead : s.rangeStatus k.ctx (k.par 16 8) 64 rightRead = none)
    (hread : s.poolRead k.ctx (k.par 16 8) 64 rightRead = (u, .ok h)) (hok : headerOk h = true)
    (hrange : s.rangeStatus k.ctx (k.par 16 8) (64 * fieldAt h 2 2) rightRead = none)
    (hwhole : (if 64 < fieldAt h 2 2 then u.deferOnce k else u).poolRead k.ctx (k.par 16 8) (64 * fieldAt h 2 2) rightRead = (v, .ok b))
    (hchecks : v.planCheck k.ctx (chunks 64 4096 b) = .ok ts) (hroom : ((v.ctx k.ctx).map Ctx.logFull).getD false = false)
    (hfree : v.freePlan = some n) : exec (.planLoad c t) s = .next (v.storePlan k (chunks 64 4096 b) ts n) := by
  change execPlanLoad c t s = _
  rw [execPlanLoad, State.withTaken_of_taken hk, done]
  simp only [if_neg (not_not_intro halign), hhead, Option.map_none, hread, within_count_of_headerOk hok, hok, if_true, hrange, hwhole, hchecks,
    hroom, hfree, Bool.false_eq_true, if_false]

/-! ## The rows -/

/-- Settles O24: each command passes its checks one by one, and a start or an end notice finds the active run that it names. -/
theorem planRowsTakeEffect : Obligations.PlanRowsTakeEffect := by
  unfold Obligations.PlanRowsTakeEffect
  refine ⟨?load, ?run, ?arm, ?cancel, ?start, ?notice⟩
  case load =>
    intro s c t k h b ts n hk
    dsimp only
    intro halign hhead hread hok hrange hwhole hchecks hroom hfree
    exact ⟨_, exec_planLoad_of_checks hk halign hhead (Prod.ext rfl hread) hok hrange (Prod.ext rfl hwhole) hchecks hroom hfree,
      State.storePlan_ended .., State.storePlan_plan ..⟩
  case run =>
    intro s c t k p hk
    dsimp only
    intro hown hloaded hserves
    change execPlanRun c t s = _
    rw [execPlanRun, State.withTaken_of_taken hk, done]
    simp only [hown, if_neg (not_not_intro hloaded), hserves, Bool.false_eq_true, if_false]
  case arm =>
    intro s c t k p rn dpa hk
    dsimp only
    intro hown hflag hword halign harea hright hloaded hserves hroom
    have hplace : ¬ (k.par 20 8 % 8 ≠ 0 ∨ (!s.syncArea dpa) = true) := by simp [halign, harea]
    change execPlanArm c t s = _
    rw [execPlanArm, State.withTaken_of_taken hk, done]
    simp only [hown, if_neg (show ¬ 1 < k.par 18 1 by omega), hword, if_neg hplace, hright, if_neg (not_not_intro hloaded), hserves,
      if_neg (Nat.not_le.mpr hroom), Bool.not_true, Bool.false_eq_true, if_false]
  case cancel =>
    intro s c t k p hk
    dsimp only
    intro hown hstate hunlocked
    change execPlanCancel c t s = _
    rw [execPlanCancel, State.withTaken_of_taken hk, done]
    simp only [hown, if_neg hstate, hunlocked, Bool.false_eq_true, if_false]
    cases p.active with
    | none => rw [if_pos rfl]
    | some a => rw [if_neg nofun]
  case start =>
    intro s n st p hstart hplan hactive hserves
    have hleft : State.plan { s with starts := s.starts.eraseIdx n } st.plan = some p := hplan
    have hnamed : ¬ (p.active.map (·.number) != some st.number) = true := by simp [hactive]
    have hserving : (State.ember { s with starts := s.starts.eraseIdx n } st.tile).inService = true := hserves
    change execPlanStart n s = _
    rw [execPlanStart, hstart, done]
    simp only [hleft, if_neg hnamed, hserving, if_true]
  case notice =>
    intro s n m p a hend hplan hactive hnumber
    have hleft : State.plan { s with ends := s.ends.eraseIdx n } m.plan = some p := hplan
    change execEndNotice n s = _
    rw [execEndNotice, hend, done]
    simp only [hleft, hactive, if_neg (not_not_intro hnumber)]

end Sys2Proof.Machine
end

