-- ==== Sys2Proof/Proofs/EmberRows.lean ====
section
/-! What the control descriptors of an Ember do where a run stands at them, and how its errors, ends, turns, guards, fences and completions reach its
runs (R200-R204, R214, R217, R219, R222, R226). -/

set_option Elab.async false

namespace Sys2Proof.Machine

/-! ## Where a descriptor's row acts -/

section
variable {s : State} {t : Nat}

/-- At a boundary where a run stands at a descriptor of its kind, and nothing keeps it there, a descriptor's row acts. -/
theorem State.onDesc_of_atDesc {kind : Nat} {r : Run} {d : Bytes} (hat : s.AtDesc t kind r d) (f : Run → Bytes → State → State) :
    s.onDesc t kind f = f r d (s.boundary t) := by
  obtain ⟨hrun, hdesc, hstate, hguard, hgoes, hwalking, hremote, hserves, hkind, hheld, hrank, hparity, hstore, horder⟩ := hat
  have hacts : ¬ (((s.boundary t).ember t).state != .running || ((s.boundary t).ember t).guard || !r.goes || r.walking.isSome ||
      r.remote.isSome || !(s.boundary t).serves t resEmber r.ctx || dKind d != kind ||
      ((s.boundary t).held && ((s.boundary t).ember t).displaceable r)) = true := by
    rcases hheld with h | h <;> simp [hstate, hguard, hgoes, hwalking, hremote, hserves, hkind, h]
  have hmine : ¬ (dRank0 d && r.rank != 0) = true := by
    rcases hrank with h | h <;> simp [h]
  have hsound : ¬ ((s.boundary t).embArmed t 1 r ||
      ((s.boundary t).embArmed t 0 r && decide (1564672 ≤ ((s.boundary t).ember t).injOffset))) = true := by
    simp [hparity, hstore]
  have hordered : ¬ (dOrder d && !(s.boundary t).writesDone t r) = true := by
    rcases horder with h | h <;> simp [h]
  simp only [State.onDesc, hrun, hdesc, if_neg hacts, if_neg hmine, if_neg hsound, if_neg hordered]

theorem onUnit_of_lt {n k : Nat} (hn : n < k) (f : State → State) : onUnit n k f s = f s := if_pos hn

/-! ## Ends of runs (R214, R222) -/

/-- The run that has to end does so once its requests have completed and its record can be written. -/
theorem exec_emberError_of_ending {parity : Bool} {r : Run} (ht : t < 256) {u : State}
    (hu : (if parity && ((s.ember t).run.map Run.live).getD false then s.parityError t else s) = u)
    (hfirst : ((u.ember t).run.toList ++ (u.ember t).queue).find? (fun r => ((u.ember t).ending r).isSome) = some r) :
    exec (.emberError t parity) s = .next (if u.openOf t r ≠ [] then u else
      if (u.recordReady r).2 then (u.recordReady r).1.finishRun t r (((u.recordReady r).1.ember t).ending r) else (u.recordReady r).1) := by
  change execEmberError t parity s = _
  rw [execEmberError, onUnit_of_lt ht, done]
  simp only [hu, hfirst, bne_iff_ne]
  generalize u.recordReady r = w
  obtain ⟨v, _ | _⟩ := w <;> rfl

end

/-- Settles O37: an end finds the run that has to end or stands at END; each other row finds its Ember in the state on which it acts. -/
theorem emberEventRowsTakeEffect : Obligations.EmberEventRowsTakeEffect := by
  unfold Obligations.EmberEventRowsTakeEffect
  refine ⟨?error, ?endPlan, ?quantum, ?guard, ?fence⟩
  case error => exact fun s t parity r ht => exec_emberError_of_ending ht rfl
  case endPlan =>
    intro s t r d hat
    change execEndPlan t s = _
    rw [execEndPlan, State.onDesc_of_atDesc hat, done]
    simp only [bne_iff_ne, ite_not]
  case quantum =>
    intro s t ht hrun hwaiting
    have hdue : ¬ ((s.ember t).run.isNone || s.waitingRuns t == []) = true := by
      simp [hwaiting, Option.isSome_iff_ne_none.mp hrun]
    change execEmberQuantumExpiry t s = _
    rw [execEmberQuantumExpiry, onUnit_of_lt ht, done]
    exact congrArg _ (if_neg hdue)
  case guard =>
    intro s t ht hguarded
    change execEmberEdgeGuard t s = _
    rw [execEmberEdgeGuard, onUnit_of_lt ht, done]
    simp only [hguarded, Bool.not_true, Bool.false_eq_true, if_false]
  case fence =>
    intro s t ht hserves
    change execEmberFaultFence t s = _
    rw [execEmberFaultFence, onUnit_of_lt ht, if_pos hserves, done, State.fenceEmber]

/-! ## Waits, signals, repeats and completions (R202-R204, R222) -/

/-- Settles O38: each control descriptor's row acts on the run that stands at it, a limit on a WAIT that has begun, a completion on the request it
answers. -/
theorem emberSyncRowsTakeEffect : Obligations.EmberSyncRowsTakeEffect := by
  unfold Obligations.EmberSyncRowsTakeEffect
  refine ⟨?wait, ?limit, ?signal, ?repeats, ?completion⟩
  case wait =>
    intro s t r d hat
    change execWait t s = _
    rw [execWait, State.onDesc_of_atDesc hat, done]
    dsimp only
    generalize State.emberSync _ t r _ _ _ _ = p
    obtain ⟨u, ⟨_ | _ | _⟩ | _ | _⟩ := p <;> rfl
  case limit =>
    intro s t r n t0 hrun hkind hlimit hsince hlive hfault hdue
    change execWaitLimitExpiry t s = _
    simp only [execWaitLimitExpiry, done, hrun, hkind, hlimit, hsince, hlive, hfault, beq_self_eq_true, Bool.not_true, Option.isSome_none,
      Bool.or_self, Bool.false_eq_true, if_false, State.atTimer_of_due hdue]
  case signal =>
    intro s t r d hat
    change execSignal t s = _
    rw [execSignal, State.onDesc_of_atDesc hat, done]
    cases hdone : (s.boundary t).writesDone t r with
    | false => rfl
    | true =>
      rcases Bool.eq_false_or_eq_true (dMode d 0) with hmode | hmode
      all_goals
        simp only [hmode, Bool.not_true, Bool.false_eq_true, if_true, if_false]
        generalize (s.boundary t).emberSync t r _ _ _ _ = p
        obtain ⟨u, _ | _ | _⟩ := p <;> rfl
  case repeats =>
    intro s t r d hat
    change execRepeatRange t s = _
    rw [execRepeatRange, State.onDesc_of_atDesc hat, done]
  case completion =>
    intro s n p q hinbox hfound hreply
    change execRequestCompletion n s = _
    simp only [execRequestCompletion, done, hinbox, hfound]
    cases htile : q.tile with
    | none =>
      have hacked : p.opcode ≠ msgCode .err := hreply.resolve_left (by simp [htile])
      simp only [if_neg hacked]
    | some t => rfl

end Sys2Proof.Machine
end

