-- ==== Sys2Proof/Proofs/OperationRows.lean ====
section
/-! What the eight operations of an Ember do where a run stands at their descriptors (R250, R253, R255-R260). -/

set_option Elab.async false

namespace Sys2Proof.Machine

/-- REDUCE_ADD: the row at operand A is added to the output row, then the counter (R256). -/
def reduceKernel (d : Bytes) (r : Run) : KM Unit :=
  (KM.accRow d (KM.plain (dAddrA d r.rank)) 0 (dDim0 d) (dAddrOut d r.rank)).bind fun _ => KM.counter d

/-- A row whose work is a kernel runs it where a run stands at a descriptor of its kind. The result of the pass decides what comes of the run: the
next descriptor, an end in error, or the same descriptor with what the pass has done. -/
theorem exec_kernel_of_atDesc {i : Instr} {s : State} {t kind : Nat} {r : Run} {d : Bytes} (m : Bytes → Run → KM Unit)
    (hrow : exec i s = .next (s.onDesc t kind fun r d u => u.kernel t r d (m d r))) (hat : s.AtDesc t kind r d) :
    let p := m d r { s := s.boundary t, tile := t, run := r, desc := d, got := r.got }
    exec i s = .next (match p.2 with
      | .ok _ => p.1.s.descDone t (r.pc + 1)
      | .error (.err e) => p.1.s.runError t e
      | .error .later => p.1.s.modRun t fun r =>
          { r with got := p.1.got, progR := max r.progR p.1.i, progW := max r.progW p.1.w, progB := max r.progB p.1.b,
                   progE := max r.progE p.1.e }) := by
  rw [hrow, State.onDesc_of_atDesc hat, State.kernel]
  generalize m d r _ = p
  obtain ⟨k, (_ | e) | a⟩ := p
  case later => rfl
  case err => rfl
  case ok => rfl

/-- Settles O39: the row of each operation is its kernel, which runs on the descriptor at which the run stands. -/
theorem operationRowsTakeEffect : Obligations.OperationRowsTakeEffect := by
  unfold Obligations.OperationRowsTakeEffect
  refine ⟨?gemv, ?attn, ?merge, ?reduce, ?gather, ?scatter, ?convert, ?topk⟩
  case gemv => exact fun _ _ _ _ => exec_kernel_of_atDesc gemvKernel rfl
  case attn => exact fun _ _ _ _ => exec_kernel_of_atDesc attnKernel rfl
  case merge => exact fun _ _ _ _ => exec_kernel_of_atDesc mergeKernel rfl
  case reduce => exact fun _ _ _ _ => exec_kernel_of_atDesc reduceKernel rfl
  case gather => exact fun _ _ _ _ => exec_kernel_of_atDesc gatherKernel rfl
  case scatter => exact fun _ _ _ _ => exec_kernel_of_atDesc scatterKernel rfl
  case convert => exact fun _ _ _ _ => exec_kernel_of_atDesc convertKernel rfl
  case topk => exact fun _ _ _ _ => exec_kernel_of_atDesc topKernel rfl

end Sys2Proof.Machine
end

