-- ==== Sys2Proof/Proofs/LinkRows.lean ====
section
/-! How the state of a port's link goes on at each of its rows (R265, R267-R270, R281, R419, R420). -/

set_option Elab.async false

namespace Sys2Proof.Machine

/-! ## A cell of the partner (R281) -/

theorem LinkState.takes_iff (x : LinkState) : x.takes = true ↔ x = .active ∨ x = .hold ∨ x = .retrain := by
  cases x <;> simp [LinkState.takes]

/-- That its partner is heard leaves a port in its link state. -/
@[simp] theorem State.heard_port_state (s : State) (p : Nat) : ((s.heard p).port p).state = (s.port p).state := by
  rw [State.heard, State.port_modPort, if_pos rfl]

section
variable {s : State} {p : Nat}

/-! ## TRAIN (R268-R270) -/

/-- In `train` the partner's content is kept, and no silence is timed. -/
theorem exec_train_of_train (purpose : Nat) (partner : TrainInfo) (hp : p < 32) (htrain : (s.port p).state = .train) :
    exec (.train p purpose partner) s = .next (s.modPort p fun q => { q with partner := partner, partnerSeen := true }) := by
  change execTrain p purpose partner s = _
  rw [execTrain, onUnit_of_lt hp, done]
  simp only [htrain, LinkState.takes, Bool.false_eq_true, if_false]

/-- A port that takes packets follows the reset that its partner announces. -/
theorem exec_train_of_reset (partner : TrainInfo) (hp : p < 32) (htakes : (s.port p).state.takes = true) :
    exec (.train p 1 partner) s = .next ((s.heard p).fullReset p) := by
  change execTrain p 1 partner s = _
  rw [execTrain, onUnit_of_lt hp, done]
  simp only [if_pos htakes, s.heard_port_state]
  rcases (s.port p).state.takes_iff.mp htakes with h | h | h <;> simp only [h, if_true]

/-- An active port follows the retrain that its partner announces. -/
theorem exec_train_of_retrain (partner : TrainInfo) (hp : p < 32) (hactive : (s.port p).state = .active) :
    exec (.train p 2 partner) s = .next ((s.heard p).startRetrain p) := by
  have hreset : ¬ (2 : Nat) = 1 := by decide
  change execTrain p 2 partner s = _
  rw [execTrain, onUnit_of_lt hp, done]
  simp only [hactive, LinkState.takes, s.heard_port_state, if_neg hreset, if_true]

/-! ## TRAINING_END (R265, R268) -/

/-- Training that ends within 25 ms ends with what both ends allow. -/
theorem exec_trainingEnd_of_train (received : List Nat) (x : TrainInfo) (hp : p < 32) (htrain : (s.port p).state = .train) :
    exec (.trainingEnd p received (some x)) s =
      .next (if (s.port p).enteredAt + 25000000 < s.clk.elapsed then s.portDown p 0
        else (s.modPort p fun q => { q with rxLanes := received }).trained p x) := by
  change execTrainingEnd p received (some x) s = _
  rw [execTrainingEnd, onUnit_of_lt hp, done]
  simp only [htrain, bne_self_eq_false, Bool.false_eq_true, if_false]
  rw [← ite_not]
  simp only [Nat.not_le]

end

/-- Settles O40: each row finds the port in the link state on which it acts. What a port keeps of its partner's training content and the lanes
in use after training, and that the 10 ms of a retry count from the return to `down`, are the model's choices (logs 142 and 95). -/
theorem linkStatesTakeEffect : Obligations.LinkStatesTakeEffect := by
  unfold Obligations.LinkStatesTakeEffect
  refine ⟨?retry, ?signal, ?noSignal, ?train, ?reset, ?announced, ?trainEnds, ?trainFails, ?rateTest, ?threshold, ?retrainEnds, ?retrainFails,
    ?silence⟩
  case retry =>
    intro s p hp hdown husable
    change execDetectRetry p s = _
    rw [execDetectRetry, onUnit_of_lt hp, done]
    simp only [hdown, husable, beq_self_eq_true, Bool.and_self, if_true, State.atElapsed]
  case signal =>
    intro s p lanes hp hdetect hlanes hearly
    change execLinkSignalDetect p lanes s = _
    rw [execLinkSignalDetect, onUnit_of_lt hp, done]
    have hfound : (lanes != [] && decide (s.clk.elapsed ≤ (s.port p).enteredAt + 1000000)) = true := by simp [hlanes, hearly]
    simp only [hdetect, bne_self_eq_false, Bool.false_eq_true, if_false, if_pos hfound]
  case noSignal =>
    intro s p hp hdetect
    change execLinkSignalDetect p [] s = _
    rw [execLinkSignalDetect, onUnit_of_lt hp, done]
    simp only [hdetect, bne_self_eq_false, Bool.false_and, Bool.false_eq_true, if_false, State.atElapsed]
  case train => exact fun s p purpose partner => exec_train_of_train purpose partner
  case reset => exact fun s p partner => exec_train_of_reset partner
  case announced => exact fun s p partner => exec_train_of_retrain partner
  case trainEnds => exact fun s p received x => exec_trainingEnd_of_train received x
  case trainFails =>
    intro s p received hp htrain
    change execTrainingEnd p received none s = _
    rw [execTrainingEnd, onUnit_of_lt hp, done]
    simp only [htrain, bne_self_eq_false, Bool.false_eq_true, if_false, State.atElapsed]
  case rateTest =>
    intro s p lanes hp hcheck hmgmt
    change execErrorRateTestEnd p lanes s = _
    rw [execErrorRateTestEnd, onUnit_of_lt hp, done]
    simp only [hcheck, hmgmt, bne_self_eq_false, Bool.or_self, Bool.false_eq_true, if_false, State.atElapsed]
  case threshold =>
    intro s p lane corrected hp hactive hlane hset hover
    have hstarts : ((s.port p).state == .active && (s.port p).laneMap.contains lane && (s.port p).retrainThresh != 0 &&
        decide ((s.port p).retrainThresh < corrected)) = true := by simp only [hactive, hlane, bne_iff_ne.mpr hset, hover, decide_true]; rfl
    change execRetrainThreshold p lane corrected s = _
    rw [execRetrainThreshold, onUnit_of_lt hp, done, if_pos hstarts]
  case retrainEnds =>
    intro s p hp hretrain hearly
    change execRetrainEnd p s = _
    rw [execRetrainEnd, onUnit_of_lt hp, done]
    simp only [hretrain, hearly, beq_self_eq_true, decide_true, Bool.and_self, if_true]
  case retrainFails =>
    intro s p hp hretrain
    change execRetrainTimeout p s = _
    rw [execRetrainTimeout, onUnit_of_lt hp, done]
    simp only [hretrain, beq_self_eq_true, if_true, State.atElapsed]
  case silence =>
    intro s p hp htakes
    change execLinkSilenceTimeout p s = _
    rw [execLinkSilenceTimeout, onUnit_of_lt hp, done, if_pos htakes, State.atElapsed]

end Sys2Proof.Machine
end

