-- ==== Sys2Proof/Proofs/CellRows.lean ====
section
/-! What the cells of a port do: sequenced cells, acks, replays, credits, and the cells that keep a link alive (R271, R273-R275, R278-R281,
R302). -/

set_option Elab.async false

namespace Sys2Proof.Machine

section
variable {q : Port}

/-- Sequenced cells and acks come and go (Table 9.2). -/
theorem Port.active_or_hold_of_state (h : q.state = .active ∨ q.state = .hold) : (q.state == .active || q.state == .hold) = true := by
  simpa using h

/-- In `hold` only a PENDING is sent again (R274). -/
theorem Port.mayResend_of_state {x : SentCell} (h : q.state = .active ∨ (q.state = .hold ∧ x.cell.pkt.opcode = msgCode .pending)) :
    q.mayResend x = true := by
  simpa [Port.mayResend] using h

end

/-- Settles O41: each row finds the port in a link state in which its cell comes or goes. Which cell meets an armed fault is the model's choice
(log 86). -/
theorem cellRowsTakeEffect : Obligations.CellRowsTakeEffect := by
  unfold Obligations.CellRowsTakeEffect
  refine ⟨?sequenced, ?crcFails, ?ack, ?ackSend, ?replay, ?credit, ?hold, ?idleActive, ?idleHold, ?idleReceived⟩
  case sequenced =>
    intro s p cell hp hstate
    change execSequencedCell p cell s = _
    rw [execSequencedCell, onUnit_of_lt hp, done]
    simp only [Port.active_or_hold_of_state hstate, Bool.not_true, Bool.false_eq_true, if_false]
  case crcFails =>
    intro s p raw hp hstate hcrc
    have hreads : (((s.port p).state.takes || (s.port p).state == .check) && !linkCrcHolds raw) = true := by simpa [hcrc] using hstate
    change execCellCrcFail p raw s = _
    rw [execCellCrcFail, onUnit_of_lt hp, done, if_pos hreads, State.crcFail]
  case ack =>
    intro s p cum bitmap hp hstate
    change execAck p cum bitmap s = _
    rw [execAck, onUnit_of_lt hp, done, if_pos (Port.active_or_hold_of_state hstate)]
  case ackSend =>
    intro s p hp hdue hstate
    change execAckSend p s = _
    rw [execAckSend, onUnit_of_lt hp, done]
    simp only [hdue, Port.active_or_hold_of_state hstate, Bool.and_self, if_true]
  case replay =>
    intro s p seq x hp hstate hsent hdue
    change execReplayTimer p seq s = _
    rw [execReplayTimer, onUnit_of_lt hp, done]
    simp only [hsent, Port.mayResend_of_state hstate, if_true, State.atTimer_of_due hdue]
  case credit =>
    intro s p vc units hp hstate
    have hcredits : ((s.port p).state == .active || (s.port p).state == .hold || (s.port p).state == .check) = true := by
      simpa [or_assoc] using hstate
    change execCredit p vc units s = _
    rw [execCredit, onUnit_of_lt hp, done, if_pos hcredits]
  case hold =>
    intro s p cause hp htakes hcause
    have hholds : ((s.port p).state.takes && (cause == 1 || cause == 2)) = true := by simpa [htakes] using hcause
    change execHold p cause s = _
    rw [execHold, onUnit_of_lt hp, done, if_pos hholds]
  case idleActive =>
    intro s p hp hactive
    change execIdle p false s = _
    rw [execIdle, onUnit_of_lt hp, done]
    simp only [hactive, Bool.false_eq_true, if_false, State.atElapsed]
  case idleHold =>
    intro s p hp hhold
    change execIdle p false s = _
    rw [execIdle, onUnit_of_lt hp, done]
    simp only [hhold, Bool.false_eq_true, if_false]
  case idleReceived =>
    intro s p hp htakes
    change execIdle p true s = _
    rw [execIdle, onUnit_of_lt hp, done]
    simp only [htakes, if_true]

end Sys2Proof.Machine
end

