-- ==== Sys2Proof/Proofs/PacketRows.lean ====
section
/-! Where packets go on: the way of a received packet, its delivery, what keeps a request alive and what sends it again, and a flit's hop
(R285, R287, R288, R291, R294, R302, R515). -/

set_option Elab.async false

namespace Sys2Proof.Machine

section
variable {s : State} {p : Nat} {k : Packet} {rest : List Packet}

/-- A packet without a usable way is counted and discarded (R291). -/
theorem exec_packetRoute_of_noWay (hp : p < 32) (hqueue : (s.port p).rxQ = k :: rest)
    (hway : (s.modPort p fun q => { q with rxQ := rest }).way (b2n k.routeEpoch) k.dst k.ctx = .noRoute ∨
      ∃ q, (s.modPort p fun q => { q with rxQ := rest }).way (b2n k.routeEpoch) k.dst k.ctx = .down q) :
    exec (.packetRoute p) s = .next (((s.modPort p fun q => { q with rxQ := rest }).routeDiscard p).freed p k) := by
  change execPacketRoute p s = _
  rw [execPacketRoute, onUnit_of_lt hp, done]
  rcases hway with hway | ⟨q, hway⟩ <;> simp only [hqueue, hway]

/-- What unsealing leaves of a delivered packet is passed on (R285, R298). -/
theorem exec_packetDeliver_of_queue (hp : p < 32) (hqueue : (s.port p).deliverQ = k :: rest) {u : State}
    (hu : (s.modPort p fun q => { q with deliverQ := rest }).freed p k = u) :
    exec (.packetDeliver p) s = .next (if packetCheck k ≠ k.check then u.e2eDiscard p else
      (msgOf k.opcode).elim (u.e2eDiscard p) fun op => (u.unsealed p k).2.elim (u.unsealed p k).1 ((u.unsealed p k).1.passOn p op)) := by
  change execPacketDeliver p s = _
  rw [execPacketDeliver, onUnit_of_lt hp, done]
  simp only [hqueue, hu]
  cases msgOf k.opcode with
  | none => rfl
  | some op =>
    generalize u.unsealed p k = w
    obtain ⟨v, _ | left⟩ := w <;> rfl

/-- An unanswered request is sent again three times; then, or where it cannot be sent, it is lost (R287). -/
theorem exec_requestResendTimer_of_unanswered {n : Nat} {q : OpenReq} (hopen : s.openReqs[n]? = some q) (hanswer : s.answeredReq q = false)
    (hdue : q.lastHeard + 20000 ≤ s.clk.timer ∨ s.boot.episode = none) {u : State} (hu : s.untilTimer (q.lastHeard + 20000) = u)
    {x : State × Option Nat} (hx : State.source { u with openReqs := u.openReqs.set n { q with lastHeard := u.clk.timer, resends := q.resends + 1 } }
      { q.pkt with resend := true } = x) :
    exec (.requestResendTimer n) s = .next (if 3 ≤ q.resends then u.requestLost q 0xC else x.2.elim x.1 (x.1.requestLost q)) := by
  change execRequestResendTimer n s = _
  simp only [execRequestResendTimer, done, hopen, hanswer, Bool.false_eq_true, if_false, State.atTimer_of_due hdue, hu, hx]
  obtain ⟨v, _ | reason⟩ := x <;> rfl

end

/-- Settles O42: each row finds the packet, request or output on which it acts. -/
theorem packetRowsTakeEffect : Obligations.PacketRowsTakeEffect := by
  unfold Obligations.PacketRowsTakeEffect
  refine ⟨?here, ?out, ?noWay, ?deliver, ?pending, ?pendingTimer, ?resend, ?flit⟩
  case here =>
    intro s p k rest hp hqueue
    dsimp only
    intro hway
    change execPacketRoute p s = _
    rw [execPacketRoute, onUnit_of_lt hp, done]
    simp only [hqueue, hway]
  case out =>
    intro s p k rest q hp hqueue
    dsimp only
    intro hway
    change execPacketRoute p s = _
    rw [execPacketRoute, onUnit_of_lt hp, done]
    simp only [hqueue, hway]
    rw [← ite_not]
    simp only [Nat.not_le]
  case noWay => exact fun s p k rest => exec_packetRoute_of_noWay
  case deliver =>
    intro s p k rest hp hqueue
    dsimp only
    rw [exec_packetDeliver_of_queue hp hqueue rfl]
    cases msgOf k.opcode with
    | none => rfl
    | some op => cases (((s.modPort p fun q => { q with deliverQ := rest }).freed p k).unsealed p k).2 <;> rfl
  case pending =>
    intro s n k hinbox hkind
    change execPending n s = _
    simp only [execPending, done, hinbox, if_neg (not_not_intro hkind)]
  case pendingTimer =>
    intro s n m hopen hfabric
    change execPendingTimer n s = _
    simp only [execPendingTimer, done, hopen, hfabric, Bool.not_true, Bool.false_eq_true, if_false]
  case resend =>
    intro s n q hopen hanswer hdue
    dsimp only
    rw [exec_requestResendTimer_of_unanswered hopen hanswer hdue rfl rfl]
    generalize State.source _ _ = x
    cases x.2 <;> rfl
  case flit =>
    intro s tile output ctx bad ht hout hserves
    have hacts : ¬ (!hasOutput tile output || !s.serves tile (2 + output) ctx) = true := by simp [hout, hserves]
    change execMeshFlit tile output ctx bad s = _
    rw [execMeshFlit, onUnit_of_lt ht, done]
    exact congrArg Host.Outcome.next (if_neg hacts)

end Sys2Proof.Machine
end

