-- ==== Sys2Proof/Proofs/ScheduleRows.lean ====
section
/-! What the commands on gate lists, routes, shapers and policers do where their checks pass, and the refill (R295, R313, R314, R321, R322,
R324, R422). -/

set_option Elab.async false

namespace Sys2Proof.Machine

/-- A version may be written once it has rested for 10 us and no switch to it is pending. -/
theorem State.not_versionInUse {s : State} {last : Option Nat} {pending : Bool} (hrested : s.restedSince last = true)
    (hpending : pending = false) : ¬ (!s.restedSince last || pending) = true := by
  simp [hrested, hpending]

/-- Version `n` of the gate lists is filled (R309). -/
def State.fillGates (s : State) (n : Nat) (g : Gates) : State := { s with sched := { s.sched with versions := s.sched.versions.set n g } }

/-- Version `n` of the routes is filled (R295). -/
def State.fillRoutes (s : State) (n : Nat) (r : Routes) : State := { s with routes := s.routes.set n r }

/-! ## GATE_INSTALL (R313) -/

/-- An image that is read, laid out as a version and passes its checks fills the inactive version. -/
theorem exec_gateInstall_of_checks {s u : State} {c t : Nat} {k : Cmd} {hostData : Option Bytes} {b : Bytes} {g : Gates}
    (hk : s.Taken c t 0x40 k) (hrested : s.restedSince (s.sched.versions.getD (1 - s.sched.active) {}).lastActive = true)
    (hpending : s.sched.pendingGates = false) (hread : s.readIn k (k.par 16 8) (k.par 24 4) hostData = (u, .ok b))
    (hgates : readGates b = some g) (hchecks : u.gateChecks g = none) {v : State}
    (hv : u.fillGates (1 - s.sched.active) { g with lastActive := (s.sched.versions.getD (1 - s.sched.active) {}).lastActive } = v) :
    exec (.gateInstall c t hostData) s =
      .next ((if fieldAt b 20 4 ≠ 0 ∧ g.profile.isNone then v.log 0x0A02 else v).setParent.final k stOk
        (padTo 16 g.digest ++ natLE 1 (1 - s.sched.active))) := by
  change execGateInstall c t hostData s = _
  rw [execGateInstall, State.withTaken_of_taken hk, done]
  simp only [if_neg (State.not_versionInUse hrested hpending), hread, hgates, hchecks, ← hv, State.fillGates]

/-! ## ROUTE_INSTALL (R295) -/

/-- Image and topology table are read and laid out as a version, which fills the inactive one. -/
theorem exec_routeInstall_of_checks {s u v : State} {c t : Nat} {k : Cmd} {hostImage hostTopology : Option Bytes} {img topo : Bytes} {r : Routes}
    (hk : s.Taken c t 0x41 k) (hrested : s.restedSince (s.routes.getD (1 - s.routeActive) {}).lastActive = true)
    (hpending : s.sched.pendingRoutes = false) (himage : s.readIn k (k.par 16 8) 263168 hostImage = (u, .ok img))
    (htopology : u.readIn k (k.par 24 8) 128 hostTopology = (v, .ok topo)) (hroutes : readRoutes img topo = some r) {w : State}
    (hw : v.fillRoutes (1 - s.routeActive) { r with lastActive := (s.routes.getD (1 - s.routeActive) {}).lastActive } = w) :
    exec (.routeInstall c t hostImage hostTopology) s =
      .next ((if w.routeSwitched then w else w.setClasses).final k stOk (natLE 2 r.localIdx ++ natLE 1 (1 - s.routeActive))) := by
  change execRouteInstall c t hostImage hostTopology s = _
  rw [execRouteInstall, State.withTaken_of_taken hk, done]
  simp only [if_neg (State.not_versionInUse hrested hpending), himage, htopology, hroutes, ← hw, State.fillRoutes]

/-! ## EPOCH_SWITCH (R295, R314, R422) -/

/-- A switch of the gate lists meets the checks of R314 on both versions, at a synchronised device. -/
abbrev State.GatesMaySwitch (s : State) (at_ : Nat) : Prop :=
  let g := s.sched.versions.getD (1 - s.sched.active) {}
  g.installed = true ∧ cycleStart (if s.sched.defaultLists then {} else s.gates) at_ = true ∧ cycleStart g at_ = true ∧
    (s.net.state = 1 ∨ s.net.grandmaster = true)

/-- A switch of the routes meets the checks of R422. -/
abbrev State.RoutesMaySwitch (s : State) : Prop :=
  (s.routes.getD (1 - s.routeActive) {}).installed = true ∧ s.topologyFault (1 - s.routeActive) = none

/-- A check on what a switch asks for passes where it is not asked for, or holds. -/
theorem not_asked_and_not {asked : Bool} {c : Bool} (h : asked = true → c = true) : ¬ (asked && !c) = true := by
  cases asked
  · exact Bool.false_ne_true
  · simp [h rfl]

theorem exec_epochSwitch_of_checks {s : State} {c t : Nat} {k : Cmd} (hk : s.Taken c t 0x42 k)
    (hasked : bit (k.par 16 1) 0 = true ∨ bit (k.par 16 1) 1 = true) (hnone : s.sched.pendingT = none)
    (hlate : k.acceptedAt + 50000 ≤ k.par 24 8) (hgates : bit (k.par 16 1) 1 = true → s.GatesMaySwitch (k.par 24 8))
    (hroutes : bit (k.par 16 1) 0 = true → s.RoutesMaySwitch) :
    exec (.epochSwitch c t) s = .next (State.running { s with sched := { s.sched with
      pendingT := some (k.par 24 8), pendingRoutes := bit (k.par 16 1) 0, pendingGates := bit (k.par 16 1) 1,
      pendingCmd := some (k.ctx, k.tag) } } k) := by
  have hany : ¬ (!bit (k.par 16 1) 0 && !bit (k.par 16 1) 1) = true := by rcases hasked with h | h <;> simp [h]
  have hinstalled := not_asked_and_not fun h => let ⟨hin, _⟩ := hgates h; hin
  have hcycles := not_asked_and_not fun h => let ⟨_, hnow, hnext, _⟩ := hgates h; Bool.and_eq_true_iff.mpr ⟨hnow, hnext⟩
  have hsynced : ¬ (bit (k.par 16 1) 1 && !(s.net.state == 1 || s.net.grandmaster)) = true :=
    not_asked_and_not fun h => let ⟨_, _, _, hsync⟩ := hgates h; by simpa using hsync
  have hroutesIn := not_asked_and_not fun h => let ⟨hin, _⟩ := hroutes h; hin
  have htopology : (if bit (k.par 16 1) 0 then s.topologyFault (1 - s.routeActive) else none) = none :=
    ite_eq_right_iff.mpr fun h => let ⟨_, hnofault⟩ := hroutes h; hnofault
  change execEpochSwitch c t s = _
  rw [execEpochSwitch, State.withTaken_of_taken hk, done]
  simp only [if_neg hany, hnone, Option.isSome_none, if_neg (Nat.not_lt.mpr hlate), if_neg hinstalled, if_neg hcycles, if_neg hsynced,
    if_neg hroutesIn, htopology, Bool.false_eq_true, if_false]

/-! ## POLICER_SET (R324) -/

theorem not_badBurst {n : Nat} (hmin : 256 ≤ n) (hmax : n ≤ 1048576) : ¬ (decide (n < 256) || decide (1048576 < n)) = true := by
  simp [hmin, hmax]

/-! ## The rows -/

/-- Settles O25: each command passes its checks one by one and takes its effect. -/
theorem scheduleRowsTakeEffect : Obligations.ScheduleRowsTakeEffect := by
  unfold Obligations.ScheduleRowsTakeEffect
  refine ⟨?gates, ?routes, ?switch, ?shaper, ?policer, ?refill⟩
  case gates =>
    intro s c t k hostData b hk
    dsimp only
    intro hrested hpending hread hgates hchecks
    obtain ⟨g, hg⟩ := Option.isSome_iff_exists.mp hgates
    rw [hg, Option.getD_some] at hchecks ⊢
    exact exec_gateInstall_of_checks hk hrested hpending (Prod.ext rfl hread) hg hchecks rfl
  case routes =>
    intro s c t k hostImage hostTopology img topo r hk
    dsimp only
    intro hrested hpending himage htopology hroutes
    exact exec_routeInstall_of_checks hk hrested hpending (Prod.ext rfl himage) (Prod.ext rfl htopology) hroutes rfl
  case switch =>
    intro s c t k hk
    dsimp only
    intro hasked hnone hlate hgates hroutes
    exact exec_epochSwitch_of_checks hk hasked hnone hlate hgates hroutes
  case shaper =>
    intro s c t k i hk
    dsimp only
    intro hctx hlive hport hset hrate hmin hmax hover hslot
    have hburst : ¬ (k.par 20 4 ≠ 0 ∧ (k.par 24 4 < 256 ∨ 1048576 < k.par 24 4)) := by omega
    have hoverhead : ¬ (k.par 20 4 ≠ 0 ∧ 63 < k.par 28 1) := by omega
    change execShaperSet c t s = _
    rw [execShaperSet, State.withTaken_of_taken hk, done]
    simp only [if_neg (Nat.not_le.mpr hctx), hlive, if_neg (Nat.not_le.mpr hport), if_neg (Nat.not_lt.mpr hrate), if_neg hburst,
      if_neg hoverhead, if_neg hset, hslot, Bool.not_true, Bool.false_eq_true, if_false]
  case policer =>
    intro s c t k i hk
    dsimp only
    intro hctx hlive hport hset hcir hpir hcbsMin hcbsMax hpbsMin hpbsMax hover hslot
    have hpeak : ¬ (k.par 20 4 ≠ 0 ∧ (k.par 24 4 < k.par 20 4 ∨ 1600000 < k.par 24 4)) := by omega
    have hcbs : ¬ (k.par 20 4 ≠ 0 ∧ (decide (k.par 28 4 < 256) || decide (1048576 < k.par 28 4)) = true) :=
      fun h => not_badBurst hcbsMin hcbsMax h.2
    have hpbs : ¬ (k.par 20 4 ≠ 0 ∧ (decide (k.par 32 4 < 256) || decide (1048576 < k.par 32 4)) = true) :=
      fun h => not_badBurst hpbsMin hpbsMax h.2
    have hoverhead : ¬ (k.par 20 4 ≠ 0 ∧ 63 < k.par 36 1) := by omega
    change execPolicerSet c t s = _
    rw [execPolicerSet, State.withTaken_of_taken hk, done]
    simp only [if_neg (Nat.not_le.mpr hctx), hlive, if_neg (Nat.not_le.mpr hport), if_neg (Nat.not_lt.mpr (hcir.trans hpir)), if_neg hpeak,
      if_neg hcbs, if_neg hpbs, if_neg hoverhead, if_neg hset, hslot, Bool.not_true, Bool.false_eq_true, if_false]
  case refill => exact fun s => rfl

end Sys2Proof.Machine
end

