-- ==== Sys2Proof/Proofs/GateRows.lean ====
section
/-! How the gate lists step and switch, and how throttling begins, deepens and ends (R295, R309, R319, R326, R327). -/

set_option Elab.async false

namespace Sys2Proof.Machine

/-! ## Throttling (R326) -/

/-- An event begins: recorded, logged, and reported to the host (R326, R328). -/
def State.beginEvent (s : State) : State :=
  State.cxlEvent (State.throttleEvent { s with sched := { s.sched with
    event := true, eventPending := true, events := s.sched.events + 1,
    records := s.sched.records ++ [({ start := s.clk.nt } : ThrottleRec)] } } 1) 1 1 noAddr 0

/-- A cause that is present outside an event begins one. -/
theorem State.throttleCause_eq (s : State) :
    s.throttleCause = if s.markCause.causeNow && !s.markCause.sched.event then s.markCause.beginEvent else s.markCause := by
  by_cases hbegins : (s.markCause.causeNow && !s.markCause.sched.event) = true
  · have hacts : ¬ (!s.markCause.causeNow || s.markCause.sched.event) = true := by simpa using hbegins
    rw [if_pos hbegins, State.throttleCause, State.beginEvent]
    exact if_neg hacts
  · have hrests : (!s.markCause.causeNow || s.markCause.sched.event) = true := by
      simpa [or_iff_not_imp_left] using hbegins
    rw [if_neg hbegins, State.throttleCause]
    exact if_pos hrests

theorem State.withPower_eq (s : State) (power : Nat) :
    s.withPower power = { s with sched := { s.sched with powerOver := decide (s.powerLimit < power) } } := rfl

/-- Settles O45: each row finds its list, port or switch due and takes its step; a tick judges the cause of the 10 ms before it (log 141), and
no switch takes effect while a supply episode holds the lists (log 106). -/
theorem gateRowsTakeEffect : Obligations.GateRowsTakeEffect := by
  unfold Obligations.GateRowsTakeEffect
  refine ⟨?slotEdge, ?edgeGuard, ?shareEnd, ?switch, ?cause, ?tick⟩
  case slotEdge =>
    intro s list hlist hheld hedge
    have hacts : ¬ (s.held || s.switchesAtEdge list) = true := by simp [hheld, hedge]
    change execGateSlotEdge list s = _
    rw [execGateSlotEdge, onUnit_of_lt hlist, done, if_neg hacts]
  case edgeGuard =>
    intro s p hp hguarded hheld
    have hacts : ¬ (!s.guardedEdge (256 + p) 0 || s.held) = true := by simp [hguarded, hheld]
    change execPortEdgeGuard p s = _
    rw [execPortEdgeGuard, onUnit_of_lt hp, done, if_neg hacts]
  case shareEnd =>
    intro s list hlist hlevel hheld
    have hacts : ¬ (decide (s.throttleLevel = 0) || s.held) = true := by simp [hlevel, hheld]
    change execUsableShareEnd list s = _
    rw [execUsableShareEnd, onUnit_of_lt hlist, done, if_neg hacts]
    simp only [Bool.and_eq_true, decide_eq_true_eq]
  case switch =>
    intro s t hpending hheld
    have hfree : ¬ s.held = true := by simp [hheld]
    change execEpochSwitchAtT s = _
    rw [execEpochSwitchAtT, hpending, done]
    exact congrArg Host.Outcome.next (if_neg hfree)
  case cause =>
    intro s power
    exact congrArg done (State.throttleCause_eq (s.withPower power))
  case tick =>
    intro s power a u ten ends
    have hu : ((s.untilNt ((s.clk.nt / 10000000 + 1) * 10000000)).withPower power).throttleCause = u :=
      congrArg State.throttleCause (a.withPower_eq power)
    have hten : u.tenMs = ten := rfl
    have hends : u.endEvent = ends.throttleEvent 3 := rfl
    clear_value ten ends u
    change execThrottleLevelTick power s = _
    rw [execThrottleLevelTick, done, hu]
    cases hcause : u.sched.causeSince with
    | none => simp only [hten, hends, hcause]
    | some since => simp only [hten, hcause]

end Sys2Proof.Machine
end

