-- ==== Sys2Proof/Proofs/TimeRows.lean ====
section
/-! How network time passes with no command waiting, and how its cells, the silence of its parent and holdover act (R303, R305, R307). -/

set_option Elab.async false

namespace Sys2Proof.Machine

/-- Settles O2: an empty queue takes the first branch of a step. That this step is one tick is the model's choice (log 2). -/
theorem idleStepPassesATick : Obligations.IdleStepPassesATick := by
  unfold Obligations.IdleStepPassesATick
  intro s hidle
  rw [step, hidle]

/-- Settles O44: a cell finds its port active, the silence of a parent a device that is locked to it, and the end of holdover a device in
holdover. That a backup parent counts as locked for 64 us after a locked cell of it is the model's choice (log 105). -/
theorem timeRowsTakeEffect : Obligations.TimeRowsTakeEffect := by
  unfold Obligations.TimeRowsTakeEffect
  refine ⟨?send, ?cell, ?silence, ?holdover⟩
  case send =>
    intro s p hp hactive
    have hsends : ¬ ((s.port p).state != .active) = true := by simp [hactive]
    change execTimeCellSend p s = _
    rw [execTimeCellSend, onUnit_of_lt hp, done]
    exact congrArg Host.Outcome.next (if_neg hsends)
  case cell =>
    intro s p body hp hactive
    have htakes : ¬ ((s.port p).state != .active) = true := by simp [hactive]
    change execTime p body s = _
    rw [execTime, onUnit_of_lt hp, done, if_neg htakes]
  case silence =>
    intro s hinstalled hchild hlocked
    have htimed : ¬ (!s.timeImage.installed || s.net.grandmaster || s.net.state != 1) = true := by simp [hinstalled, hchild, hlocked]
    change execParentSilenceTimeout s = _
    rw [execParentSilenceTimeout, done, if_neg htimed]
    simp only [Bool.and_eq_true, decide_eq_true_eq, bne_iff_ne, and_assoc]
  case holdover =>
    intro s hholdover
    have hends : ¬ (s.net.state != 2) = true := by simp [hholdover]
    change execHoldoverExpiry s = _
    rw [execHoldoverExpiry, done, if_neg hends]

end Sys2Proof.Machine
end

