-- ==== Sys2Proof/Proofs/RowsLeaveFuses.lean ====
section
/-! Rows that leave the queue and the fuses as they are, whatever they do to memory: all but the eleven that reset the device or write a fuse. One
lemma a row that reaches memory, each from the laws of the operations the row makes; the other rows leave more than that as it is. -/

set_option Elab.async false

namespace Sys2Proof.Machine

/-- The row answers a next state in which the queue and the fuses are as before. -/
def LeavesFixed (i : Instr) : Prop := ∀ s : State, ∃ t, exec i s = .next t ∧ t.fixed = s.fixed

theorem LeavesStill.leavesFixed {i : Instr} (h : LeavesStill i) : LeavesFixed i := fun s =>
  (h s).imp fun _ ht => ⟨ht.1, fixed_of_still ht.2⟩

/-! ## Operations of these rows -/

theorem fixed_of_still_trans {s t u : State} (hu : u.still = t.still) (ht : t.fixed = s.fixed) : u.fixed = s.fixed := (fixed_of_still hu).trans ht

theorem State.refuse_fixed (s : State) (k : Cmd) (status byte : Nat) (more : Bytes) : (s.refuse k status byte more).fixed = s.fixed :=
  fixed_of_still (State.refuse_still _ _ _ _ _)

/-- A check that refuses the command or lets it go on to `t`. -/
theorem fixed_refuse_else {s t : State} {c : Prop} [Decidable c] {k : Cmd} {status byte : Nat} {more : Bytes} (ht : t.fixed = s.fixed) :
    (if c then s.refuse k status byte more else t).fixed = s.fixed := by
  split
  · exact State.refuse_fixed _ _ _ _ _
  · exact ht

theorem fixed_ite {s t : State} {c : Prop} [Decidable c] (ht : t.fixed = s.fixed) : (if c then t else s).fixed = s.fixed := by
  split
  · exact ht
  · rfl

theorem State.again_fixed (s : State) (k : Cmd) : (s.again k).fixed = s.fixed := fixed_of_still (State.again_still _ _)

theorem State.final_fixed (s : State) (k : Cmd) (status : Nat) (results : Bytes) : (s.final k status results).fixed = s.fixed :=
  fixed_of_still (State.final_still _ _ _ _)

theorem State.running_fixed (s : State) (k : Cmd) : (s.running k).fixed = s.fixed := fixed_of_still (State.running_still _ _)

theorem State.copyNext_fixed (s : State) (n : Nat) (ds : List Nat) : (s.copyNext n ds).fixed = s.fixed :=
  fixed_of_still_trans (State.modCord_still _ _ _) (State.copyBlock_fixed s n _ ds)

theorem State.issue_fixed (s : State) (g : Nat) (q : MemReq) : (s.issue g q).fixed = s.fixed := by
  unfold State.issue
  extract_lets u v
  have hv : v.fixed = s.fixed := by grind [fixed_of_still, State.modChan_still]
  clear_value v
  split
  any_goals exact fixed_of_still_trans (State.modChan_still _ _ _) hv
  split
  · exact (State.deliver_fixed _ _ _ _).trans hv
  · split
    · exact ((State.written_fixed _ _).trans (State.lineWrite_fixed _ _ _)).trans hv
    · exact fixed_of_still_trans (State.modChan_still _ _ _) hv

theorem State.prefetchWalk_fixed (s : State) (t : Nat) (r : Run) : (s.prefetchWalk t r).fixed = s.fixed := by
  unfold State.prefetchWalk
  split
  · exact fixed_of_still (State.modEmber_still _ _ _)
  · next a hi l _ =>
    extract_lets cached goes
    have hgoes : ∀ u next, (goes u next).still = u.still := fun u next => (State.modEmber_still _ _ _).trans (State.modFaultQ_still _ _ _)
    clear_value goes
    have hw := State.walk_fixed s t r.ctx a false
    split <;> grind [fixed_of_still, State.tbAdd_still, State.modEmber_still]

/-! ## Rows of one shape -/

/-- A request that takes its place at its home (R168). -/
theorem leavesFixed_of_arrive {i : Instr} {n : Nat} {op : MsgOp} (h : ∀ s, exec i s = .next (s.meshOp n op fun m => s.arrive n m)) :
    LeavesFixed i :=
  fun s => ⟨_, h s, State.meshOp_fixed s n _ _ fun m => State.arrive_fixed s n m⟩

/-- An answer, write-back or eviction that reaches its home (R169). -/
theorem leavesFixed_of_answerComes {i : Instr} {n : Nat} {op : MsgOp} (h : ∀ s, exec i s = .next (s.meshOp n op fun m => s.answerComes n m)) :
    LeavesFixed i :=
  fun s => ⟨_, h s, State.meshOp_fixed s n _ _ fun m => State.answerComes_fixed s n m⟩

/-- A descriptor of an Ember whose work is a kernel (chapter 7). -/
theorem leavesFixed_of_kernel {i : Instr} {tile kind : Nat} {m : Bytes → Run → KM Unit}
    (h : ∀ s, exec i s = .next (s.onDesc tile kind fun r d u => u.kernel tile r d (m d r)))
    (hm : ∀ d r, KM.Rel (fun s t => t.fixed = s.fixed) (m d r)) : LeavesFixed i :=
  fun s => ⟨_, h s, State.onDesc_fixed s _ _ _ fun r d u => State.kernel_fixed u _ r d _ (hm d r)⟩

/-! ## The rows -/

section
variable {via : Sender} {offset n ctx tag c point holder region slice cord line g idx stack tile h p purpose lane corrected cum bitmap seq vc units
  cause output list power unit a b level peer w mv hpa log stamp opcode index entry target src statusWord off rate width domain : Nat}
  {bytes raw key sig req : Bytes} {hostOk pass parity parityBad on ok flit256 tach running : Bool} {hostData hostImage hostTopology : Option Bytes}
  {rsp : SnoopRsp} {noise noiseA noiseB : List (Nat × Byte)} {task : CalTask} {rd : Reader} {v : Reg} {cell : Cell} {body : TimeBody}
  {lanes first second failed handles policy : List Nat} {extents : List Extent} {regs : List Regulator} {op : HostMemOp} {reads : SensorReads}
  {win : AliasWindow}

/-! ### Command transport (chapter 2) -/

@[simp] theorem commandWrite_leavesFixed : LeavesFixed (.commandWrite via offset bytes) := fun s =>
  ⟨_, rfl, fixed_ite (State.intake_fixed s _ _ _)⟩

@[simp] theorem cuOutput_leavesFixed : LeavesFixed (.cuOutput n) := fun s =>
  ⟨_, rfl, by grind [State.fixed, State.still, State.untilElapsed_still, State.handOver_fixed, State.modStage_still]⟩

/-! ### Contexts and their keys (chapters 2 and 11) -/

@[simp] theorem ctxBindKey_leavesFixed : LeavesFixed (.ctxBindKey ctx tag) := fun s =>
  ⟨_, rfl, State.withTaken_fixed s _ _ _ _ fun k u => by
    have hr := State.poolRead_fixed u k.ctx (k.par 16 8) 128 rightRead
    generalize u.poolRead k.ctx (k.par 16 8) 128 rightRead = p at hr ⊢
    obtain ⟨v, r⟩ := p
    split
    · exact State.refuse_fixed _ _ _ _ _
    · refine fixed_refuse_else (fixed_refuse_else (fixed_refuse_else ?_))
      cases r with
      | busy => exact (State.again_fixed _ _).trans hr
      | fail st => exact (State.refuse_fixed _ _ _ _ _).trans hr
      | ok blob =>
        refine fixed_of_still_trans ?_ hr
        grind (splits := 20) [State.still, State.refuse_still, State.final_still, State.measured_still, State.modCtx_still]⟩

/-! ### Cords and regions (chapters 3 and 4) -/

@[simp] theorem cordAlloc_leavesFixed : LeavesFixed (.cordAlloc ctx tag hostOk) := fun s =>
  ⟨_, rfl, State.withTaken_fixed s _ _ _ _ fun k u => by
    have hw (l : List Nat) := State.writeOut_fixed u k (2 ^ 63 + k.par 16 6) (l.flatMap (natLE 2)) hostOk
    -- the numeral is hidden: the kernel would otherwise count it out
    generalize 2 ^ 63 + k.par 16 6 = a at hw ⊢
    grind [fixed_of_still, State.refuse_still, State.final_still, State.modCord_still, foldl_still]⟩

@[simp] theorem cordFree_leavesFixed : LeavesFixed (.cordFree ctx tag hostData) := fun s =>
  ⟨_, rfl, State.withTaken_fixed s _ _ _ _ fun k u => by
    -- the numeral is hidden: the kernel would otherwise count it out
    generalize 2 ^ 63 + k.par 16 6 = a
    grind [State.fixed, State.still, State.readIn_fixed, State.refuse_still, State.again_still, State.startZeroise_still, State.running_still,
      foldl_still]⟩

@[simp] theorem regionDefine_leavesFixed : LeavesFixed (.regionDefine ctx tag hostData) := fun s =>
  ⟨_, rfl, State.withTaken_fixed s _ _ _ _ fun k u => by
    have hr := State.readIn_fixed u k (k.par 16 8) (2 * k.par 24 2) hostData
    extract_lets c count iso conf sync
    generalize u.readIn k (k.par 16 8) (2 * count) hostData = p at hr ⊢
    obtain ⟨v, r⟩ := p
    refine fixed_refuse_else (fixed_refuse_else (fixed_refuse_else (fixed_refuse_else ?_)))
    split
    · exact State.refuse_fixed _ _ _ _ _
    · cases r with
      | busy => exact (State.again_fixed _ _).trans hr
      | fail st => exact (State.refuse_fixed _ _ _ _ _).trans hr
      | ok b =>
        refine Eq.trans ?_ hr
        dsimp only
        split
        · exact State.refuse_fixed _ _ _ _ _
        · generalize (v.regionRoom c && v.grantRoom c && (!sync || (!((cordNumbers b count).map cordSlice).any v.syncHomed &&
            ((cordNumbers b count).map cordSlice).eraseDups.length == count))) = room
          have hroom : ∀ t, (if room then (if iso then v.givePartitions c (cordNumbers b count) else some v) else none) = some t →
              t.still = v.still := by grind [State.givePartitions_still]
          split
          · split
            · exact State.refuse_fixed _ _ _ _ _
            · next t ht =>
              refine (State.final_fixed _ _ _ _).trans (fixed_of_still ?_)
              rw [← hroom t ht]
              exact foldl_still (fun (t : State) n => t.modCord n _) (fun t n => State.modCord_still t n _) _ t
          · exact State.refuse_fixed _ _ _ _ _⟩

@[simp] theorem scrubRange_leavesFixed : LeavesFixed (.scrubRange ctx tag) := fun s => ⟨_, rfl, by
  split
  · refine State.withRunning_fixed s _ _ _ _ fun k u => ?_
    split
    · exact State.scrubOn_fixed _ _ _
    · rfl
  · refine State.withTaken_fixed s _ _ _ _ fun k u => ?_
    split
    · exact State.refuse_fixed _ _ _ _ _
    · refine Eq.trans ?_ (State.scrubOn_fixed u k { ctx, tag, next := k.par 16 8 })
      dsimp only
      split
      · exact State.running_fixed _ _
      · rfl⟩

@[simp] theorem zeroRange_leavesFixed : LeavesFixed (.zeroRange ctx tag) := fun s =>
  ⟨_, rfl, State.withTaken_fixed s _ _ _ _ fun k u => by
    grind [State.fixed, State.still, State.refuse_still, State.zeroRange_fixed, State.zeroWhole_fixed]⟩

/-! ### Plans, weights and sync words -/

@[simp] theorem planLoad_leavesFixed : LeavesFixed (.planLoad ctx tag) := fun s =>
  ⟨_, rfl, State.withTaken_fixed s _ _ _ _ fun k u => by
    extract_lets a right
    have hv := State.poolRead_fixed u k.ctx a 64 rightRead
    clear_value right
    refine fixed_refuse_else ?_
    split
    · exact State.refuse_fixed _ _ _ _ _
    · generalize u.poolRead k.ctx a 64 rightRead = p at hv ⊢
      obtain ⟨v, r⟩ := p
      cases r with
      | busy => exact (State.again_fixed _ _).trans hv
      | fail st => exact (State.refuse_fixed _ _ _ _ _).trans hv
      | ok head =>
        refine Eq.trans ?_ hv
        dsimp only
        split
        · exact State.refuse_fixed _ _ _ _ _
        · have hw : (if 64 < fieldAt head 2 2 then v.deferOnce k else v).fixed = v.fixed := fixed_ite (fixed_of_still (State.deferOnce_still _ _))
          generalize (if 64 < fieldAt head 2 2 then v.deferOnce k else v) = w at hw ⊢
          have hx := (State.poolRead_fixed w k.ctx a (64 * (if headerOk head then fieldAt head 2 2 else 1)) rightRead).trans hw
          generalize w.poolRead k.ctx a (64 * (if headerOk head then fieldAt head 2 2 else 1)) rightRead = p at hx ⊢
          obtain ⟨x, r⟩ := p
          cases r with
          | busy => exact (State.again_fixed _ _).trans hx
          | fail st => exact (State.refuse_fixed _ _ _ _ _).trans hx
          | ok plan => grind [fixed_of_still, State.final_fixed, State.refuse_fixed, State.storePlan_still]⟩

@[simp] theorem weightIngest_leavesFixed : LeavesFixed (.weightIngest ctx tag) := fun s =>
  ⟨_, rfl, State.withTaken_fixed s _ _ _ _ fun k u => by
    have hf := State.rangeFree_fixed u k.ctx (k.par 24 8) (k.par 32 8)
    dsimp only
    repeat' split
    any_goals exact State.refuse_fixed _ _ _ _ _
    · next h => exact (State.again_fixed _ _).trans (by rwa [h] at hf)
    · next h => exact (State.running_fixed _ _).trans ((State.zeroPool_fixed _ _ _).trans (by rwa [h] at hf))⟩

@[simp] theorem weightIngestDone_leavesFixed : LeavesFixed (.weightIngestDone ctx tag) := fun s =>
  ⟨_, rfl, State.withRunning_fixed s _ _ _ _ fun k u => by
    split
    · next g x _ _ =>
      refine of_ite (P := fun t => State.fixed t = u.fixed) (State.refuse_fixed _ _ _ _ _) (of_ite (P := fun t => State.fixed t = u.fixed) rfl ?_)
      have hv := State.poolRead_fixed u k.ctx g.source (g.len + 16) rightRead
      generalize u.poolRead k.ctx g.source (g.len + 16) rightRead = p at hv ⊢
      obtain ⟨v, r⟩ := p
      have hw := (State.rangeFree_fixed v k.ctx g.dest g.len).trans hv
      cases r with
      | busy => exact hv
      | fail st => grind [State.fixed, State.refuse_fixed]
      | ok d =>
        dsimp only
        generalize v.rangeFree k.ctx g.dest g.len = p at hw ⊢
        obtain ⟨w, free⟩ := p
        cases free with
        | false => exact hw
        | true =>
          let w' : State := { w with sec := { w.sec with ingests := startIngest (w.sec.ingests.filter (· != g)) } }
          refine Eq.trans (b := w'.fixed) ?_ hw
          refine of_ite (P := fun t => State.fixed t = w'.fixed) ((State.refuse_fixed _ _ _ _ _).trans (State.zeroPool_fixed w' g.dest g.len)) ?_
          refine fixed_refuse_else (fixed_refuse_else ?_)
          have hx := State.poolWrite_fixed w' k.ctx (g.len / 64 + 2) g.dest (Config.sm4Gcm g.key g.iv [] (d.take g.len)).1
          split
          · next h => exact (State.refuse_fixed _ _ _ _ _).trans (by rwa [h] at hx)
          · next h => exact (State.final_fixed _ _ _ _).trans (fixed_of_still_trans (State.measured_still _ _ _) (by rwa [h] at hx))
    · rfl⟩

@[simp] theorem syncInit_leavesFixed : LeavesFixed (.syncInit ctx tag) := fun s =>
  ⟨_, rfl, State.withTaken_fixed s _ _ _ _ fun k u => by
    grind [State.fixed, State.still, State.refuse_still, State.again_still, foldl_still, foldl_fixed, State.initLine_fixed, State.final_still]⟩

/-! ### Routes, gates, shapers and policers (chapters 9 and 10) -/

@[simp] theorem gateInstall_leavesFixed : LeavesFixed (.gateInstall ctx tag hostData) := fun s =>
  ⟨_, rfl, State.withTaken_fixed s _ _ _ _ fun k u => by
    grind [State.fixed, State.still, State.gateRefuse_still, State.readIn_fixed, State.refuse_still, State.log_still, State.setParent_still,
      State.final_still]⟩

@[simp] theorem routeInstall_leavesFixed : LeavesFixed (.routeInstall ctx tag hostImage hostTopology) := fun s =>
  ⟨_, rfl, State.withTaken_fixed s _ _ _ _ fun k u => by
    grind [State.fixed, State.still, State.refuse_still, State.readIn_fixed, State.setClasses_still, State.final_still]⟩

@[simp] theorem epochSwitchAtT_leavesFixed : LeavesFixed .epochSwitchAtT := fun s => ⟨_, rfl, by
  split
  · rfl
  · refine of_ite (P := fun t : State => t.fixed = s.fixed) rfl ?_
    extract_lets u v next w cmd sched x
    have hu : u.fixed = s.fixed := fixed_of_still (State.untilNt_still _ _)
    have hv : v.fixed = s.fixed := (fixed_ite (fixed_of_still (State.switchRoutes_still _))).trans hu
    have hw : w.fixed = s.fixed :=
      (fixed_ite (State.restartLists_fixed _ _ _ fun t => fixed_of_still (State.switchGates_still t))).trans hv
    have hx : x.fixed = s.fixed := hw
    clear_value x
    split
    · exact (State.final_fixed _ _ _ _).trans hx
    · exact hx⟩

/-! ### Maintenance, telemetry and the log -/

@[simp] theorem selftestComplete_leavesFixed : LeavesFixed (.selftestComplete ctx tag pass) := fun s =>
  ⟨_, rfl, State.withRunning_fixed s _ _ _ _ fun k u => by
    grind [State.fixed, State.still, State.tested_fixed, State.final_still, State.draw_still, State.log_still]⟩

@[simp] theorem retireComplete_leavesFixed : LeavesFixed (.retireComplete ctx tag) := fun s =>
  ⟨_, rfl, State.withRunning_fixed s _ _ _ _ fun k u => by
    grind [State.fixed, State.still, State.flushAll_fixed, State.modChan_still, foldl_still, foldl_fixed, State.modCord_still, State.log_still,
      State.final_still]⟩

@[simp] theorem fwUpdate_leavesFixed : LeavesFixed (.fwUpdate ctx tag hostData) := fun s =>
  ⟨_, rfl, State.withTaken_fixed s _ _ _ _ fun k u => by
    grind [State.fixed, State.still, State.refuse_still, State.readIn_fixed, State.again_still, State.running_still, State.final_still]⟩

@[simp] theorem telemRead_leavesFixed : LeavesFixed (.telemRead ctx tag hostOk) := fun s =>
  ⟨_, rfl, State.withTaken_fixed s _ _ _ _ fun k u => by
    grind [State.fixed, State.still, State.refuse_still, State.writeOut_fixed, State.telemRead_still, State.final_still]⟩

@[simp] theorem logRead_leavesFixed : LeavesFixed (.logRead ctx tag hostOk) := fun s =>
  ⟨_, rfl, State.withTaken_fixed s _ _ _ _ fun k u => by
    grind [State.fixed, State.still, State.writeOut_fixed, State.refuse_still, State.final_still]⟩

/-! ### Grants, epochs and cord moves (chapter 4) -/

@[simp] theorem epochStep_leavesFixed : LeavesFixed (.epochStep region) := fun s =>
  ⟨_, rfl, by grind [State.fixed, State.still, State.untilElapsed_still, State.epochStep_fixed]⟩

@[simp] theorem zeroiseSweep_leavesFixed : LeavesFixed (.zeroiseSweep slice) := fun s =>
  ⟨_, rfl, by
    grind [State.fixed, State.still, foldl_still, foldl_fixed, State.modChan_still, State.endWaits_still, State.recallCord_fixed,
      State.modCord_still]⟩

@[simp] theorem cordZeroised_leavesFixed : LeavesFixed (.cordZeroised cord) := fun s =>
  ⟨_, rfl, by
    grind [State.fixed, State.still, State.settleCords_still, State.zeroiseCord_fixed, State.clearShadow_still, State.modCord_still,
      State.log_still]⟩

@[simp] theorem cordCopyBlock_leavesFixed : LeavesFixed (.cordCopyBlock cord) := fun s => ⟨_, rfl, by
  grind [fixed_of_still, State.portTurn_still, State.copyNext_fixed]⟩

@[simp] theorem cordCutover_leavesFixed : LeavesFixed (.cordCutover cord) := fun s =>
  ⟨_, rfl, by
    grind [State.fixed, State.still, State.modCord_still, State.recallCord_fixed, foldl_still, foldl_fixed, State.modRegion_still,
      State.moveSync_still, State.modChan_still, State.startZeroise_still, State.cutoverReplies_still]⟩

/-! ### Coherence (chapter 6) -/

@[simp] theorem rdShared_leavesFixed : LeavesFixed (.rdShared n) := leavesFixed_of_arrive fun _ => rfl

@[simp] theorem rdOwn_leavesFixed : LeavesFixed (.rdOwn n) := leavesFixed_of_arrive fun _ => rfl

@[simp] theorem upgrade_leavesFixed : LeavesFixed (.upgrade n) := leavesFixed_of_arrive fun _ => rfl

@[simp] theorem rdCur_leavesFixed : LeavesFixed (.rdCur n) := leavesFixed_of_arrive fun _ => rfl

@[simp] theorem wb_leavesFixed : LeavesFixed (.wb n) := leavesFixed_of_answerComes fun _ => rfl

@[simp] theorem evict_leavesFixed : LeavesFixed (.evict n) := leavesFixed_of_answerComes fun _ => rfl

@[simp] theorem wrInv_leavesFixed : LeavesFixed (.wrInv n) := leavesFixed_of_arrive fun _ => rfl

@[simp] theorem wrPart_leavesFixed : LeavesFixed (.wrPart n) := leavesFixed_of_arrive fun _ => rfl

@[simp] theorem accLine_leavesFixed : LeavesFixed (.accLine n) := leavesFixed_of_arrive fun _ => rfl

@[simp] theorem writeFill_leavesFixed : LeavesFixed (.writeFill n) := leavesFixed_of_arrive fun _ => rfl

@[simp] theorem readDrain_leavesFixed : LeavesFixed (.readDrain n) := leavesFixed_of_arrive fun _ => rfl

@[simp] theorem readFull_leavesFixed : LeavesFixed (.readFull n) := leavesFixed_of_arrive fun _ => rfl

@[simp] theorem addSat_leavesFixed : LeavesFixed (.addSat n) := leavesFixed_of_arrive fun _ => rfl

@[simp] theorem rspData_leavesFixed : LeavesFixed (.rspData n) := leavesFixed_of_answerComes fun _ => rfl

@[simp] theorem rspAck_leavesFixed : LeavesFixed (.rspAck n) := leavesFixed_of_answerComes fun _ => rfl

@[simp] theorem rspNone_leavesFixed : LeavesFixed (.rspNone n) := leavesFixed_of_answerComes fun _ => rfl

@[simp] theorem hostSnoopResponse_leavesFixed : LeavesFixed (.hostSnoopResponse line rsp) := fun s =>
  ⟨_, rfl, by grind [State.fixed, State.still, State.emit_still, State.answerComes_fixed]⟩

@[simp] theorem minHoldExpiry_leavesFixed : LeavesFixed (.minHoldExpiry line) := fun s =>
  ⟨_, rfl, by grind [State.fixed, State.still, State.untilElapsed_still, State.serve_fixed]⟩

@[simp] theorem recallTimeout_leavesFixed : LeavesFixed (.recallTimeout line) := fun s =>
  ⟨_, rfl, by grind [State.fixed, State.still, State.atTimer_fixed, State.recallExpired_fixed]⟩

@[simp] theorem probeResend_leavesFixed : LeavesFixed (.probeResend line) := fun s =>
  ⟨_, rfl, by grind [State.fixed, State.still, foldl_still, foldl_fixed, State.atTimer_fixed, State.resendProbe_still, State.modLock_still]⟩

@[simp] theorem tripletWriteIssue_leavesFixed : LeavesFixed (.tripletWriteIssue n) := fun s =>
  ⟨_, rfl, by grind [State.fixed, State.still, State.homePartial_fixed, State.readVote_fixed, State.writeCopies_fixed, State.headDone_fixed]⟩

@[simp] theorem tripletReadVote_leavesFixed : LeavesFixed (.tripletReadVote n) := fun s =>
  ⟨_, rfl, by grind [State.fixed, State.still, State.readVote_fixed, State.headDone_fixed]⟩

/-! ### Memory channels (chapter 3) -/

@[simp] theorem schedulerIssue_leavesFixed : LeavesFixed (.schedulerIssue g) := fun s => ⟨_, rfl, by
  grind [fixed_of_still, State.modChan_still, State.issue_fixed]⟩

@[simp] theorem readDecode_leavesFixed : LeavesFixed (.readDecode g noise) := fun s =>
  ⟨_, rfl, by grind [State.fixed, State.still, State.modChan_still, State.readBack_fixed]⟩

@[simp] theorem partialWriteEntry_leavesFixed : LeavesFixed (.partialWriteEntry g) := fun s =>
  ⟨_, rfl, by grind [State.fixed, State.still, State.modChan_still, State.written_fixed, State.linePartial_fixed]⟩

@[simp] theorem mergeEntryAgeOut_leavesFixed : LeavesFixed (.mergeEntryAgeOut g line) := fun s =>
  ⟨_, rfl, by grind [State.fixed, State.still, State.atElapsed_fixed, State.modChan_still, foldl_still, foldl_fixed, State.flushEntry_fixed]⟩

@[simp] theorem mergeRmwComplete_leavesFixed : LeavesFixed (.mergeRmwComplete g) := fun s =>
  ⟨_, rfl, by grind [State.fixed, State.still, State.modChan_still, State.flushEntry_fixed]⟩

@[simp] theorem blockFillDone_leavesFixed : LeavesFixed (.blockFillDone g) := fun s =>
  ⟨_, rfl, State.fillDone_fixed s _⟩

@[simp] theorem frequencyChange_leavesFixed : LeavesFixed (.frequencyChange stack) := fun s =>
  ⟨_, rfl, by
    grind [State.fixed, State.still, State.atElapsed_fixed, State.endChange_fixed, foldl_still, foldl_fixed, State.modChan_still,
      State.beginChange_fixed]⟩

@[simp] theorem channelEdgeGuard_leavesFixed : LeavesFixed (.channelEdgeGuard g) := fun s =>
  ⟨_, rfl, by grind [State.fixed, State.still, State.untilNt_still, State.guardChan_fixed]⟩

/-! ### Page walks and faults (chapter 5) -/

@[simp] theorem tbMissWalkDone_leavesFixed : LeavesFixed (.tbMissWalkDone tile) := fun s => ⟨_, rfl, by
  split
  · rfl
  · split
    · split
      · rfl
      · exact State.prefetchWalk_fixed _ _ _
    · split
      · rfl
      · next r _ _ cva write _ _ =>
        have hw := State.walk_fixed s tile r.ctx cva write
        split <;> grind [fixed_of_still, State.modFaultQ_still, State.tbAdd_still, State.modEmber_still, State.enterFault_still]⟩

/-! ### Embers (chapter 7) -/

@[simp] theorem gemvStream_leavesFixed : LeavesFixed (.gemvStream tile) := leavesFixed_of_kernel (fun _ => rfl) passRel_fixed.gemv

@[simp] theorem attnDecode_leavesFixed : LeavesFixed (.attnDecode tile) := leavesFixed_of_kernel (fun _ => rfl) passRel_fixed.attn

@[simp] theorem softmaxMerge_leavesFixed : LeavesFixed (.softmaxMerge tile) := leavesFixed_of_kernel (fun _ => rfl) passRel_fixed.merge

@[simp] theorem reduceAdd_leavesFixed : LeavesFixed (.reduceAdd tile) := leavesFixed_of_kernel (fun _ => rfl) fun d _ =>
  passRel_fixed.bind (passRel_fixed.accRow d (passRel_fixed.plain _) _ _ _) fun _ => passRel_fixed.counter d

@[simp] theorem gather_leavesFixed : LeavesFixed (.gather tile) := leavesFixed_of_kernel (fun _ => rfl) passRel_fixed.gather

@[simp] theorem scatterAcc_leavesFixed : LeavesFixed (.scatterAcc tile) := leavesFixed_of_kernel (fun _ => rfl) passRel_fixed.scatter

@[simp] theorem convert_leavesFixed : LeavesFixed (.convert tile) := leavesFixed_of_kernel (fun _ => rfl) passRel_fixed.convert

@[simp] theorem topk_leavesFixed : LeavesFixed (.topk tile) := leavesFixed_of_kernel (fun _ => rfl) passRel_fixed.top

@[simp] theorem wait_leavesFixed : LeavesFixed (.wait tile) := fun s =>
  ⟨_, rfl, State.onDesc_fixed s _ _ _ fun r d u => by
    grind [State.fixed, State.still, State.runError_still, State.modRun_still, State.emberSync_fixed, State.descDone_still,
      State.modEmber_still]⟩

@[simp] theorem signal_leavesFixed : LeavesFixed (.signal tile) := fun s =>
  ⟨_, rfl, State.onDesc_fixed s _ _ _ fun r d u => by
    grind [State.fixed, State.still, State.emberSync_fixed, State.runError_still, State.descDone_still]⟩

@[simp] theorem endPlan_leavesFixed : LeavesFixed (.endPlan tile) := fun s =>
  ⟨_, rfl, State.onDesc_fixed s _ _ _ fun r d u => by grind [State.fixed, State.still, State.descDone_still, State.finishRun_fixed]⟩

@[simp] theorem emberError_leavesFixed : LeavesFixed (.emberError tile parity) := fun s =>
  ⟨_, rfl, onUnit_fixed _ _ _ s fun u => by
    grind [State.fixed, State.still, State.parityError_still, State.recordReady_fixed, State.finishRun_fixed]⟩

/-! ### Fabric links and packets (chapter 9) -/

@[simp] theorem packetDeliver_leavesFixed : LeavesFixed (.packetDeliver p) := fun s =>
  ⟨_, rfl, onUnit_fixed _ _ _ s fun u => by
    grind [State.fixed, State.still, State.modPort_still, State.freed_still, State.e2eDiscard_still, State.unsealed_still, State.passOn_fixed]⟩

/-! ### Network time, slots and throttling (chapter 10) -/

@[simp] theorem gateSlotEdge_leavesFixed : LeavesFixed (.gateSlotEdge list) := fun s =>
  ⟨_, rfl, onUnit_fixed _ _ _ s fun u => by
    grind [State.fixed, State.still, State.untilNt_still, State.leaveSlot_fixed, State.cycleBegins_still, State.enterSlot_fixed]⟩

/-! ### The control units (chapter 12) -/

@[simp] theorem hearthLost_leavesFixed : LeavesFixed (.hearthLost h) := fun s =>
  ⟨_, rfl, by
    grind [State.fixed, State.still, State.loseStage_still, State.log_still, State.rise_still, State.cxlEvent_still, State.loseHomes_still,
      foldl_still, foldl_fixed, State.fenceEmber_still, State.stopChan_still, State.flushAll_fixed, State.modChan_still, State.linkDown_still,
      State.modFaultQ_still, State.passHomes_still, State.loseBlocks_still, State.settleCords_still, State.settleCalibrations_still,
      State.trainingEnds_still, State.nextHreset_fixed]⟩

/-! ### Resets and start-up (chapter 14) -/

@[simp] theorem firmwareReady_leavesFixed : LeavesFixed .firmwareReady := fun s =>
  ⟨_, rfl, by grind [State.fixed, State.still, State.nextHreset_fixed]⟩

@[simp] theorem clkrstHreset_leavesFixed : LeavesFixed (.clkrstHreset rd v) := fun s =>
  ⟨_, rfl, fixed_ite (foldl_fixed _ (fun t h => State.askPartial_fixed t h) _ s)⟩

@[simp] theorem partialResetComplete_leavesFixed : LeavesFixed .partialResetComplete := fun s =>
  ⟨_, rfl, by grind [State.fixed, State.still, State.endPartial_fixed]⟩

/-! ### Supply episodes (chapter 14) -/

@[simp] theorem supplyBankTimer_leavesFixed : LeavesFixed .supplyBankTimer := fun s =>
  ⟨_, rfl, by
    grind [State.fixed, State.still, State.untilElapsed_still, foldl_still, foldl_fixed, State.drainChan_fixed, State.modChan_still,
      State.rise_still, State.cxlEvent_still]⟩

@[simp] theorem supplyRelease_leavesFixed : LeavesFixed .supplyRelease := fun s => ⟨_, rfl, by
  split
  · rfl
  · refine of_ite (P := fun t : State => t.fixed = s.fixed) rfl ?_
    extract_lets u boot v a b w
    have hv : v.still = s.still := State.untilElapsed_still s s.boot.heldUntil
    have hb : b.still = v.still := (foldl_still _ (fun t g => State.modChan_still t g _) _ a).trans (State.pass_still _ _)
    have hserved := foldl_fixed _ (fun t g => State.serveChan_fixed t g) (b.chans.map Prod.fst) b
    have hw : w.fixed = v.fixed :=
      of_ite (P := fun t : State => t.fixed = v.fixed) (hserved.trans (fixed_of_still hb)) (fixed_of_still (State.pass_still _ _))
    exact hw.trans (fixed_of_still hv)⟩

@[simp] theorem supplyEpisodeEnd_leavesFixed : LeavesFixed .supplyEpisodeEnd := fun s => ⟨_, rfl, by
  split
  · rfl
  · split
    · rfl
    · extract_lets a b len us boot c d e f
      have hb : b.still = s.still := (State.untilNt_still _ _).trans (State.untilElapsed_still _ _)
      have hc : c.fixed = s.fixed := fixed_of_still hb
      have hd : d.fixed = c.fixed := State.restartLists_fixed _ _ _ fun _ => rfl
      have he : e.still = d.still := foldl_still _ (fun t p => still_ite (State.portUp_still t p)) _ d
      have hf : (f.cxlEvent 1 1 noAddr 0).throttleCause.still = d.still :=
        (State.throttleCause_still _).trans ((State.cxlEvent_still _ _ _ _ _).trans ((State.log_still _ _ _ _ _).trans he))
      exact (fixed_of_still hf).trans (hd.trans hc)⟩

/-! ### Other events -/

@[simp] theorem reportSigningDone_leavesFixed : LeavesFixed (.reportSigningDone ctx tag hostOk) := fun s =>
  ⟨_, rfl, State.withRunning_fixed s _ _ _ _ fun k u => by
    grind [State.fixed, State.still, State.refuse_still, State.draw_still, State.modCtx_still, State.writeOut_fixed, State.final_still]⟩

end

theorem leavesFixed_of_burnsNothing {i : Instr} (h : burnsNothing i = true) : LeavesFixed i := by
  revert h
  cases i <;> simp [burnsNothing, LeavesStill.leavesFixed]

/-- Settles O9: the fuses are among what a row that burns nothing leaves as it was. -/
theorem rowsThatBurnNothing : Obligations.RowsThatBurnNothing := by
  unfold Obligations.RowsThatBurnNothing
  intro c s t hc hexec
  obtain ⟨u, hu, hfixed⟩ := leavesFixed_of_burnsNothing hc s
  cases hu.symm.trans hexec
  simpa [State.fixed] using congrArg Prod.snd hfixed

/-! ## Rows that store nothing -/

/-- The row answers a next state with memory as it was. -/
def LeavesMem (i : Instr) : Prop := ∀ s : State, ∃ t, exec i s = .next t ∧ t.mem = s.mem

theorem LeavesStill.leavesMem {i : Instr} (h : LeavesStill i) : LeavesMem i := fun s =>
  (h s).imp fun _ ht => ⟨ht.1, congrArg (fun x => x.2.2.2.2.2) ht.2⟩

section
variable {rd : Reader} {v : Reg}

@[simp] theorem secDebugDisable_leavesMem : LeavesMem (.secDebugDisable rd) := fun s =>
  ⟨_, rfl, of_ite (P := fun t : State => t.mem = s.mem) rfl rfl⟩

@[simp] theorem clkrstEnvelope_leavesMem : LeavesMem (.clkrstEnvelope rd v) := fun s =>
  ⟨_, rfl, of_ite (P := fun t : State => t.mem = s.mem) (of_ite (P := fun t : State => t.mem = s.mem) rfl rfl) rfl⟩

@[simp] theorem envelopeBurnDone_leavesMem : LeavesMem .envelopeBurnDone := fun s => ⟨_, rfl, by
  split
  · split <;> rfl
  · rfl⟩

end

theorem leavesMem_of_storesNothing {i : Instr} (h : storesNothing i = true) : LeavesMem i := by
  revert h
  cases i
  any_goals simp [LeavesStill.leavesMem]
  all_goals exact fun hstores => absurd hstores Bool.false_ne_true

/-- Settles O8: the rows that leave the queue, the fuses and memory as they are, and the three that write a fuse and reach no memory. -/
theorem rowsThatStoreNothing : Obligations.RowsThatStoreNothing := by
  unfold Obligations.RowsThatStoreNothing
  intro c s t hc hexec
  obtain ⟨u, hu, hmem⟩ := leavesMem_of_storesNothing hc s
  cases hu.symm.trans hexec
  exact ⟨hmem, fun a => by rw [hmem]⟩

end Sys2Proof.Machine
end

