-- ==== Sys2Proof/Proofs/EnvelopeFuses.lean ====
section
/-! What every command keeps: the envelope fuses consistent, a sealed field sealed, the queue of waiting commands. Each is a property that follows
the queue and the fuses, so only the rows that reset the device or write a fuse are looked at, once for all of them. -/

set_option Elab.async false

namespace Sys2Proof.Machine

/-! ## Properties of the queue and the fuses -/

/-- A property that depends on the queue and the fuses alone, and that every operation which resets the device or writes a fuse keeps. -/
structure KeptByFuseWrites (P : State → Prop) : Prop where
  of_fixed : ∀ {s t : State}, t.fixed = s.fixed → P s → P t
  toReset : ∀ {s : State} (cause : Nat), P s → P (s.toReset cause)
  burnEnvelope : ∀ {s : State} (v : Nat), P s → P (s.burnEnvelope v)
  burnDone : ∀ {s : State} {e : Nat}, s.burning = some e → P s →
    P { s with burning := none, kept := { s.kept with envBurned := e, envSealed := true } }
  debugOff : ∀ {s : State}, P s → P s.debugOff
  errInj : ∀ {s : State} (v : Nat), P s → P (s.errInj v)
  bar0Write : ∀ {s : State} (rd : Reader) (w : Option AliasWindow) (off v : Nat), P s → P (s.bar0Write rd w off v)
  writeAccess : ∀ {s : State} (rd : Reader) (off v : Nat), P s → P (s.writeAccess rd off v)

section
variable {P : State → Prop} (h : KeptByFuseWrites P)
include h

theorem KeptByFuseWrites.exec_envelopeBurnDone {s : State} (hs : P s) : ∃ t, exec .envelopeBurnDone s = .next t ∧ P t := by
  refine ⟨_, rfl, ?_⟩
  split
  next e hburning => exact of_ite hs (h.burnDone hburning hs)
  next => exact hs

theorem KeptByFuseWrites.exec_highWordWrite {s : State} (rd : Reader) (off : Nat) (v : Reg) (hs : P s) :
    ∃ t, exec (.highWordWrite rd off v) s = .next t ∧ P t := by
  refine ⟨_, rfl, ?_⟩
  split
  · exact of_ite (h.writeAccess _ _ _ hs) hs
  · exact hs

/-- Every command answers a next state and keeps the property. -/
theorem KeptByFuseWrites.exec_next (i : Instr) {s : State} (hs : P s) : ∃ t, exec i s = .next t ∧ P t := by
  by_cases hi : burnsNothing i = true
  · obtain ⟨t, ht, hfixed⟩ := leavesFixed_of_burnsNothing hi s
    exact ⟨t, ht, h.of_fixed hfixed hs⟩
  · cases i with
    | powerOnReset => exact ⟨_, rfl, h.toReset 0 hs⟩
    | externalReset => exact ⟨_, rfl, h.toReset 1 hs⟩
    | supplyReset => exact ⟨_, rfl, h.toReset 2 hs⟩
    | clkrstReset rd v => exact ⟨_, rfl, of_ite (h.toReset 3 hs) hs⟩
    | clkrstEnvelope rd v => exact ⟨_, rfl, of_ite (h.burnEnvelope _ hs) hs⟩
    | envelopeBurnDone => exact h.exec_envelopeBurnDone hs
    | secDebugDisable rd => exact ⟨_, rfl, of_ite (h.debugOff hs) hs⟩
    | errInjCtrl rd v => exact ⟨_, rfl, of_ite (h.errInj _ hs) hs⟩
    | highWordWrite rd off v => exact h.exec_highWordWrite rd off v hs
    | registerAliasWrite rd win off v => exact ⟨_, rfl, of_ite (h.bar0Write _ _ _ _ hs) hs⟩
    | registerWrite rd off v => exact ⟨_, rfl, h.writeAccess _ _ _ hs⟩
    | _ => exact absurd rfl hi

/-- So does every step, of a property that does not look at the queue. -/
theorem KeptByFuseWrites.step_next (hqueue : ∀ (s : State) (l : List Instr), P s → P { s with pending := l }) {s t : State} (hs : P s)
    (hstep : step s = .next t) : P t := by
  unfold step at hstep
  split at hstep
  · cases hstep
    exact h.of_fixed (fixed_of_still (State.pass_still s 2)) hs
  next i rest _ =>
    obtain ⟨u, hu, hkept⟩ := h.exec_next i (hqueue s rest hs)
    cases hu.symm.trans hstep
    exact hkept

end

/-! ## The queue, the fuses' consistency, the seal -/

theorem keptByFuseWrites_pending (l : List Instr) : KeptByFuseWrites fun s => s.pending = l where
  of_fixed hfixed hs := (congrArg Prod.fst hfixed).trans hs
  toReset _ hs := (State.toReset_pending _ _).trans hs
  burnEnvelope _ hs := (State.burnEnvelope_pending _ _).trans hs
  burnDone _ hs := hs
  debugOff hs := hs
  errInj _ hs := (State.errInj_pending _ _).trans hs
  bar0Write _ _ _ _ hs := (State.bar0Write_pending _ _ _ _ _).trans hs
  writeAccess _ _ _ hs := (State.writeAccess_pending _ _ _ _).trans hs

/-- The end of a burn seals the code that burned, which has two bits. -/
theorem keptByFuseWrites_fuseOk : KeptByFuseWrites State.FuseOk where
  of_fixed := fuseOk_of_fixed
  toReset _ := State.toReset_fuse _ _
  burnEnvelope _ := State.burnEnvelope_fuse _ _
  burnDone hburning hs := by
    obtain ⟨-, -, hcode⟩ := hs
    obtain ⟨-, hlt, -⟩ := hcode _ hburning
    exact ⟨hlt, fun _ => rfl, fun _ hnone => nomatch hnone⟩
  debugOff := State.debugOff_fuse _
  errInj _ := State.errInj_fuse _ _
  bar0Write _ _ _ _ := State.bar0Write_fuse _ _ _ _ _
  writeAccess _ _ _ := State.writeAccess_fuse _ _ _ _

/-- A sealed field has no burn running, so no end of a burn comes to it. -/
theorem keptByFuseWrites_sealedAt (e : Nat) : KeptByFuseWrites (State.SealedAt · e) where
  of_fixed := sealedAt_of_fixed
  toReset _ := State.toReset_sealed _ _ _
  burnEnvelope _ := State.burnEnvelope_sealed _ _ _
  burnDone hburning hs := by
    obtain ⟨-, -, hnone⟩ := hs
    exact nomatch hnone.symm.trans hburning
  debugOff := State.debugOff_sealed _ _
  errInj _ := State.errInj_sealed _ _ _
  bar0Write _ _ _ _ := State.bar0Write_sealed _ _ _ _ _ _
  writeAccess _ _ _ := State.writeAccess_sealed _ _ _ _ _

/-- Settles O3: the queue is a property that every command keeps. -/
theorem commandsLeaveTheQueue : Obligations.CommandsLeaveTheQueue := by
  unfold Obligations.CommandsLeaveTheQueue
  exact fun c s => (keptByFuseWrites_pending s.pending).exec_next c rfl

/-- Settles O5: the fuses' consistency is a property that every step keeps. -/
theorem fusesStayConsistent : Obligations.FusesStayConsistent := by
  unfold Obligations.FusesStayConsistent
  exact fun _ _ hs hstep => keptByFuseWrites_fuseOk.step_next (fun _ _ hs => hs) hs hstep

/-! ## The release of a reset (R3, R406, R409) -/

theorem State.untilElapsed_kept (s : State) (t : Nat) : (s.untilElapsed t).kept = s.kept := rfl

theorem State.untilElapsed_burning (s : State) (t : Nat) : (s.untilElapsed t).burning = s.burning := rfl

/-- The time at which a reset is released: at once after power-on, 1 ms after a supply reset, 10 us after any other. -/
def State.releaseTime (s : State) : Nat := match s.boot.cause with | 0 => 0 | 2 => 1000000 | _ => 10000

/-- The envelope in force after a release: the code of a sealed field, else 0. -/
def Kept.envelope (k : Kept) : Nat := if k.envSealed then k.envBurned else 0

/-- Step 1 of start-up begins, at network time 0, with the envelope in force. -/
def State.release (s : State) : State :=
  { s with clk := { s.clk with nt := 0, frac := 0, steer := 0 }
           boot := { s.boot with inReset := false, step := 1, envInForce := s.kept.envelope, vcore := [750, 750, 750, 750], lowest := 750 } }

theorem exec_internalResetRelease_of_inReset {s : State} (hreset : s.boot.inReset = true) :
    exec .internalResetRelease s = .next (s.untilElapsed s.releaseTime).release := by
  change execInternalResetRelease s = _
  rw [execInternalResetRelease, hreset]
  rfl

/-- Settles O6: the seal is a property that every step keeps, and a release puts the code of a sealed field in force. -/
theorem sealedEnvelopeHolds : Obligations.SealedEnvelopeHolds := by
  unfold Obligations.SealedEnvelopeHolds
  refine ⟨fun s t e hs hstep => (keptByFuseWrites_sealedAt e).step_next (fun _ _ hs => hs) hs hstep, fun s e hs hreset => ?_⟩
  have ⟨hsealed, hcode, _⟩ := hs
  have hforce : s.kept.envelope = e := by rw [Kept.envelope, if_pos hsealed, hcode]
  exact ⟨_, exec_internalResetRelease_of_inReset hreset, hforce, hs⟩

/-! ## Writes of the envelope field (R423, R424) -/

theorem State.burnEnvelope_of_disagrees {s : State} {v : Nat} (hbits : ¬ s.kept.envBurned &&& bits v 0 2 = s.kept.envBurned) :
    s.burnEnvelope v = s := by
  simp [State.burnEnvelope, hbits]

theorem State.burnEnvelope_of_sealed {s : State} (v : Nat) (hsealed : s.kept.envSealed = true) : s.burnEnvelope v = s := by
  simp [State.burnEnvelope, hsealed]

/-- CLKRST_ENVELOPE stands at 0x4000C (Table 17.8). -/
theorem regAt_clkrstEnvelope : regAt 0x4000C = some (.clkrst, 0, 0x00C) := by decide

theorem State.writeReg_clkrstEnvelope (s : State) (rd : Reader) (u off v : Nat) :
    s.writeReg rd .clkrst u 0x00C off v = if rd == .host then s.burnEnvelope v else s := rfl

theorem exec_clkrstEnvelope_of_sealed {s : State} (rd : Reader) (v : Reg) (hsealed : s.kept.envSealed = true) :
    exec (.clkrstEnvelope rd v) s = .next s := by
  change execClkrstEnvelope rd v s = _
  rw [execClkrstEnvelope, State.burnEnvelope_of_sealed _ hsealed, ite_self, done]

theorem exec_registerWrite_envelope_of_sealed {s : State} (rd : Reader) (v : Reg) (hsealed : s.kept.envSealed = true) :
    exec (.registerWrite rd 0x4000C v) s = .next s := by
  have hsame : s.bar0Write rd none 0x4000C v.toNat = s := by
    simp only [State.bar0Write, regAt_clkrstEnvelope, State.writeReg_clkrstEnvelope, State.burnEnvelope_of_sealed _ hsealed, ite_self]
  rw [exec_registerWrite, State.writeAccess_of_normal _ (by decide), hsame]

/-- Settles O14: a release reads the seal, and a write is compared with the bits burned before it starts a burn. -/
theorem envelopeFieldRules : Obligations.EnvelopeFieldRules := by
  unfold Obligations.EnvelopeFieldRules
  refine ⟨?release, ?write, ?sealed⟩
  case release =>
    intro s hreset hopen
    have hforce : s.kept.envelope = 0 := by simp [Kept.envelope, hopen]
    exact ⟨_, exec_internalResetRelease_of_inReset hreset, hforce⟩
  case write =>
    intro s v hopen hburning hreach hkey hcode
    rw [exec_clkrstEnvelope_of_host s v hreach]
    split
    next hagree => rw [s.burnEnvelope_of_agrees _ hkey hcode hopen hburning hagree]
    next hbits => rw [State.burnEnvelope_of_disagrees hbits]
  case sealed => exact fun s rd v hsealed => ⟨exec_clkrstEnvelope_of_sealed rd v hsealed, exec_registerWrite_envelope_of_sealed rd v hsealed⟩

/-- Settles O7: a factory-new part under power-on reset lists no byte, no cord and no region, and its fuses are unburned (log 1, log 5). -/
theorem resetMeetsTheInvariants : Obligations.ResetMeetsTheInvariants := by
  unfold Obligations.ResetMeetsTheInvariants
  have hfuses : State.reset.FuseOk := ⟨by decide, fun _ => rfl, fun _ hnone => nomatch hnone⟩
  exact ⟨Memory.wf_reset, rfl, hfuses, rfl, rfl, fun _ => rfl, rfl, rfl, rfl⟩

/-- Settles O1: the front of a queue that is not empty takes the second branch of a step. -/
theorem frontCommandRuns : Obligations.FrontCommandRuns := by
  unfold Obligations.FrontCommandRuns
  intro c rest s hfront
  rw [step, hfront]

end Sys2Proof.Machine
end

