-- ==== Sys2Proof/Proofs/InterruptRows.lean ====
section
/-! What a claim selects, what a completion ends, and what the rows of the interrupt controller do for a reader whose writes change the device
(R397, R399-R401). -/

set_option Elab.async false

namespace Sys2Proof.Machine

/-! ## Messages leave the controller and the security engine as they are -/

theorem foldl_same {α β : Type} {f : State → α → State} {g : State → β} (h : ∀ t x, g (f t x) = g t) (l : List α) (s : State) :
    g (l.foldl f s) = g s := by
  induction l generalizing s with
  | nil => rfl
  | cons a l ih => rw [List.foldl_cons, ih, h]

section
variable (s : State)

theorem State.msix_intc_sec (v : Nat) : (s.msix v).intc = s.intc ∧ (s.msix v).sec = s.sec := by
  unfold State.msix
  split
  · exact ⟨rfl, rfl⟩
  · split <;> exact ⟨rfl, rfl⟩

@[simp] theorem State.withIntc_intc (c : Intc) : (s.withIntc c).intc = c :=
  foldl_same (g := State.intc) (fun t k => by split <;> simp [State.msix_intc_sec]) _ _

@[simp] theorem State.withIntc_sec (c : Intc) : (s.withIntc c).sec = s.sec :=
  foldl_same (g := State.sec) (fun t k => by split <;> simp [State.msix_intc_sec]) _ { s with intc := c }

theorem State.src_modSrc_same (n : Nat) (f : Src → Src) : (s.modSrc n f).src n = f (s.src n) := by
  rw [State.src, State.modSrc, State.withIntc_intc, Tab.get_modify, if_pos rfl]
  rfl

end

/-! ## The source that a claim selects (R399) -/

theorem Src.selectable_iff (x : Src) (k thr : Nat) :
    x.selectable k thr = true ↔ x.enable = true ∧ x.state = .pending ∧ x.target = k ∧ thr ≤ x.priority := by
  simp [Src.selectable, and_assoc]

/-- Source `p` goes before source `q`: a higher priority, or the same and a lower number. -/
def goesBefore (p q : Nat × Src) : Prop := q.2.priority < p.2.priority ∨ (q.2.priority = p.2.priority ∧ p.1 < q.1)

/-- The better of the best source so far and the next one, which counts where it is selectable. -/
def betterSource (k thr : Nat) (b : Option (Nat × Src)) (p : Nat × Src) : Option (Nat × Src) :=
  if !p.2.selectable k thr then b
  else match b with
    | some q => if q.2.priority < p.2.priority ∨ (q.2.priority = p.2.priority ∧ p.1 < q.1) then some p else b
    | none => some p

theorem Intc.best_eq_foldl (c : Intc) (k : Nat) : c.best k = c.srcs.foldl (betterSource k (c.targets.getD k {}).threshold) none := rfl

section
variable {k thr : Nat} {p : Nat × Src}

theorem betterSource_of_not_selectable {q : Nat × Src} (b : Option (Nat × Src)) (hq : ¬ q.2.selectable k thr = true) :
    betterSource k thr b q = b := by
  simp [betterSource, hq]

theorem foldl_betterSource_of_none (l : List (Nat × Src)) (hnone : ∀ q ∈ l, ¬ q.2.selectable k thr = true) (b : Option (Nat × Src)) :
    l.foldl (betterSource k thr) b = b := by
  induction l generalizing b with
  | nil => rfl
  | cons q l ih =>
    obtain ⟨hq, hl⟩ := List.forall_mem_cons.mp hnone
    rw [List.foldl_cons, betterSource_of_not_selectable b hq, ih hl]

/-- The best so far is the first of all or one that it goes before, and so is what comes of it and the next one. -/
theorem betterSource_keeps {q : Nat × Src} {b : Option (Nat × Src)} (hq : q.2.selectable k thr = true → q = p ∨ goesBefore p q)
    (hb : ∀ x, b = some x → x = p ∨ goesBefore p x) : ∀ x, betterSource k thr b q = some x → x = p ∨ goesBefore p x := by
  intro x hx
  unfold betterSource at hx
  split at hx
  · exact hb x hx
  next hsel =>
    have hfirst := hq (by simpa using hsel)
    split at hx
    · split at hx
      · exact Option.some.inj hx ▸ hfirst
      · exact hb x hx
    · exact Option.some.inj hx ▸ hfirst

/-- The first of all takes the place of what it goes before. -/
theorem betterSource_first {b : Option (Nat × Src)} (hp : p.2.selectable k thr = true) (hb : ∀ x, b = some x → x = p ∨ goesBefore p x) :
    betterSource k thr b p = some p := by
  cases b with
  | none => simp [betterSource, hp]
  | some x =>
    rcases hb x rfl with rfl | hx
    · simp [betterSource]
    · unfold goesBefore at hx
      simp [betterSource, hp, hx]

/-- Nothing takes the place of the first of all. -/
theorem betterSource_first_stays {q : Nat × Src} (hq : q.2.selectable k thr = true → q = p ∨ goesBefore p q) :
    betterSource k thr (some p) q = some p := by
  unfold betterSource
  split
  · rfl
  next hsel =>
    rcases hq (by simpa using hsel) with rfl | hbefore
    · simp
    · unfold goesBefore at hbefore
      simp only
      rw [if_neg (by omega)]

theorem foldl_betterSource_of_first (hp : p.2.selectable k thr = true) (l : List (Nat × Src))
    (hl : ∀ q ∈ l, q.2.selectable k thr = true → q = p ∨ goesBefore p q) (b : Option (Nat × Src))
    (hb : ∀ x, b = some x → x = p ∨ goesBefore p x) (hin : b = some p ∨ p ∈ l) : l.foldl (betterSource k thr) b = some p := by
  induction l generalizing b with
  | nil => exact hin.resolve_right List.not_mem_nil
  | cons q l ih =>
    obtain ⟨hq, hl⟩ := List.forall_mem_cons.mp hl
    refine ih hl _ (betterSource_keeps hq hb) ?_
    rcases hin with rfl | hin
    · exact .inl (betterSource_first_stays hq)
    · rcases List.mem_cons.mp hin with rfl | hin
      · exact .inl (betterSource_first hp hb)
      · exact .inr hin

end

section
variable {s : State} {k : Nat}

theorem State.claim_of_none (hnone : ∀ p ∈ s.intc.srcs, ¬ p.2.selectable k (s.intc.targets.getD k {}).threshold = true) : s.claim k = (0, s) := by
  rw [State.claim, Intc.best_eq_foldl, foldl_betterSource_of_none _ hnone]

theorem State.claim_of_first {p : Nat × Src} (hin : p ∈ s.intc.srcs) (hp : p.2.selectable k (s.intc.targets.getD k {}).threshold = true)
    (hfirst : ∀ q ∈ s.intc.srcs, q.2.selectable k (s.intc.targets.getD k {}).threshold = true → q = p ∨ goesBefore p q) :
    s.claim k = (claimValue p.1 p.2,
      s.withIntc { s.intc with srcs := Tab.modify {} s.intc.srcs p.1 fun y => { y with state := .active, claimer := k, count := 0 } }) := by
  rw [State.claim, Intc.best_eq_foldl, foldl_betterSource_of_first hp _ hfirst none (fun _ h => nomatch h) (.inr hin)]

/-! ## Completions (R400) -/

theorem State.completeSrc_src {n : Nat} (hactive : (s.src n).state = .active ∧ (s.src n).claimer = k) :
    (s.completeSrc k n).src n = (s.src n).complete := by
  rw [State.completeSrc, if_pos hactive]
  refine of_ite (P := fun t : State => t.src n = (s.src n).complete) ?_ (State.src_modSrc_same _ _ _)
  rw [State.src, (State.msix_intc_sec _ _).1]
  exact State.src_modSrc_same _ _ _

theorem State.completeSrc_of_misfire {n : Nat} (hnot : ¬ ((s.src n).state = .active ∧ (s.src n).claimer = k)) :
    s.completeSrc k n = { s with intc := { s.intc with targets := s.intc.targets.modify k fun x => { x with misfire := satInc 16 x.misfire } } } := by
  rw [State.completeSrc, if_neg hnot]

end

/-! ## The rows -/

theorem unitTarget_iff (k : Nat) : unitTarget k = true ↔ 4 ≤ k ∧ k ≤ 6 := by
  simp [unitTarget]

section
variable {s : State} {rd : Reader} {t : Nat} (ht : t < 8) (hmay : s.mayWrite rd false = true)
include ht hmay

theorem exec_intcClaim_of_unit (hunit : (Reader.isHost rd && unitTarget t) = true) :
    exec (.intcClaim rd t) s = .next (s.emit (.regRead rd (targetOff t 0) 0)) := by
  change execIntcClaim rd t s = _
  simp only [execIntcClaim, onUnit_of_lt ht, hmay, hunit, done, Bool.not_true, Bool.false_eq_true, if_false, if_true]
  rfl

theorem exec_intcClaim_of_own (hown : (Reader.isHost rd && unitTarget t) = false) :
    exec (.intcClaim rd t) s = .next ((s.claim t).2.emit (.regRead rd (targetOff t 0) (BitVec.ofNat 32 (s.claim t).1))) := by
  change execIntcClaim rd t s = _
  simp only [execIntcClaim, onUnit_of_lt ht, hmay, hown, done, Bool.not_true, Bool.false_eq_true, if_false]

omit hmay in
theorem exec_intcComplete_of_unit (v : Reg) (hunit : (Reader.isHost rd && unitTarget t) = true) : exec (.intcComplete rd t v) s = .next s := by
  change execIntcComplete rd t v s = _
  simp only [execIntcComplete, onUnit_of_lt ht, hunit, done, Bool.or_true, if_true]

theorem exec_intcComplete_of_own (v : Reg) (hown : (Reader.isHost rd && unitTarget t) = false) :
    exec (.intcComplete rd t v) s = .next (s.completeSrc t (bits v.toNat 0 10)) := by
  change execIntcComplete rd t v s = _
  simp only [execIntcComplete, onUnit_of_lt ht, hmay, hown, done, Bool.not_true, Bool.or_self, Bool.false_eq_true, if_false]

end

/-- Settles O15: the choice of a claim is a fold over the sources, in which the first of all takes its place and keeps it; a completion looks at
its source and its claimer. -/
theorem claimsAndCompletions : Obligations.ClaimsAndCompletions := by
  unfold Obligations.ClaimsAndCompletions
  intro s rd t ht hmay
  simp only [← Src.selectable_iff, ← unitTarget_iff, ← Bool.and_eq_true, Bool.not_eq_true]
  refine ⟨fun hhost hlo hhi => ?units, fun hown => ⟨?nothing, ?first, fun v => ⟨?complete, ?misfire⟩⟩, fun v hhost hlo hhi => ?foreign⟩
  case units =>
    have hunit : (Reader.isHost rd && unitTarget t) = true := by rw [hhost, (unitTarget_iff t).mpr ⟨hlo, hhi⟩, Bool.and_self]
    exact ⟨exec_intcClaim_of_unit ht hmay hunit, fun v => exec_intcComplete_of_unit ht v hunit⟩
  case nothing =>
    intro hnone
    rw [exec_intcClaim_of_own ht hmay hown, State.claim_of_none fun p hp => by simpa using hnone p hp]
    rfl
  case first =>
    intro p hin hp hfirst
    rw [exec_intcClaim_of_own ht hmay hown, State.claim_of_first hin hp hfirst]
    rfl
  case complete =>
    intro hactive
    exact ⟨_, exec_intcComplete_of_own ht hmay v hown, State.completeSrc_src hactive⟩
  case misfire =>
    intro hnot
    rw [exec_intcComplete_of_own ht hmay v hown, State.completeSrc_of_misfire hnot]
  case foreign =>
    cases hown : unitTarget t with
    | true => exact ⟨s, exec_intcComplete_of_unit ht v (by rw [hhost, hown, Bool.and_self]), rfl⟩
    | false =>
      have hother : (s.src (bits v.toNat 0 10)).claimer ≠ t := by
        rintro rfl
        exact Bool.noConfusion (hown.symm.trans ((unitTarget_iff _).mpr ⟨hlo, hhi⟩))
      rw [exec_intcComplete_of_own ht hmay v (by rw [hown, Bool.and_false]), State.completeSrc_of_misfire fun h => hother h.2]
      exact ⟨_, rfl, rfl⟩

/-- Settles O57: each row is one access to the controller by a reader that reaches it. -/
theorem interruptRowsTakeEffect : Obligations.InterruptRowsTakeEffect := by
  unfold Obligations.InterruptRowsTakeEffect
  refine ⟨?claim, ?complete, ?test, ?srcWrite⟩
  case claim => exact fun s rd t ht hmay hown => exec_intcClaim_of_own ht hmay hown
  case complete => exact fun s rd t v ht hmay hown => exec_intcComplete_of_own ht hmay v hown
  case test => exact fun s rd v hmay => congrArg done (if_pos hmay)
  case srcWrite => exact fun s rd i v hi hmay => congrArg done (onUnit_write (fun s => s.writeSrc (Reader.isHost rd) i v.toNat) hi hmay)

end Sys2Proof.Machine
end

