-- ==== Sys2Proof/Proofs/DebugRows.lean ====
section
/-! What challenges, unlock attempts, TRST_N and SEC_DEBUG do to the debug port (R357, R358, R533). -/

set_option Elab.async false

namespace Sys2Proof.Machine

section
variable (s : State)

theorem State.rise_sec (n : Nat) : (s.rise n).sec = s.sec := by
  unfold State.rise
  split
  · exact State.withIntc_sec _ _
  · rfl

/-- A failed attempt counts, up to three, and changes nothing else of the security engine. -/
theorem State.unlockFailed_sec (level : Nat) : (s.unlockFailed level).sec = { s.sec with unlockFails := min 3 (s.sec.unlockFails + 1) } := by
  unfold State.unlockFailed
  extract_lets n t u
  split
  · rw [State.rise_sec]
    rfl
  · rfl

/-- The device after an attempt that the port takes: the challenge is used up whatever comes of it (R357, R358). -/
def State.unlockAttempt (level : Nat) (key sig : Bytes) : State :=
  let u : State := { s with sec := { s.sec with challenge := none } }
  if 3 ≤ s.sec.unlockFails then u
  else if s.unlockOk level key sig then
    { u with sec := { u.sec with jtagLevel := level, chipUnlocked := true, engineOpened := u.sec.engineOpened || level == 2 } }.log 0x0702 none none
      (natLE 1 level ++ natLE 1 1)
  else u.unlockFailed level

theorem exec_jtagUnlock_of_reached {level : Nat} (key sig : Bytes) (hreached : s.jtagReached = true) (hlevel : level ≠ 0) :
    exec (.jtagUnlock level key sig) s = .next (s.unlockAttempt level key sig) := by
  have htakes : ¬ (!s.jtagReached || level == 0) = true := by simp [hreached, hlevel]
  change execJtagUnlock level key sig s = _
  rw [execJtagUnlock, if_neg htakes, done, State.unlockAttempt]

theorem State.unlockAttempt_challenge (level : Nat) (key sig : Bytes) : (s.unlockAttempt level key sig).sec.challenge = none := by
  unfold State.unlockAttempt
  extract_lets u
  split
  · rfl
  · split
    · rfl
    · rw [State.unlockFailed_sec]

theorem State.unlockOk_of_disabled {level : Nat} {key sig : Bytes} (hfuse : s.kept.debugDisabled = true) : s.unlockOk level key sig = false := by
  simp [State.unlockOk, hfuse]

/-- After three failures an attempt ends at once; with the fuse burned it fails. -/
theorem State.unlockAttempt_of_blocked (level : Nat) (key sig : Bytes) (hblocked : 3 ≤ s.sec.unlockFails ∨ s.kept.debugDisabled = true) :
    (s.unlockAttempt level key sig).sec.jtagLevel = s.sec.jtagLevel ∧
    (s.unlockAttempt level key sig).sec.chipUnlocked = s.sec.chipUnlocked := by
  unfold State.unlockAttempt
  extract_lets u
  split
  · exact ⟨rfl, rfl⟩
  next hfew =>
    rw [s.unlockOk_of_disabled (hblocked.resolve_left hfew), if_neg Bool.false_ne_true, State.unlockFailed_sec]
    exact ⟨rfl, rfl⟩

/-- A reset that cuts an envelope burn or a firmware write short leaves the debug fuse as it is. -/
theorem State.keptAfter_debugDisabled (d : Nat) : (s.keptAfter d).debugDisabled = s.kept.debugDisabled := by
  unfold State.keptAfter
  extract_lets k k'
  have hk : k'.debugDisabled = k.debugDisabled := by
    simp only [k']
    split <;> rfl
  split <;> exact hk

/-- Bit 5 of SEC_STATUS, between the four bits below it and the two above (Table 11.11). -/
theorem State.secReg_unlockBlocked : bit (s.secReg 0) 5 = decide (3 ≤ s.sec.unlockFails) := by
  have hb2n : ∀ b, b2n b < 2 := by decide
  have hready := hb2n s.sec.attestReady
  have hconf := hb2n s.anyConf
  have hlevel : s.sec.jtagLevel % 4 < 4 := Nat.mod_lt _ (by decide)
  have hfuse := hb2n s.kept.debugDisabled
  have hvalue : s.secReg 0 = b2n s.sec.attestReady + 2 * b2n s.anyConf + 2 ^ 2 * (s.sec.jtagLevel % 4) + 2 ^ 4 * b2n s.kept.debugDisabled +
      2 ^ 5 * b2n (decide (3 ≤ s.sec.unlockFails)) + 2 ^ 6 * b2n s.imagesDiffer + 2 ^ 7 * b2n s.sec.keystoreFenced := rfl
  have hbit : s.secReg 0 / 2 ^ 5 % 2 = b2n (decide (3 ≤ s.sec.unlockFails)) := by
    have hfails := hb2n (decide (3 ≤ s.sec.unlockFails))
    omega
  rw [bit, hbit]
  cases decide (3 ≤ s.sec.unlockFails) <;> rfl

theorem exec_secDebugRelock_of_host (hreach : s.reached .host true = true) :
    exec (.secDebugRelock .host) s = .next { s with sec := { s.sec with jtagLevel := 0 } } := congrArg done (if_pos hreach)

theorem exec_secDebugDisable_of_host (hreach : s.reached .host true = true) :
    exec (.secDebugDisable .host) s = .next { s with kept := { s.kept with debugDisabled := true } } := congrArg done (if_pos hreach)

theorem State.secDebugWrite_of_not_host {rd : Reader} (hrd : rd ≠ .host) : ¬ s.secDebugWrite rd = true := by
  simp [State.secDebugWrite, hrd]

end

/-- Settles O17: an attempt is one of three outcomes, each of which clears the challenge; a reset keeps the fuses and nothing of the engine. -/
theorem debugUnlockRules : Obligations.DebugUnlockRules := by
  unfold Obligations.DebugUnlockRules
  refine ⟨?attempt, State.secReg_unlockBlocked, ?reset, ?host, ?others⟩
  case attempt =>
    exact fun s level key sig hreached hlevel => ⟨_, exec_jtagUnlock_of_reached s key sig hreached hlevel, s.unlockAttempt_challenge level key sig,
      s.unlockAttempt_of_blocked level key sig⟩
  case reset =>
    intro c s hc
    have hreset : ∃ cause, exec c s = .next (s.toReset cause) := by
      simp only [List.mem_cons, List.not_mem_nil, or_false] at hc
      rcases hc with rfl | rfl | rfl
      exacts [⟨0, rfl⟩, ⟨1, rfl⟩, ⟨2, rfl⟩]
    obtain ⟨cause, hexec⟩ := hreset
    exact ⟨_, hexec, rfl, State.keptAfter_debugDisabled _ _⟩
  case host => exact fun s hreach => ⟨exec_secDebugRelock_of_host s hreach, exec_secDebugDisable_of_host s hreach⟩
  case others =>
    exact fun s rd hrd => ⟨congrArg done (if_neg (s.secDebugWrite_of_not_host hrd)), congrArg done (if_neg (s.secDebugWrite_of_not_host hrd))⟩

/-- Settles O47: the port takes each access in the state the clause names; level 0 asks for nothing, and TRST_N fails an attempt whose challenge
has been read (log 108). -/
theorem debugRowsTakeEffect : Obligations.DebugRowsTakeEffect := by
  unfold Obligations.DebugRowsTakeEffect
  refine ⟨?challenge, ?unlock, ?trst, ?relock, ?disable⟩
  case challenge =>
    intro s hreached hengine
    have hanswers : ¬ (!s.jtagReached || s.engineLost) = true := by simp [hreached, hengine]
    exact congrArg done (if_neg hanswers)
  case unlock => exact fun s level key sig hreached hlevel => exec_jtagUnlock_of_reached s key sig hreached hlevel
  case trst =>
    intro s
    change execTrstNAssert s = _
    simp only [execTrstNAssert, done, Bool.and_eq_true, decide_eq_true_eq]
  case relock =>
    intro s hreset hlink hlost
    exact exec_secDebugRelock_of_host s (by simp [State.reached_host, hreset, hlink, hlost])
  case disable =>
    intro s hreset hlink hlost
    exact exec_secDebugDisable_of_host s (by simp [State.reached_host, hreset, hlink, hlost])

end Sys2Proof.Machine
end

