-- ==== Sys2Proof/Proofs/RegisterReads.lean ====
section
/-! What a read in a mirrored window and the reads of the two words of a 64-bit value do (R502, R503). -/

set_option Elab.async false

namespace Sys2Proof.Machine

/-! ## Keys of the shadows (log 117) -/

theorem readerCode_injective {a b : Reader} (h : readerCode a = readerCode b) : a = b := by
  revert h
  cases a <;> cases b <;> decide

/-- Each reader has its own keys for the offsets of the normal window. -/
theorem shadowKey_eq_iff {a b : Reader} {off off' : Nat} (ho : off < 0x1000000) (ho' : off' < 0x1000000) :
    shadowKey a off = shadowKey b off' ↔ a = b ∧ off = off' := by
  refine ⟨fun h => ?_, fun ⟨hr, hoff⟩ => by rw [hr, hoff]⟩
  unfold shadowKey at h
  exact ⟨readerCode_injective (by omega), by omega⟩

/-! ## What a read leaves unchanged -/

/-- What of the device only a latch and an output change. -/
def State.shown (s : State) : Tab Nat × List OutEvent := (s.diag.shadows, s.outbox)

theorem withPart_shown {α : Type} {s : State} {x : Option (Nat × α)} {put : α → State} {v : Nat} {t : State}
    (ht : withPart x put = some (v, t)) (h : ∀ a, (put a).shown = s.shown) : t.shown = s.shown := by
  obtain ⟨p, -, hp⟩ := Option.map_eq_some_iff.mp ht
  cases hp
  exact h p.2

/-- A counter is a part of one unit, or the count of injected faults. -/
theorem State.counter_shown {s t : State} {b : RegBlock} {u o v : Nat} (ht : s.counter b u o = some (v, t)) : t.shown = s.shown := by
  cases b with
  | err =>
    simp only [State.counter] at ht
    split at ht
    · cases ht
      rfl
    · cases ht
  | ident => cases ht
  | telem => cases ht
  | _ =>
    simp only [State.counter] at ht
    exact withPart_shown ht fun _ => rfl

theorem State.capture_shown (s : State) (n : Nat) : (s.capture n).shown = s.shown := rfl

theorem State.afterRead_shown (s : State) (rd : Reader) (b : RegBlock) (u o off : Nat) :
    (s.afterRead rd b u o off).shown = (s.latchHigh rd b u o off).shown := by
  unfold State.afterRead
  extract_lets t
  split
  · rfl
  · split
    next hcounter => exact State.counter_shown hcounter
    next => split <;> rfl

theorem State.latchHigh_of_hasHigh {s : State} {b : RegBlock} {o : Nat} (rd : Reader) (u off : Nat) (hhigh : lowWord b (o + 4) = some o) :
    (s.latchHigh rd b u o off).shown = (Tab.set 0 s.diag.shadows (shadowKey rd off) (s.regWord b u (o + 4)), s.outbox) := by
  have hlatches : hasHigh b o = true := by rw [hasHigh, hhigh, beq_self_eq_true]
  rw [State.latchHigh, if_pos hlatches]
  rfl

/-! ## The reads -/

theorem regAt_eq_none_of_alias {off : Nat} (hoff : 0x1000000 ≤ off) : regAt off = none := by
  have hout : ∀ x ∈ regBlocks, x.2.1 ≤ 0x1000000 := by decide
  have hfind : regBlocks.find? (fun x => decide (x.1 ≤ off) && decide (off < x.2.1)) = none := by
    refine List.find?_eq_none.mpr fun x hx => ?_
    have hend := hout x hx
    simp only [Bool.and_eq_true, decide_eq_true_eq]
    omega
  rw [regAt, hfind]
  rfl

/-- Where no block stands a read shows 0 to a reader that BAR0 answers. -/
theorem State.readAccess_of_alias {s : State} {rd : Reader} {off : Nat} (hlo : 0x1000000 ≤ off) (hhi : off < 0x4000000)
    (hreach : s.reached rd false = true) : s.readAccess rd off = s.emit (.regRead rd off 0) := by
  have hbar0 : ¬ bar4Base ≤ off := Nat.not_le.mpr hhi
  simp only [State.readAccess, if_neg hbar0, regAt_eq_none_of_alias hlo, if_pos hreach]
  rfl

section
variable {s : State} {b : RegBlock} {o : Nat} (rd : Reader) (u off : Nat)

theorem State.readReg_of_lowWord (hhigh : lowWord b (o + 4) = some o) (hclaim : claimReg b o = none) (hlow : lowWord b o = none) :
    s.readReg rd b u o off = (s.regWord b u o, s.afterRead rd b u o off) ∧
    (s.afterRead rd b u o off).shown = (Tab.set 0 s.diag.shadows (shadowKey rd off) (s.regWord b u (o + 4)), s.outbox) := by
  refine ⟨?_, (State.afterRead_shown _ _ _ _ _ _).trans (State.latchHigh_of_hasHigh rd u off hhigh)⟩
  simp only [State.readReg, hlow, hclaim]

theorem State.readReg_of_highWord {low : Nat} (hlow : lowWord b o = some low) :
    s.readReg rd b u o off = (Tab.get 0 s.diag.shadows (shadowKey rd (off - 4)), s) := by
  simp only [State.readReg, hlow]

end

/-- Settles O16: a mirrored window holds no block, the read of a low word is a latch for the reader and an output, and the read of a high word looks
the shadow up. One shadow for each reader and register is the model's reading (log 117). -/
theorem aliasReadsAndShadows : Obligations.AliasReadsAndShadows := by
  unfold Obligations.AliasReadsAndShadows
  refine ⟨?window, fun s rd b off u o hoff hreg halign hreach => ⟨?low, ?high⟩, fun _ => rfl⟩
  case window =>
    intro s rd off hlo hhi hreach
    rw [exec_counterReadClear, exec_lowWordLatchRead, State.readAccess_of_alias hlo hhi hreach]
    exact ⟨rfl, rfl⟩
  case low =>
    intro hhigh hclaim hlow
    obtain ⟨hread, hshown⟩ := State.readReg_of_lowWord (s := s) rd u off hhigh hclaim hlow
    obtain ⟨hshadows, houtbox⟩ := Prod.mk.inj hshown
    rw [exec_lowWordLatchRead, State.readAccess_of_mapped hoff hreg halign hreach, hread]
    refine ⟨_, rfl, by rw [State.emit, houtbox], fun rd' off' hoff' => ?_⟩
    rw [State.emit, hshadows, Tab.get_set]
    simp only [shadowKey_eq_iff hoff' hoff]
  case high =>
    intro hlow
    rw [exec_lowWordLatchRead, State.readAccess_of_mapped hoff hreg halign hreach, State.readReg_of_highWord rd u off hlow]

end Sys2Proof.Machine
end

