-- ==== Sys2Proof/Proofs/MailboxRows.lean ====
section
/-! What the mailbox's commands on events, information and poison and the objects of DOE do where the mailbox is reached (R349, R390, R392, R393,
R449). -/

set_option Elab.async false

namespace Sys2Proof.Machine

/-! ## The mailbox -/

/-- Settles O53: each row is what its command does where the mailbox is reached. Fifteen records to an answer, and a clear that names none, are the
model's choice (log 112). -/
theorem mailboxEventRowsTakeEffect : Obligations.MailboxEventRowsTakeEffect := by
  unfold Obligations.MailboxEventRowsTakeEffect
  refine ⟨?get, ?clear, ?clearNone, ?getPolicy, ?setPolicy⟩
  case get => exact fun s log hon => congrArg done (State.onMailbox_of_on hon _)
  case clear =>
    intro s log handles l hon hlog
    change execClearEventRecords log handles s = _
    simp only [execClearEventRecords, State.onMailbox_of_on hon, done, hlog]
  case clearNone =>
    intro s log handles hon hlog
    change execClearEventRecords log handles s = _
    simp only [execClearEventRecords, State.onMailbox_of_on hon, done, hlog]
  case getPolicy => exact fun s hon => congrArg done (State.onMailbox_of_on hon _)
  case setPolicy => exact fun s l hon => congrArg done (State.onMailbox_of_on hon _)

/-- Settles O54: each row is what its command does where the mailbox is reached; the layout of the answers is the model's (log 37). -/
theorem mailboxInfoRowsTakeEffect : Obligations.MailboxInfoRowsTakeEffect := by
  unfold Obligations.MailboxInfoRowsTakeEffect
  refine ⟨?firmware, ?getTime, ?setTime, ?logs, ?log, ?identify, ?health, ?poison, ?unsupported⟩
  case firmware => exact fun s hon => congrArg done (State.onMailbox_of_on hon _)
  case getTime => exact fun s hon => congrArg done (State.onMailbox_of_on hon _)
  case setTime => exact fun s n hon => congrArg done (State.onMailbox_of_on hon _)
  case logs => exact fun s hon => congrArg done (State.onMailbox_of_on hon _)
  case log => exact fun s hon => congrArg done (State.onMailbox_of_on hon _)
  case identify => exact fun s hon => congrArg done (State.onMailbox_of_on hon _)
  case health => exact fun s hon => congrArg done (State.onMailbox_of_on hon _)
  case poison => exact fun s hon => congrArg done (State.onMailbox_of_on hon _)
  case unsupported =>
    intro s n hon hunknown
    change execMailboxUnsupported n s = _
    rw [execMailboxUnsupported, State.onMailbox_of_on hon, hunknown, done]
    rfl

/-! ## DOE -/

section
variable {s : State} {code step : Nat} {req : Bytes} (hon : s.mailboxOn = true)
include hon

/-- A request of the row's code and version, in its place. -/
theorem State.onSpdm_of_inPlace (f : State → State) (hcode : fieldAt req 1 1 = code)
    (hversion : fieldAt req 0 1 = if code = 0x84 then 0x10 else 0x12) (hstep : step ≤ s.sec.spdmStep) : s.onSpdm code step req f = f s := by
  simp only [State.onSpdm, State.onMailbox_of_on hon, hcode, hversion, ne_eq, not_true_eq_false, if_false, Nat.not_lt.mpr hstep]

/-- A request of a code that Table 11.6 does not name. -/
theorem State.onSpdm_of_unknown (f : State → State) (hknown : spdmCodes.contains code = true) (hunknown : spdmCodes.contains (fieldAt req 1 1) = false) :
    s.onSpdm code step req f = s.spdmError 0x07 (fieldAt req 1 1) := by
  have hcode : fieldAt req 1 1 ≠ code := fun h => Bool.noConfusion (hunknown.symm.trans (h ▸ hknown))
  rw [State.onSpdm, State.onMailbox_of_on hon]
  simp only [if_pos hcode, hunknown, Bool.false_eq_true, if_false]

/-- A request that is answered under the attestation key of this boot. -/
theorem State.onSigned_of_inPlace (f : State → State) (hcode : fieldAt req 1 1 = code) (hother : code ≠ 0x84) (hversion : fieldAt req 0 1 = 0x12)
    (hstep : 3 ≤ s.sec.spdmStep) (hkey : s.sec.attestReady = true) (hengine : s.engineLost = false) : s.onSigned code req f = f s := by
  have hsigns : ¬ (!s.sec.attestReady || s.engineLost) = true := by simp [hkey, hengine]
  rw [State.onSigned, State.onSpdm_of_inPlace hon _ hcode (by rw [if_neg hother, hversion]) hstep, if_neg hsigns]

end

/-- Settles O56: each row is what its object asks for; an SPDM request of its row's code and version, in its place, is answered (log 153). -/
theorem doeRowsTakeEffect : Obligations.DoeRowsTakeEffect := by
  unfold Obligations.DoeRowsTakeEffect
  refine ⟨?discovery, ?cdat, ?version, ?unknown, ?capabilities, ?algorithms, ?digests, ?certificate, ?challenge, ?measurements⟩
  case discovery => exact fun s n hon => congrArg done (State.onMailbox_of_on hon _)
  case cdat => exact fun s n hon => congrArg done (State.onMailbox_of_on hon _)
  case version => exact fun s req hon hcode hversion => congrArg done (State.onSpdm_of_inPlace hon _ hcode hversion (Nat.zero_le _))
  case unknown => exact fun s req hon hunknown => congrArg done (State.onSpdm_of_unknown hon _ (by decide) hunknown)
  case capabilities =>
    intro s req hon hcode hversion hstep
    change execGetCapabilities req s = _
    rw [execGetCapabilities, State.onSpdm_of_inPlace hon _ hcode hversion hstep.ge, if_neg (not_not.mpr hstep), done]
  case algorithms =>
    intro s req hon hcode hversion hstep
    change execNegotiateAlgorithms req s = _
    rw [execNegotiateAlgorithms, State.onSpdm_of_inPlace hon _ hcode hversion hstep.ge, done]
    exact congrArg _ (if_neg (not_not.mpr hstep))
  case digests =>
    exact fun s req hon hcode hversion hstep hkey hengine =>
      congrArg done (State.onSigned_of_inPlace hon _ hcode (by decide) hversion hstep hkey hengine)
  case certificate =>
    exact fun s req hon hcode hversion hstep hkey hengine =>
      congrArg done (State.onSigned_of_inPlace hon _ hcode (by decide) hversion hstep hkey hengine)
  case challenge =>
    exact fun s req hon hcode hversion hstep hkey hengine =>
      congrArg done (State.onSigned_of_inPlace hon _ hcode (by decide) hversion hstep hkey hengine)
  case measurements =>
    intro s req l hon hcode hversion hstep hkey hengine
    dsimp only
    intro hblocks
    change execGetMeasurements req s = _
    rw [execGetMeasurements, State.onSigned_of_inPlace hon _ hcode (by decide) hversion hstep hkey hengine, done]
    dsimp only
    rw [hblocks]
    rfl

end Sys2Proof.Machine
end

