-- ==== Sys2Proof/Proofs/ControlUnitRows.lean ====
section
/-! How the control units renew and pass on the token, vote, fail and come back, and what TRIPLEX_MODE does (R365-R368, R371, R494). -/

set_option Elab.async false

namespace Sys2Proof.Machine

section
variable {s : State}

theorem exec_tokenRenewal_of_serving {u : Nat} (hholder : s.triplex.holder = some u) (hserves : (s.cu u).state = .serving)
    (hstopped : s.triplex.stopped = false) (hreset : s.boot.inReset = false) :
    exec .tokenRenewal s =
      .next (let w := s.untilElapsed s.triplex.renewAt
             { w with triplex := { w.triplex with leaseEnd := w.clk.elapsed + 4000, renewAt := w.clk.elapsed + 1000 } }) := by
  have hrenews : ¬ ((s.cu u).state != .serving || s.triplex.stopped || s.boot.inReset) = true := by simp [hserves, hstopped, hreset]
  change execTokenRenewal s = _
  rw [execTokenRenewal, hholder, done]
  exact congrArg _ (if_neg hrenews)

/-- The unit at position `i` after the holder, the first that serves, takes the token 2 us later for each place. -/
theorem exec_tokenLeaseExpiry_of_successor {i : Nat} (hheld : s.triplex.holder.isSome = true) (hstopped : s.triplex.stopped = false)
    (hreset : s.boot.inReset = false) (hfirst : s.rankAfter.findIdx? (fun u => (s.cu u).state == .serving) = some i) :
    exec .tokenLeaseExpiry s =
      .next (((s.untilElapsed (s.triplex.leaseEnd + 2000 * i)).takeToken (s.rankAfter.getD i 0) (i + 1) true).rise 0x257) := by
  have hexpires : ¬ (s.triplex.holder.isNone || s.triplex.stopped || s.boot.inReset) = true := by
    simp [hstopped, hreset, Option.isSome_iff_ne_none.mp hheld]
  change execTokenLeaseExpiry s = _
  simp only [execTokenLeaseExpiry, done, if_neg hexpires, hfirst]

theorem exec_cuParityError_of_working {unit : Nat} (hunit : unit < 3)
    (hworks : (s.cu unit).state = .serving ∨ (s.cu unit).state = .syncing) (hreset : s.boot.inReset = false) :
    exec (.cuParityError unit) s =
      .next ((if s.diag.injArm && s.diag.injKind == 7 && s.diag.injUnit == unit then
          State.injected { s with diag := { s.diag with injArm := false } } 0x26 unit else s).failUnit unit) := by
  have hacts : ¬ ((s.cu unit).state != .serving && (s.cu unit).state != .syncing || s.boot.inReset) = true := by
    rcases hworks with h | h <;> simp [h, hreset]
  change execCuParityError unit s = _
  rw [execCuParityError, onUnit_of_lt hunit, done]
  exact congrArg _ (if_neg hacts)

end

/-- Settles O46: each row finds the unit, the holder or the notice on which it acts. -/
theorem controlUnitRowsTakeEffect : Obligations.ControlUnitRowsTakeEffect := by
  unfold Obligations.ControlUnitRowsTakeEffect
  refine ⟨?renewal, ?expiry, ?stale, ?vote, ?standby, ?parity⟩
  case renewal => exact fun s u hholder hserves hstopped hreset => exec_tokenRenewal_of_serving hholder hserves hstopped hreset
  case expiry => exact fun s i hheld hstopped hreset hfirst => exec_tokenLeaseExpiry_of_successor hheld hstopped hreset hfirst
  case stale =>
    intro s unit n hnotice
    change execStaleClaimNotice unit s = _
    simp only [execStaleClaimNotice, done, hnotice]
  case vote =>
    intro s a b d hlockstep hstopped hreset
    have hvotes : ¬ (!s.lockstep || s.triplex.stopped || s.boot.inReset) = true := by simp [hlockstep, hstopped, hreset]
    exact congrArg done (if_neg hvotes)
  case standby =>
    intro s hlockstep hstopped hreset
    have hleaves : ¬ (s.lockstep || s.triplex.stopped || s.boot.inReset) = true := by simp [hlockstep, hstopped, hreset]
    exact congrArg done (if_neg hleaves)
  case parity => exact fun s unit hunit hworks hreset => exec_cuParityError_of_working hunit hworks hreset

/-! ## The modes of the complex, and the record of its telemetry and log -/

/-- Settles O27: each command passes its checks and each event finds the unit or the capture that it ends. -/
theorem statusRowsTakeEffect : Obligations.StatusRowsTakeEffect := by
  unfold Obligations.StatusRowsTakeEffect
  refine ⟨?standby, ?out, ?release, ?rejoin, ?telemetry, ?log, ?capture, ?captured⟩
  case standby =>
    intro s c t k hk
    dsimp only
    intro hmode hunit
    change execTriplexMode c t s = _
    rw [execTriplexMode, State.withTaken_of_taken hk, done]
    simp only [hmode, if_neg (Nat.not_lt.mpr (Nat.le_of_lt_succ hunit))]
  case out =>
    intro s c t k hk
    dsimp only
    intro hmode hunit hserves hidle hothers
    have hparam : ¬ (3 ≤ k.par 17 1 ∨ (s.cu (k.par 17 1)).state ≠ .serving) := by simp [hunit, hserves]
    change execTriplexMode c t s = _
    rw [execTriplexMode, State.withTaken_of_taken hk, done]
    simp only [hmode, if_neg hparam, hidle, hothers, Bool.not_true, Bool.false_eq_true, if_false]
  case release =>
    intro s c t k hk
    dsimp only
    intro hmode hunit hserves
    have hparam : ¬ (3 ≤ k.par 17 1 ∨ (s.cu (k.par 17 1)).state ≠ .serving) := by simp [hunit, hserves]
    change execTriplexMode c t s = _
    rw [execTriplexMode, State.withTaken_of_taken hk, done]
    simp only [hmode, if_neg hparam]
  case rejoin =>
    intro s n hn hsyncing hcmd
    have hrejoins : ¬ ((s.cu n).state != .syncing) = true := by simp [hsyncing]
    change execUnitRejoin n s = _
    rw [execUnitRejoin, onUnit_of_lt hn, done]
    simp only [if_neg hrejoins, hcmd, Option.bind_none]
  case telemetry =>
    intro s c t k l hk
    dsimp only
    intro hprivate hvalues halign hroom hwritten
    have hright : ¬ (telemPrivate (k.par 16 1) && k.ctx != 0) = true := by simpa using hprivate
    change execTelemRead c t true s = _
    rw [execTelemRead, State.withTaken_of_taken hk, done]
    simp only [if_neg hright, hvalues, halign, ne_eq, not_true_eq_false, if_false, if_neg (Nat.not_lt.mpr hroom)]
    generalize s.writeOut k _ _ _ = r at hwritten ⊢
    obtain ⟨u, _ | st⟩ := r
    · rfl
    · cases hwritten
  case log =>
    intro s c t k hk
    dsimp only
    intro hwritten
    change execLogRead c t true s = _
    rw [execLogRead, State.withTaken_of_taken hk, done]
    dsimp only
    generalize s.writeOut k _ _ _ = r at hwritten ⊢
    obtain ⟨u, _ | st⟩ := r
    · rfl
    · cases hwritten
  case capture => exact fun s rd hmay => congrArg done (if_pos hmay)
  case captured =>
    intro s l hgo
    dsimp only
    intro hvalues
    change execTelemCaptureDone s = _
    simp only [execTelemCaptureDone, done, hgo, Bool.not_true, Bool.false_eq_true, if_false, hvalues]

end Sys2Proof.Machine
end

