-- ==== Sys2Proof/Proofs/TripleRows.lean ====
section
/-! What writes and reads of triple-placed lines do once their copies take them (R376, R377). -/

set_option Elab.async false

namespace Sys2Proof.Machine

/-- What a write of request `m` to the copies of its line leaves, with the reason where it fails. -/
def State.tripletWrite (s : State) (m : Req) : State × Option Nat :=
  match m.op with
  | .wrPart => s.homePartial (m.dpa / 64) m.holder m.data (spanMask (m.dpa % 64) m.aux)
  | .accLine =>
    match s.readVote (m.dpa / 64) (some m.holder) with
    | (t, .data d) => t.writeCopies (m.dpa / 64) (accAdd d (padTo 64 m.data))
    | (t, .bad r) => (t, some r)
  | _ => s.writeCopies (m.dpa / 64) m.data

/-- The head of a line's queue ends with what its write gave: no data, or the reason. -/
def State.tripletWritten (l : Nat) (p : State × Option Nat) : State :=
  match p.2 with
  | none => p.1.headDone l (some []) none
  | some r => p.1.headDone l none (some r)

theorem State.tripletWritten_eq (l : Nat) (p : State × Option Nat) :
    State.tripletWritten l p = if p.2 = none then p.1.headDone l (some []) none else p.1.headDone l none p.2 := by
  obtain ⟨t, _ | r⟩ := p <;> rfl

theorem exec_tripletWriteIssue_of_waiting {s : State} {n : Nat} {m : Req} (hwaits : s.tripWrites[n]? = some m) :
    exec (.tripletWriteIssue n) s =
      .next (if s.copiesOpen (m.dpa / 64) m.holder then
          State.tripletWritten (m.dpa / 64) (State.tripletWrite { s with tripWrites := s.tripWrites.eraseIdx n } m) else s) := by
  change execTripletWriteIssue n s = _
  rw [execTripletWriteIssue, hwaits, done]
  dsimp only
  cases s.copiesOpen (m.dpa / 64) m.holder <;> rfl

/-- Settles O34: the request that waits is issued once its copies take it, and its line's queue moves on with what came of it. -/
theorem tripleRowsTakeEffect : Obligations.TripleRowsTakeEffect := by
  unfold Obligations.TripleRowsTakeEffect
  refine ⟨?write, ?read⟩
  case write =>
    intro s n m hwaits
    rw [exec_tripletWriteIssue_of_waiting hwaits, State.tripletWritten_eq]
    rfl
  case read =>
    intro s n m hwaits
    dsimp only
    intro hopen
    change execTripletReadVote n s = _
    simp only [execTripletReadVote, done, hwaits, hopen, Bool.false_eq_true, if_false]
    generalize State.readVote _ _ _ = r
    obtain ⟨t, _ | _⟩ := r <;> rfl

end Sys2Proof.Machine
end

