-- ==== Sys2Proof/Proofs/StartUpRows.lean ====
section
/-! The resets, their release and the steps of start-up (R339, R404, R406, R409, R413-R415, R428). -/

set_option Elab.async false

namespace Sys2Proof.Machine

/-! ## Resets -/

/-- Settles O48: a reset is the factory state with what Table 14.2 keeps, the cause and the model's own records; the release is `State.release`,
whose supply readings are nominal (log 54). -/
theorem resetRowsTakeEffect : Obligations.ResetRowsTakeEffect := by
  unfold Obligations.ResetRowsTakeEffect
  refine ⟨fun _ => rfl, fun _ => rfl, fun _ => rfl, ?clkrst, fun s hreset => exec_internalResetRelease_of_inReset hreset⟩
  case clkrst =>
    intro s rd v hmay hbit hkey
    have hresets : (s.mayWrite rd false && bit v.toNat 0 && bits v.toNat 8 8 == 0xD1) = true := by simp [hmay, hbit, hkey]
    exact congrArg done (if_pos hresets)

/-! ## Kindling (R339) -/

section
variable {s : State}

/-- The steps of start-up run outside a reset and outside a supply episode. -/
theorem exec_kindlingVerify_of_unverified {unit : Nat} (hunit : unit < 3) (hreset : s.boot.inReset = false)
    (hstep : s.boot.step = 1 ∨ s.boot.step = 2) (hnew : (s.cu unit).verified = false) (hheld : s.held = false) (hrun : s.boot.halted = false) {u w : State}
    (hu : (if s.boot.step = 1 then
        { s with boot := { s.boot with step := 2 }, kept := { s.kept with bootCount := (s.kept.bootCount + 1) % 2 ^ 32 } } else s) = u)
    (hw : u.verifyUnit unit = w) :
    exec (.kindlingVerify unit) s =
      .next (if (w.triplex.units.all fun (c : Cu) => c.verified || c.state == CuState.lost) = true then w.kindlingEnds else w) := by
  have hverifies : ¬ (s.boot.inReset || (s.boot.step != 1 && s.boot.step != 2) || (s.cu unit).verified || s.held || s.boot.halted) = true := by
    rcases hstep with h | h <;> simp [hreset, h, hnew, hheld, hrun]
  change execKindlingVerify unit s = _
  rw [execKindlingVerify, onUnit_of_lt hunit, done]
  simp only [if_neg hverifies, hu, hw]

/-! ## Tiles, decode tables, stacks and the end of start-up (R409, R413-R415) -/

theorem exec_tileWave_of_next {w : Nat} (hreset : s.boot.inReset = false) (hstep : s.boot.step = 4) (hnext : s.boot.waves = w) (hw : w < 8)
    (hheld : s.held = false) {u v : State} (hu : (if w = 0 then s else s.untilElapsed (s.boot.waveAt + 50000)) = u)
    (hv : ((List.range 256).filter fun t => t % 64 / 8 == w && !u.hearthLost (tileHearth t)).foldl
        (fun (t : State) i => t.modEmber i fun e => { e with poweredOff := false }) u = v) :
    exec (.tileWave w) s = .next { v with boot := { v.boot with waves := w + 1, waveAt := v.clk.elapsed } } := by
  have hpowers : ¬ (s.boot.inReset || s.boot.step != 4 || s.boot.waves != w || decide (8 ≤ w) || s.held) = true := by
    simp [hreset, hstep, hnext, hw, hheld]
  change execTileWave w s = _
  simp only [execTileWave, done, if_neg hpowers, hu, hv]

theorem exec_tilePowerGoodTimeout_of_wave {tile : Nat} (htile : tile < 256) (hreset : s.boot.inReset = false) (hstep : s.boot.step = 4)
    (hwave : s.boot.waves = tile % 64 / 8 + 1) (hlost : s.hearthLost (tileHearth tile) = false) (hheld : s.held = false)
    (hunfenced : (s.chan (2 * tile)).state ≠ .fenced ∨ (s.ember tile).state ≠ .fenced) {u : State}
    (hu : (s.untilElapsed (s.boot.waveAt + 40000)).fenceTile tile = u) :
    exec (.tilePowerGoodTimeout tile) s =
      .next (State.log { u with boot := { u.boot with tilesFenced := min 255 (u.boot.tilesFenced + 1) } } 0x0403 none none (natLE 1 tile)) := by
  have hfences : ¬ (s.boot.inReset || s.boot.step != 4 || s.boot.waves != tile % 64 / 8 + 1 || s.hearthLost (tileHearth tile) || s.held ||
      ((s.chan (2 * tile)).state == .fenced && (s.ember tile).state == .fenced)) = true := by
    rcases hunfenced with h | h <;> simp [hreset, hstep, hwave, hlost, hheld, h]
  change execTilePowerGoodTimeout tile s = _
  rw [execTilePowerGoodTimeout, onUnit_of_lt htile, done]
  simp only [if_neg hfences, hu]

theorem State.not_startUp_waits (hreset : s.boot.inReset = false) {n : Nat} (hstep : s.boot.step = n) (hheld : s.held = false) :
    ¬ (s.boot.inReset || s.boot.step != n || s.held) = true := by
  simp [hreset, hstep, hheld]

end

/-- Settles O49: each step of start-up acts in the step it belongs to, on the unit, wave, tile or stack that is next. Images that fail are logged one
by one, the channels of a fenced tile are not (log 109). -/
theorem startUpRowsTakeEffect : Obligations.StartUpRowsTakeEffect := by
  unfold Obligations.StartUpRowsTakeEffect
  refine ⟨?kindling, ?wave, ?powerGood, ?broadcast, ?training, ?ready⟩
  case kindling =>
    intro s unit hunit hreset hstep hnew hheld hrun
    exact exec_kindlingVerify_of_unverified hunit hreset hstep hnew hheld hrun rfl rfl
  case wave =>
    intro s w hreset hstep hnext hw hheld
    exact exec_tileWave_of_next hreset hstep hnext hw hheld rfl rfl
  case powerGood =>
    intro s tile htile hreset hstep hwave hlost hheld hunfenced
    exact exec_tilePowerGoodTimeout_of_wave htile hreset hstep hwave hlost hheld hunfenced rfl
  case broadcast =>
    intro s first second hreset hstep hwaves hheld
    have hsends : ¬ (s.boot.inReset || s.boot.step != 4 || s.boot.waves != 8 || s.held) = true := by simp [hreset, hstep, hwaves, hheld]
    exact congrArg done (if_neg hsends)
  case training =>
    intro s stack failed hreset hstep hnext hheld
    have htrains : ¬ (s.boot.inReset || s.boot.step != 6 || s.nextStack != some stack || s.held) = true := by simp [hreset, hstep, hnext, hheld]
    exact congrArg done (if_neg htrains)
  case ready => exact fun s hreset hstep hheld => congrArg done (if_neg (State.not_startUp_waits hreset hstep hheld))

end Sys2Proof.Machine
end

