-- ==== Sys2Proof/Proofs/SupplyRows.lean ====
section
/-! A supply episode from its warning to its end (R428, R430-R432). -/

set_option Elab.async false

namespace Sys2Proof.Machine

section
variable {s : State} {e : Episode} (hepisode : s.boot.episode = some e)
include hepisode

/-- The release at the end of the wait that fits the stacks' state: with stacks not banked, 100 ns. -/
theorem exec_supplyRelease_of_unbanked (hbanked : e.banked = false) (hopen : e.released = none) {v : State}
    (hv : State.pass { s.untilElapsed s.boot.heldUntil with
        boot := { (s.untilElapsed s.boot.heldUntil).boot with vcore := [750, 750, 750, 750], lowest := 750, lowHearth := 0 } } 100 = v) :
    exec .supplyRelease s = .next { v with boot := { v.boot with episode := some { e with released := some v.clk.elapsed } } } := by
  change execSupplyRelease s = _
  simp only [execSupplyRelease, done, hepisode, hopen, Option.isSome_none, Bool.false_eq_true, if_false, hbanked, hv]

/-- With banked stacks, 100 us and the time of the exit; those that change no frequency then serve again. -/
theorem exec_supplyRelease_of_banked (hbanked : e.banked = true) (hopen : e.released = none) {v w x : State}
    (hv : State.pass { s.untilElapsed s.boot.heldUntil with
        boot := { (s.untilElapsed s.boot.heldUntil).boot with vcore := [750, 750, 750, 750], lowest := 750, lowHearth := 0 } } (100000 + 2900) = v)
    (hw : (List.range 512).foldl (fun (t : State) g => t.modChan g fun c =>
        if c.changing.isSome then c
        else { c with banked := false, zqLast := v.clk.elapsed, rtLast := v.clk.elapsed, rtTemp := v.dieTemp (chanStack g), zqDue := false, rtDue := false }) v
      = w)
    (hx : (w.chans.map Prod.fst).foldl (fun t g => t.serveChan g) w = x) :
    exec .supplyRelease s = .next { x with boot := { x.boot with episode := some { e with released := some x.clk.elapsed } } } := by
  change execSupplyRelease s = _
  simp only [execSupplyRelease, done, hepisode, hopen, Option.isSome_none, Bool.false_eq_true, if_false, hbanked, if_true, hv, hw, hx]

end

/-- Settles O51: a warning finds an episode or begins one, and each later row finds the episode in the state on which it acts. The readings after a
release and the time of the log entry are the model's choices (log 54, log 114). -/
theorem supplyRowsTakeEffect : Obligations.SupplyRowsTakeEffect := by
  unfold Obligations.SupplyRowsTakeEffect
  refine ⟨?warning, ?bank, ?release, ?releaseBanked, ?ends⟩
  case warning =>
    intro s h mv hreset hlow hh
    have hwarns : ¬ (s.boot.inReset || decide (700 ≤ mv) || decide (4 ≤ h)) = true := by simp [hreset, hlow, hh]
    exact congrArg done (if_neg hwarns)
  case bank =>
    intro s e hepisode hbanked hopen
    have hbanks : ¬ (e.banked || e.released.isSome) = true := by simp [hbanked, hopen]
    change execSupplyBankTimer s = _
    simp only [execSupplyBankTimer, done, hepisode, if_neg hbanks]
  case release => exact fun s e hepisode hbanked hopen => exec_supplyRelease_of_unbanked hepisode hbanked hopen rfl
  case releaseBanked => exact fun s e hepisode hbanked hopen => exec_supplyRelease_of_banked hepisode hbanked hopen rfl rfl rfl
  case ends =>
    intro s e r hepisode hreleased
    change execSupplyEpisodeEnd s = _
    simp only [execSupplyEpisodeEnd, done, hepisode, hreleased]

end Sys2Proof.Machine
end

