-- ==== Sys2Proof/Proofs/CxlLinkRows.lean ====
section
/-! The CXL link and its resets, and the host's memory requests (R382, R388, R389, R395). -/

set_option Elab.async false

namespace Sys2Proof.Machine

section
variable {s : State}

/-- The condition on which FLR and CXL.mem requests are dropped fails. -/
theorem linked_of_linkUp (hreset : s.boot.inReset = false) (hup : s.cxl.linkUp = true) : ¬ (s.boot.inReset || !s.cxl.linkUp) = true := by
  simp [hreset, hup]

theorem exec_cxlLinkTrained_of_grades {rate width r w : Nat} (hreset : s.boot.inReset = false) (hhearth : s.hearthLost 0 = false)
    (hrate : gradeOf rate 64 32 16 = some r) (hwidth : gradeOf width 16 8 4 = some w) :
    exec (.cxlLinkTrained rate width true) s = .next { s with cxl := { s.cxl with linkUp := true, rate := r, width := w } } := by
  have htrains : ¬ (s.boot.inReset || s.hearthLost 0 || !true) = true := by simp [hreset, hhearth]
  change execCxlLinkTrained rate width true s = _
  rw [execCxlLinkTrained, if_neg htrains, hrate, hwidth, done]

/-- A request that a decoder maps: an owner's write-back goes to the home of its line, any other request to the stamping point of CXL. -/
theorem exec_cxlMemRequest_of_mapped {hpa a : Nat} (op : HostMemOp) (hreset : s.boot.inReset = false) (hup : s.cxl.linkUp = true)
    (hmapped : decodeHpa hpa s.cxl.decoders 0 = some a) :
    exec (.cxlMemRequest hpa op) s =
      .next (match (s.hostReq a op).op, s.resolve (s.hostReq a op).pool with
        | .wb, some (r, d) => State.toHome { s with nextOrder := s.nextOrder + 1 } { s.hostReq a op with region := r, dpa := d }
        | _, _ =>
          if s.accepted a then
            { s with nextOrder := s.nextOrder + 1, stampQ := Tab.modify [] s.stampQ 288 (· ++ [s.hostReq a op]) }
          else s.endAtPoint (s.hostReq a op) 9) := by
  generalize hrequest : s.hostReq a op = m
  generalize hmessage : m.op = message, hplace : s.resolve m.pool = place
  change execCxlMemRequest hpa op s = _
  rw [execCxlMemRequest, if_neg (linked_of_linkUp hreset hup), hmapped, done]
  cases message <;> cases place <;> simp only [hrequest, hmessage, hplace]

end

/-- Settles O52: each event finds the link in the state in which it acts, and a memory request a decoder or none. What
a lost link and FLR keep is the model's reading (log 111). -/
theorem cxlLinkRowsTakeEffect : Obligations.CxlLinkRowsTakeEffect := by
  unfold Obligations.CxlLinkRowsTakeEffect
  refine ⟨?trained, ?down, ?hotReset, ?flr, ?request, ?unmapped⟩
  case trained => exact fun s rate width r w hreset hhearth hrate hwidth => exec_cxlLinkTrained_of_grades hreset hhearth hrate hwidth
  case down => exact fun s => rfl
  case hotReset =>
    intro s hreset
    exact congrArg done (if_neg (ne_true_of_eq_false hreset))
  case flr => exact fun s hreset hup => congrArg done (if_neg (linked_of_linkUp hreset hup))
  case request => exact fun s hpa op a hreset hup hmapped => exec_cxlMemRequest_of_mapped op hreset hup hmapped
  case unmapped =>
    intro s hpa op hreset hup hunmapped
    change execCxlMemRequest hpa op s = _
    rw [execCxlMemRequest, if_neg (linked_of_linkUp hreset hup), hunmapped, done]

end Sys2Proof.Machine
end

