-- ==== Sys2Proof/Proofs/KeyRows.lean ====
section
/-! Reports, bound keys and ingested weights (R348, R351-R353). -/

set_option Elab.async false

namespace Sys2Proof.Machine

/-! ## CTX_BIND_KEY (R351)

The blob has been read from the pool, its padding is zero, and the context may take a key. -/

section
variable {s u : State} {c t : Nat} {k : Cmd} {x : Ctx} {blob : Bytes} (hk : s.Taken c t 0x06 k) (hctx : s.ctx k.ctx = some x)
  (hconf : x.conf = true) (hattested : x.attested = true) (hkeys : s.keysLost = false)
  (hread : s.poolRead k.ctx (k.par 16 8) 128 rightRead = (u, .ok blob)) (hpadding : (blob.drop 121).all (· == 0) = true)
include hk hctx hconf hattested hkeys hread hpadding

theorem exec_ctxBindKey_of_not_opened
    (hplain : (Config.sm2Open x.ephemeral (blob.take 121)).filter (keyPlainOk · k.ctx) = none) :
    exec (.ctxBindKey c t) s =
      .next (State.refuse { u with sec := { u.sec with unwrapFail := satInc 16 u.sec.unwrapFail } } k stBadParam 0xFF [2]) := by
  change execCtxBindKey c t s = _
  rw [execCtxBindKey, State.withTaken_of_taken hk, done]
  simp only [hctx, hconf, hattested, hkeys, hread, hpadding, hplain, Bool.not_true, Bool.false_eq_true, if_false, if_true]

variable {p : Bytes} (hplain : (Config.sm2Open x.ephemeral (blob.take 121)).filter (keyPlainOk · k.ctx) = some p) (hlog : x.logFull = false)
include hplain hlog

theorem exec_ctxBindKey_of_weightKey (hkind : fieldAt p 18 1 = 1) (hroom : u.weightRoom k.ctx = true) :
    exec (.ctxBindKey c t) s =
      .next (((State.measured { u with sec := { u.sec with
            weightKeys := (u.sec.weightKeys.filter fun (w : WeightKey) => !(w.ctx == k.ctx && w.slot == fieldAt p 19 1)) ++
              [({ ctx := k.ctx, slot := fieldAt p 19 1, key := p.take 16 } : WeightKey)] } }
          k.ctx { kind := 3, object := fieldAt p 19 1, aux := 1, digest := Config.sm3 blob }).modCtx k.ctx
        fun x => { x with keyBound := true }).final k stOk (natLE 1 1 ++ natLE 1 (fieldAt p 19 1) ++ natLE 2 (fieldAt p 20 2))) := by
  change execCtxBindKey c t s = _
  rw [execCtxBindKey, State.withTaken_of_taken hk, done]
  simp only [hctx, hconf, hattested, hkeys, hread, hpadding, hplain, hlog, hkind, hroom, Nat.reduceEqDiff, Bool.not_true,
    Bool.false_eq_true, and_false, false_and, if_false, if_true]

theorem exec_ctxBindKey_of_sessionKey (hkind : fieldAt p 18 1 = 2) (hroom : u.sessionRoom k.ctx 1 = true) :
    exec (.ctxBindKey c t) s =
      .next (((State.measured { u with sec := { u.sec with
            sessionKeys := (u.sec.sessionKeys.filter fun (w : SessionKey) => !(w.ctx == k.ctx && w.peer == fieldAt p 20 2)) ++
              [({ ctx := k.ctx, peer := fieldAt p 20 2, key := p.take 16,
                  olds := ((u.sessionKey k.ctx (fieldAt p 20 2)).map fun o => (o.key, u.clk.elapsed) :: o.olds).getD [] } : SessionKey)] } }
          k.ctx { kind := 3, object := fieldAt p 20 2, aux := 2, digest := Config.sm3 blob }).modCtx k.ctx
        fun x => { x with keyBound := true }).final k stOk (natLE 1 2 ++ natLE 1 (fieldAt p 19 1) ++ natLE 2 (fieldAt p 20 2))) := by
  change execCtxBindKey c t s = _
  rw [execCtxBindKey, State.withTaken_of_taken hk, done]
  simp only [hctx, hconf, hattested, hkeys, hread, hpadding, hplain, hlog, hkind, hroom, Nat.reduceEqDiff, Bool.not_true,
    Bool.false_eq_true, and_false, false_and, if_false, if_true]

end

/-! ## WEIGHT_INGEST and its end (R352) -/

/-- An ingest of the length asked for that is due to begin: it waits until no agent holds a line of its destination. -/
theorem exec_weightIngest_of_checked {s : State} {c t rn dpa : Nat} {k : Cmd} {x : Ctx} {w : WeightKey} {r : Region}
    (hk : s.Taken c t 0x34 k) (hctx : s.ctx k.ctx = some x) (hkeys : s.keysLost = false) (hattested : x.conf = true → x.attested = true)
    (hsrc : k.par 16 8 % 64 = 0) (hdst : k.par 24 8 % 64 = 0) (hlen : k.par 32 8 % 64 = 0) (hlow : 64 ≤ k.par 32 8)
    (hhigh : k.par 32 8 ≤ 2 ^ 40) (hkey : s.sec.weightKeys.find? (fun w => w.ctx == k.ctx && w.slot == k.par 40 1) = some w)
    (hfrom : s.rangeStatus k.ctx (k.par 16 8) (k.par 32 8 + 16) rightRead = none)
    (hto : s.rangeStatus k.ctx (k.par 24 8) (k.par 32 8) rightWrite = none) (hresolve : s.resolve (k.par 24 8) = some (rn, dpa))
    (hregion : s.region rn = some r) (hconf : r.conf = true) :
    exec (.weightIngest c t) s =
      .next (let f := s.rangeFree k.ctx (k.par 24 8) (k.par 32 8)
             let z := f.1.zeroPool (k.par 24 8) (k.par 32 8)
             if f.2 = false then f.1.again k
             else State.running { z with sec := { z.sec with ingests := z.sec.ingests ++
               [({ ctx := k.ctx, tag := k.tag, source := k.par 16 8, dest := k.par 24 8, len := k.par 32 8,
                   iv := (k.bytes.drop 44).take 12, key := w.key,
                   running := decide ((z.sec.ingests.filter (·.running)).length < 4) } : Ingest)] } } k) := by
  have hmay : ¬ (x.conf && !x.attested) = true := by
    cases h : x.conf
    · simp
    · simp [hattested h]
  have hsize : ¬ (k.par 32 8 % 64 ≠ 0 ∨ k.par 32 8 < 64 ∨ 2 ^ 40 < k.par 32 8) := by omega
  change execWeightIngest c t s = _
  rw [execWeightIngest, State.withTaken_of_taken hk, done]
  simp only [hctx, hkeys, if_neg hmay, hsrc, hdst, if_neg hsize, hkey, hfrom, hto, hresolve, hregion, hconf, Option.map_some,
    Option.getD_some, ne_eq, not_true_eq_false, Bool.false_eq_true, if_false]
  rcases s.rangeFree k.ctx (k.par 24 8) (k.par 32 8) with ⟨u, free⟩
  cases free <;> rfl

/-- An ingest that runs, its source read and its destination free of agents' copies. -/
theorem exec_weightIngestDone_of_read {s u v : State} {c t : Nat} {k : Cmd} {x : Ctx} {g : Ingest} {b : Bytes}
    (hk : s.Running c t 0x34 k) (hingest : s.sec.ingests.find? (fun g => g.ctx == k.ctx && g.tag == k.tag) = some g)
    (hctx : s.ctx k.ctx = some x) (hengine : s.engineLost = false) (hrunning : g.running = true)
    (hread : s.poolRead k.ctx g.source (g.len + 16) rightRead = (u, .ok b)) (hfree : u.rangeFree k.ctx g.dest g.len = (v, true))
    (hto : State.rangeStatus { v with sec := { v.sec with ingests := startIngest (v.sec.ingests.filter (· != g)) } }
      k.ctx g.dest g.len rightWrite = none) (hlog : x.logFull = false) :
    exec (.weightIngestDone c t) s =
      .next (let w := { v with sec := { v.sec with ingests := startIngest (v.sec.ingests.filter (· != g)) } }
             let plain := (Config.sm4Gcm g.key g.iv [] (b.take g.len)).1
             let z := w.poolWrite k.ctx (g.len / 64 + 2) g.dest plain
             if (Config.sm4Gcm g.key g.iv [] plain).2 ≠ b.drop g.len then
               State.refuse { w.zeroPool g.dest g.len with sec := { w.sec with tagFail := satInc 16 w.sec.tagFail } } k stBadParam 0xFF [1]
             else if z.2 = false then z.1.refuse k stBadParam 24
             else (z.1.measured k.ctx { kind := 2, object := k.par 40 1, aux := g.dest, digest := Config.sm3 plain }).final k stOk
               (padTo 16 (Config.sm3 plain))) := by
  change execWeightIngestDone c t s = _
  rw [execWeightIngestDone, State.withRunning_of_running hk, done]
  simp only [hingest, hctx, hengine, hrunning, hread, hfree, hto, hlog, Bool.not_true, Option.isSome_none, Bool.false_eq_true, if_false]
  rcases State.poolWrite _ k.ctx (g.len / 64 + 2) g.dest _ with ⟨z, written⟩
  cases written <;> rfl

/-- Settles O20: each command passes its checks, and each end finds the report, the key or the ingest that it ends. A report whose
write the pool refuses names the address field, as the model has it (log 126). -/
theorem keyRowsTakeEffect : Obligations.KeyRowsTakeEffect := by
  unfold Obligations.KeyRowsTakeEffect
  refine ⟨?attest, ?signed, ?bind, ?retire, ?ingest, ?ingested⟩
  case attest =>
    intro s c t k x hk hctx hengine hready haligned
    dsimp only
    intro hneed hplace
    have hsigns : ¬ (s.engineLost || !s.sec.attestReady) = true := by simp [hengine, hready]
    have hwrites : ¬ (!bit (k.par 16 8) 63 && (s.rangeStatus k.ctx (k.par 16 8 % 2 ^ 48)
        (704 + 48 * x.log.length + if bit (k.par 59 1) 0 = true then s.chain.length else 0) rightWrite).isSome) = true := by
      rcases hplace with h | h <;> rw [h] <;> simp
    change execCtxAttest c t s = _
    rw [execCtxAttest, State.withTaken_of_taken hk, done]
    simp only [hctx, if_neg hsigns, haligned, if_neg (Nat.not_lt.mpr hneed), if_neg hwrites, ne_eq, not_true_eq_false, if_false]
  case signed =>
    intro s c t k g h hk hsigning hengine
    have hkept (l : List Signing) : State.engineLost { s with sec := { s.sec with signings := l } } = false := hengine
    have hchain (l : List Signing) (d : Nat) : State.chain { s with sec := { s.sec with signings := l }, draws := d } = s.chain := rfl
    change execReportSigningDone c t h s = _
    rw [execReportSigningDone, State.withRunning_of_running hk, done]
    simp only [hsigning, hkept, Bool.false_eq_true, if_false, State.draw, hchain]
    rcases State.writeOut _ k (k.par 16 8) _ h with ⟨u, _ | st⟩ <;> rfl
  case bind =>
    intro s c t k x blob hk hctx hconf hattested hkeys
    dsimp only
    intro hread hpadding hlog
    have hpool := Prod.ext (x := s.poolRead k.ctx (k.par 16 8) 128 rightRead) (y := (_, .ok blob)) rfl hread
    obtain ⟨v, hv⟩ : ∃ v, exec (.ctxBindKey c t) s = .next v := ⟨_, rfl⟩
    refine ⟨v, hv, fun hplain => ?_, fun p hplain => ⟨fun hkind hroom => ?_, fun hkind hroom => ?_⟩⟩
    · exact Host.Outcome.next.inj (hv.symm.trans (exec_ctxBindKey_of_not_opened hk hctx hconf hattested hkeys hpool hpadding hplain))
    · have hbound := exec_ctxBindKey_of_weightKey hk hctx hconf hattested hkeys hpool hpadding hplain hlog hkind hroom
      rw [Host.Outcome.next.inj (hv.symm.trans hbound)]
      exact ⟨⟨_, rfl⟩, List.mem_append_right _ (List.mem_singleton_self _)⟩
    · have hbound := exec_ctxBindKey_of_sessionKey hk hctx hconf hattested hkeys hpool hpadding hplain hlog hkind hroom
      rw [Host.Outcome.next.inj (hv.symm.trans hbound)]
      exact ⟨⟨_, rfl⟩, _, List.mem_append_right _ (List.mem_singleton_self _), rfl, rfl, rfl⟩
  case retire =>
    intro s c peer k o hkey hold
    change execSessionKeyRetire c peer s = _
    simp only [execSessionKeyRetire, hkey, hold, done, State.atElapsed]
  case ingest =>
    intro s c t k x w rn dpa r hk hctx hkeys hattested
    dsimp only
    intro hsrc hdst hlen hlow hhigh hkey hfrom hto hresolve hregion hconf
    exact exec_weightIngest_of_checked hk hctx hkeys hattested hsrc hdst hlen hlow hhigh hkey hfrom hto hresolve hregion hconf
  case ingested =>
    intro s c t k x g b hk hingest hctx hengine hrunning
    dsimp only
    intro hread hfree hto hlog
    exact exec_weightIngestDone_of_read hk hingest hctx hengine hrunning (Prod.ext rfl hread) (Prod.ext rfl hfree) hto hlog

end Sys2Proof.Machine
end

