-- ==== Sys2Proof/Proofs/BellowsRows.lean ====
section
/-! Bellows, the lifetime clock, the wear records and the regulators (R437, R439, R443, R448, R452, R516, R527, R533). -/

set_option Elab.async false

namespace Sys2Proof.Machine

section
variable {s : State}

/-- A row of bellows acts while bellows works. -/
theorem acts_of_bellowsOn (hon : s.bellowsOn = true) : ¬ (!s.bellowsOn) = true := by simp [hon]

/-- A host write to a register of bellows is taken while bellows works. -/
theorem writes_of_bellowsOn {rd : Reader} (hmay : s.mayWrite rd true = true) (hon : s.bellowsOn = true) :
    (s.mayWrite rd true && s.bellowsOn) = true := by simp [hmay, hon]

/-- A pulse comes through while its sensor is not silenced. -/
theorem counts_of_not_silenced {i : Nat} (hon : s.bellowsOn = true) (hsilenced : s.bell.injOn i 2 = false) :
    ¬ (!s.bellowsOn || s.bell.injOn i 2) = true := by simp [hon, hsilenced]

/-- A management row acts while the management interfaces work. -/
theorem acts_of_managed (hmanaged : s.managed = true) : ¬ (!s.managed) = true := by simp [hmanaged]

end

/-- Settles O58: each row finds bellows at work. The arithmetic of the controller and the window of the flow are
the model's (log 60, log 61). -/
theorem bellowsRowsTakeEffect : Obligations.BellowsRowsTakeEffect := by
  unfold Obligations.BellowsRowsTakeEffect
  refine ⟨?tick, ?clear, ?tach, ?flow, ?inject, ?expiry⟩
  case tick => exact fun s reads hon => congrArg done (if_neg (acts_of_bellowsOn hon))
  case clear => exact fun s rd hmay hon => congrArg done (if_pos (writes_of_bellowsOn hmay hon))
  case tach => exact fun s hon hsilenced => congrArg done (if_neg (counts_of_not_silenced hon hsilenced))
  case flow => exact fun s hon hsilenced => congrArg done (if_neg (counts_of_not_silenced hon hsilenced))
  case inject => exact fun s rd v hmay hon => congrArg done (if_pos (writes_of_bellowsOn hmay hon))
  case expiry =>
    intro s harmed
    have hends : ¬ (!s.bell.injArm) = true := by simp [harmed]
    exact congrArg done (if_neg hends)

/-- Settles O59: each row finds its clock, its due record or its interface at work. The hour in lifetime seconds is the model's choice (log 52). -/
theorem recordRowsTakeEffect : Obligations.RecordRowsTakeEffect := by
  unfold Obligations.RecordRowsTakeEffect
  refine ⟨?second, ?checkpoint, ?loss, ?poll, ?alert⟩
  case second => exact fun s hdriven => congrArg done (if_neg (ne_true_of_eq_false hdriven))
  case checkpoint =>
    intro s ok hon hdue hheld
    have hwrites : ¬ (!s.bellowsOn || !s.bell.ckptDue || s.held) = true := by simp [hon, hdue, hheld]
    exact congrArg done (if_neg hwrites)
  case loss => exact fun s => rfl
  case poll => exact fun s regs hmanaged => congrArg done (if_neg (acts_of_managed hmanaged))
  case alert => exact fun s w hmanaged => congrArg done (if_neg (acts_of_managed hmanaged))

end Sys2Proof.Machine
end
